-- ==== Sys2Proof/Syntax.lean ====
section
/-! DEFINITION. The steps of the SQN-192: one constructor for each row of spec/opcode_table.json.
The first 218 constructors are instruction words (R50 to R76 and the chapters R70 names), with the fields of
the word as bit vectors of their width. The others are events of the device's own units, of Keeper, of the
host and of the fabric; they have no encoding, and their operands (which object the event concerns, and what
the outside world brings with it) stand in the field arg of the state. -/

namespace Sys2Proof

/-- One step of the machine. -/
inductive Instr where
  /-- IMM (R61): Prefix word that latches a 24-bit immediate for the split's next non-prefix word. -/
  | imm (i : BitVec 24)
  /-- MOD (R62): Prefix word that latches saturation, operand, scaling, rounding, tag-rule, guard and scope modifiers for the next word. -/
  | mod (s c n m a b : BitVec 1) (k : BitVec 5) (r t : BitVec 3) (g : BitVec 4) (o : BitVec 3)
  /-- HINT (R65): Prefix word that latches scheduling hints (stall, yield, reuse) for the next word. -/
  | hint (s : BitVec 5) (y a b c : BitVec 1)
  /-- NOP (R73): Does nothing except consume the prefix latch. -/
  | nop
  /-- TRAP (R404): Raises TRAP_SW after the instruction in the active lanes whose predicate holds. -/
  | trap (n : BitVec 1) (p : BitVec 3) (c : BitVec 16)
  /-- BKPT (R404): Raises BREAKPOINT before the instruction with %tmask = A. -/
  | bkpt (c : BitVec 16)
  /-- RFE (R403): Ends the group's trap handler, restores A, bracket state and possibly the latch, continues at %tpc and admits the oldest held trap. -/
  | rfe
  /-- MFSR (R75): Reads a special register into a vector or scalar destination tagged with the own site. -/
  | mfsr (d s : BitVec 8)
  /-- MTSR (R76): Writes %dice, or %tpc and %tmask inside a handler, from an operand. -/
  | mtsr (s a : BitVec 8)
  /-- BR (R323): Unconditional branch of the whole split. -/
  | br (o : BitVec 16)
  /-- BRU (R323): Uniform branch on the predicate of the lowest active lane, setting UNIF and possibly trapping when lanes differ. -/
  | bru (n : BitVec 1) (p : BitVec 3) (o : BitVec 16)
  /-- BRD (R325): Divergent branch that forks a new split for all-F slices within the budget and defers the remaining F lanes. -/
  | brd (k : BitVec 4) (n : BitVec 1) (p : BitVec 3) (o : BitVec 16)
  /-- BRZ (R323): Branches when the active mask is empty, or not empty with N set. -/
  | brz (n : BitVec 1) (o : BitVec 16)
  /-- JMPI (R324): Indirect jump through a 64-bit register pair taken from the lowest active lane or a scalar pair. -/
  | jmpi (a : BitVec 8)
  /-- CALL (R324): Writes PC + 4 into a link pair and jumps to the target. -/
  | call (c : BitVec 8) (o : BitVec 16)
  /-- RET (R324): Returns through a register pair, with the effect of JMPI. -/
  | ret (a : BitVec 8)
  /-- REJOIN (R327): Pops a pending deferral entry of the mark, or gathers arrived lanes and waits for or merges with the join set's other splits. -/
  | rejoin (k : BitVec 4)
  /-- YIELD (R330): Continues at PC + 4 and places the split behind ready splits of its class and age. -/
  | yield
  /-- YIELD.D (R330): Rotates the topmost pending deferral entry with the split's current lanes. -/
  | yieldD
  /-- EXIT (R331): Retires the active lanes, pops any deferral entry, frees the split when empty and exits the group when no split is live. -/
  | exit
  /-- REGROUP (R335): Checks the group, arrives on the barrier as a release and parks the group as a participant in a lane fusion. -/
  | regroup (b : BitVec 4) (n : BitVec 8) (o : BitVec 12)
  /-- MSAV (R188): Saves the active mask into a scalar pair. -/
  | msav (d : BitVec 8)
  /-- MRES (R188): Restores the active mask from a scalar pair, intersected with L. -/
  | mres (a : BitVec 8)
  /-- MAND (R188): Narrows the active mask by a predicate or its inverse. -/
  | mand (n : BitVec 1) (p : BitVec 3)
  /-- ENALL (R333): Opens a bracket: saves A into BA and sets A to L. -/
  | enall
  /-- ENRES (R333): Closes a bracket: restores A from BA intersected with L. -/
  | enres
  /-- SADD (R177): Scalar 32-bit add. -/
  | sadd (d a b : BitVec 8)
  /-- SSUB (R177): Scalar 32-bit subtract. -/
  | ssub (d a b : BitVec 8)
  /-- SMUL (R177): Scalar low 32 bits of a product. -/
  | smul (d a b : BitVec 8)
  /-- SMULHU (R177): Scalar high 32 bits of an unsigned product. -/
  | smulhu (d a b : BitVec 8)
  /-- SAND (R177): Scalar bitwise AND. -/
  | sand (d a b : BitVec 8)
  /-- SOR (R177): Scalar bitwise OR. -/
  | sor (d a b : BitVec 8)
  /-- SXOR (R177): Scalar bitwise XOR. -/
  | sxor (d a b : BitVec 8)
  /-- SSHL (R177): Scalar shift left. -/
  | sshl (d a b : BitVec 8)
  /-- SSHR (R177): Scalar logical shift right. -/
  | sshr (d a b : BitVec 8)
  /-- SSRA (R177): Scalar arithmetic shift right. -/
  | ssra (d a b : BitVec 8)
  /-- SMIN (R177): Scalar signed minimum. -/
  | smin (d a b : BitVec 8)
  /-- SMAX (R177): Scalar signed maximum. -/
  | smax (d a b : BitVec 8)
  /-- SMINU (R177): Scalar unsigned minimum. -/
  | sminu (d a b : BitVec 8)
  /-- SMAXU (R177): Scalar unsigned maximum. -/
  | smaxu (d a b : BitVec 8)
  /-- SMOVI (R181): Moves a sign-extended or prefixed 32-bit immediate into a scalar. -/
  | smovi (d : BitVec 8) (i : BitVec 16)
  /-- SMOVHI (R181): Writes the upper 16 bits of a scalar. -/
  | smovhi (d : BitVec 8) (i : BitVec 16)
  /-- SCMP (R183): Compares two scalar operands once and combines the result into a predicate in every active lane. -/
  | scmp (c : BitVec 3) (m : BitVec 2) (p : BitVec 3) (a b : BitVec 8)
  /-- SADDI (R181): Adds an immediate to a scalar. -/
  | saddi (d : BitVec 8) (i : BitVec 16)
  /-- SPOPC (R177): Scalar population count. -/
  | spopc (d a : BitVec 8)
  /-- SFFS (R177): Scalar index of the lowest set bit. -/
  | sffs (d a : BitVec 8)
  /-- SBFE (R179): Scalar bit-field extract. -/
  | sbfe (d a b : BitVec 8)
  /-- SDIVU (R177): Scalar unsigned divide, recording divide-by-zero. -/
  | sdivu (d a b : BitVec 8)
  /-- SREMU (R177): Scalar unsigned remainder, recording divide-by-zero. -/
  | sremu (d a b : BitVec 8)
  /-- SADDW (R182): Adds a signed 32-bit offset to a 64-bit scalar pair. -/
  | saddw (d a b : BitVec 8)
  /-- VADD (R177): Vector 32-bit add. -/
  | vadd (d a b : BitVec 8)
  /-- VSUB (R177): Vector 32-bit subtract. -/
  | vsub (d a b : BitVec 8)
  /-- VMUL (R177): Vector low 32 bits of a product. -/
  | vmul (d a b : BitVec 8)
  /-- VMULHI (R177): Vector high 32 bits of a signed product. -/
  | vmulhi (d a b : BitVec 8)
  /-- VMULHU (R177): Vector high 32 bits of an unsigned product. -/
  | vmulhu (d a b : BitVec 8)
  /-- VMAD (R177): Vector multiply-add into d. -/
  | vmad (d a b : BitVec 8)
  /-- VAND (R177): Vector bitwise AND. -/
  | vand (d a b : BitVec 8)
  /-- VOR (R177): Vector bitwise OR. -/
  | vor (d a b : BitVec 8)
  /-- VXOR (R177): Vector bitwise XOR. -/
  | vxor (d a b : BitVec 8)
  /-- VSHL (R177): Vector shift left. -/
  | vshl (d a b : BitVec 8)
  /-- VSHR (R177): Vector logical shift right. -/
  | vshr (d a b : BitVec 8)
  /-- VSRA (R177): Vector arithmetic shift right. -/
  | vsra (d a b : BitVec 8)
  /-- VMIN (R177): Vector signed minimum. -/
  | vmin (d a b : BitVec 8)
  /-- VMAX (R177): Vector signed maximum. -/
  | vmax (d a b : BitVec 8)
  /-- VMINU (R177): Vector unsigned minimum. -/
  | vminu (d a b : BitVec 8)
  /-- VMAXU (R177): Vector unsigned maximum. -/
  | vmaxu (d a b : BitVec 8)
  /-- VABSD (R177): Vector absolute difference. -/
  | vabsd (d a b : BitVec 8)
  /-- VADDS (R177): Vector saturating signed add, recording integer saturation. -/
  | vadds (d a b : BitVec 8)
  /-- VSUBS (R177): Vector saturating signed subtract, recording integer saturation. -/
  | vsubs (d a b : BitVec 8)
  /-- VPOPC (R177): Vector population count. -/
  | vpopc (d a : BitVec 8)
  /-- VCLZ (R177): Vector count of leading zeros. -/
  | vclz (d a : BitVec 8)
  /-- VBREV (R177): Vector bit reversal. -/
  | vbrev (d a : BitVec 8)
  /-- VBFE (R179): Vector bit-field extract. -/
  | vbfe (d a b : BitVec 8)
  /-- VBFI (R179): Vector bit-field insert into d. -/
  | vbfi (d a b : BitVec 8)
  /-- VMOV (R177): Vector move carrying the source tag. -/
  | vmov (d a : BitVec 8)
  /-- VMOVI (R181): Moves an immediate into every active lane. -/
  | vmovi (d : BitVec 8) (i : BitVec 16)
  /-- VMOVHI (R181): Writes the upper 16 bits of every active lane. -/
  | vmovhi (d : BitVec 8) (i : BitVec 16)
  /-- VCMP (R183): Signed lane-wise compare combined into a predicate. -/
  | vcmp (c : BitVec 3) (m : BitVec 2) (p : BitVec 3) (a b : BitVec 8)
  /-- VCMPU (R183): Unsigned lane-wise compare combined into a predicate. -/
  | vcmpu (c : BitVec 3) (m : BitVec 2) (p : BitVec 3) (a b : BitVec 8)
  /-- VPRMT (R180): Builds each result byte from eight source bytes of a and the old d. -/
  | vprmt (d a b : BitVec 8)
  /-- VCVTI (R185): Converts between integer types and between integer and floating-point types. -/
  | vcvti (d a : BitVec 8) (s t : BitVec 4)
  /-- VADDW (R182): Adds a signed 32-bit offset to a 64-bit address pair per lane. -/
  | vaddw (d a b : BitVec 8)
  /-- VSEL.Pk (R184): Selects a or b per lane by the predicate named in the opcode, carrying the selected tag. -/
  | vselPk (p : BitVec 3) (d a b : BitVec 8)
  /-- FADD (R195): FP32 add. -/
  | fadd (d a b : BitVec 8)
  /-- FSUB (R195): FP32 subtract. -/
  | fsub (d a b : BitVec 8)
  /-- FMUL (R195): FP32 multiply. -/
  | fmul (d a b : BitVec 8)
  /-- FFMA (R195): FP32 fused multiply-add into d. -/
  | ffma (d a b : BitVec 8)
  /-- FMIN (R196): FP32 minimum. -/
  | fmin (d a b : BitVec 8)
  /-- FMAX (R196): FP32 maximum. -/
  | fmax (d a b : BitVec 8)
  /-- FCMP (R198): FP32 compare combined into a predicate. -/
  | fcmp (c : BitVec 3) (m : BitVec 2) (p : BitVec 3) (a b : BitVec 8)
  /-- FCLASS (R197): Writes a one-hot class word for an FP32 value. -/
  | fclass (d a : BitVec 8)
  /-- FSCALEB (R195): Multiplies an FP32 value by a power of two. -/
  | fscaleb (d a b : BitVec 8)
  /-- FFRAC (R195): FP32 fractional part. -/
  | ffrac (d a : BitVec 8)
  /-- FRND (R195): Rounds an FP32 value to an integral value in the mode. -/
  | frnd (d a : BitVec 8)
  /-- FCVT (R200): Converts between FP32, FP16 and BF16. -/
  | fcvt (d a : BitVec 8) (s t : BitVec 4)
  /-- DADD (R199): FP64 add. -/
  | dadd (d a b : BitVec 8)
  /-- DSUB (R199): FP64 subtract. -/
  | dsub (d a b : BitVec 8)
  /-- DMUL (R199): FP64 multiply. -/
  | dmul (d a b : BitVec 8)
  /-- DFMA (R199): FP64 fused multiply-add into the pair d. -/
  | dfma (d a b : BitVec 8)
  /-- DCMP (R198): FP64 compare combined into a predicate. -/
  | dcmp (c : BitVec 3) (m : BitVec 2) (p : BitVec 3) (a b : BitVec 8)
  /-- DCVT (R200): Converts between FP64 and FP32, FP16 or BF16. -/
  | dcvt (d a : BitVec 8) (s t : BitVec 4)
  /-- BADD2 (R201): Packed BF16 pair add. -/
  | badd2 (d a b : BitVec 8)
  /-- BMUL2 (R201): Packed BF16 pair multiply. -/
  | bmul2 (d a b : BitVec 8)
  /-- BFMA2 (R201): Packed BF16 pair fused multiply-add. -/
  | bfma2 (d a b : BitVec 8)
  /-- HADD2 (R201): Packed FP16 pair add. -/
  | hadd2 (d a b : BitVec 8)
  /-- HMUL2 (R201): Packed FP16 pair multiply. -/
  | hmul2 (d a b : BitVec 8)
  /-- HFMA2 (R201): Packed FP16 pair fused multiply-add. -/
  | hfma2 (d a b : BitVec 8)
  /-- VDOT2.BF (R203): Accumulates a two-element BF16 dot product into FP32. -/
  | vdot2Bf (d a b : BitVec 8)
  /-- VDOT4.E4 (R203): Accumulates a four-element E4M3 dot product into FP32. -/
  | vdot4E4 (d a b : BitVec 8)
  /-- VDOT4.E5 (R203): Accumulates a four-element E5M2 dot product into FP32. -/
  | vdot4E5 (d a b : BitVec 8)
  /-- VDOT8.F4 (R203): Accumulates an eight-element E2M1 dot product into FP32. -/
  | vdot8F4 (d a b : BitVec 8)
  /-- VDOT4.I8 (R203): Accumulates a four-element INT8 dot product into I32. -/
  | vdot4I8 (d a b : BitVec 8)
  /-- VDOT2.H (R203): Accumulates a two-element FP16 dot product into FP32. -/
  | vdot2H (d a b : BitVec 8)
  /-- CVTPK.BF (R204): Narrows two FP32 operands into a BF16 pair. -/
  | cvtpkBf (d a b : BitVec 8)
  /-- CVTPK.H (R204): Narrows two FP32 operands into an FP16 pair. -/
  | cvtpkH (d a b : BitVec 8)
  /-- CVT8.E4L (R205): Narrows two FP32 operands to E4M3 into the low half of d. -/
  | cvt8E4l (d a b : BitVec 8)
  /-- CVT8.E4H (R205): Narrows two FP32 operands to E4M3 into the high half of d. -/
  | cvt8E4h (d a b : BitVec 8)
  /-- CVT8.E5L (R205): Narrows two FP32 operands to E5M2 into the low half of d. -/
  | cvt8E5l (d a b : BitVec 8)
  /-- CVT8.E5H (R205): Narrows two FP32 operands to E5M2 into the high half of d. -/
  | cvt8E5h (d a b : BitVec 8)
  /-- UNPK (R206): Widens one element of a container to FP32. -/
  | unpk (d a : BitVec 8) (f s : BitVec 4)
  /-- DICE (R207): Draws once from each active lane's dice generator. -/
  | dice (d : BitVec 8)
  /-- SHFL (R221): Reads a from the lane named by b. -/
  | shfl (d a b : BitVec 8)
  /-- SHFLX (R221): Reads a from lane i XOR b. -/
  | shflx (d a b : BitVec 8)
  /-- SHFLU (R221): Reads a from lane i minus b. -/
  | shflu (d a b : BitVec 8)
  /-- SHFLD (R221): Reads a from lane i plus b. -/
  | shfld (d a b : BitVec 8)
  /-- SWAPP (R221): Exchanges the halves of each run of 2m lanes. -/
  | swapp (d a b : BitVec 8)
  /-- VOTE (R222): Writes ANY, ALL or BALLOT of a predicate over the active lanes. -/
  | vote (d : BitVec 8) (k : BitVec 2) (n : BitVec 1) (p : BitVec 3)
  /-- REDUX (R224): Reduces a over the active lanes on a fixed tree. -/
  | redux (d a : BitVec 8) (r : BitVec 4)
  /-- SCAN (R225): Inclusive or exclusive prefix combination over the active lanes. -/
  | scan (d a : BitVec 8) (r : BitVec 4) (x : BitVec 1)
  /-- SINT (R212): Sine of an argument in turns, issued to the transform pipe. -/
  | sint (d a : BitVec 8)
  /-- COST (R212): Cosine of an argument in turns, issued to the transform pipe. -/
  | cost (d a : BitVec 8)
  /-- EXP2 (R212): Base-2 exponential. -/
  | exp2 (d a : BitVec 8)
  /-- LOG2 (R212): Base-2 logarithm. -/
  | log2 (d a : BitVec 8)
  /-- RCP (R212): Reciprocal. -/
  | rcp (d a : BitVec 8)
  /-- RSQ (R212): Reciprocal square root. -/
  | rsq (d a : BitVec 8)
  /-- SQRT (R212): Correctly rounded FP32 square root. -/
  | sqrt (d a : BitVec 8)
  /-- TANH (R212): Hyperbolic tangent. -/
  | tanh (d a : BitVec 8)
  /-- DIVF (R214): Correctly rounded FP32 division. -/
  | divf (d a b : BitVec 8)
  /-- QPACK (R217): Converts each 32-lane block to scaled elements with scale and flags. -/
  | qpack (d a : BitVec 8) (f : BitVec 2) (o : BitVec 1)
  /-- QUNPK (R218): Decodes a QPACK pair back to FP32. -/
  | qunpk (d a : BitVec 8) (f : BitVec 2)
  /-- BSCALE (R219): Selects each block's scale byte without converting elements. -/
  | bscale (d a : BitVec 8) (f : BitVec 2) (o : BitVec 1)
  /-- CRC32C (R215): Advances a lane-wise CRC-32C state by one to four bytes. -/
  | crc32c (d a b : BitVec 8)
  /-- DDIV (R214): Correctly rounded FP64 division. -/
  | ddiv (d a b : BitVec 8)
  /-- DSQRT (R212): Correctly rounded FP64 square root. -/
  | dsqrt (d a : BitVec 8)
  /-- LDG (R161): Global load per active lane. -/
  | ldg (d a : BitVec 8) (w : BitVec 3) (o : BitVec 5)
  /-- STG (R162): Global store per active lane. -/
  | stg (d a : BitVec 8) (w : BitVec 3) (o : BitVec 5)
  /-- LDL (R161): Load from the team's LS. -/
  | ldl (d a : BitVec 8) (w : BitVec 3) (o : BitVec 5)
  /-- STL (R162): Store to the team's LS. -/
  | stl (d a : BitVec 8) (w : BitVec 3) (o : BitVec 5)
  /-- LDC (R161): Load from a cluster peer's LS. -/
  | ldc (d a : BitVec 8) (w : BitVec 3) (o : BitVec 5)
  /-- STC (R162): Store to a cluster peer's LS. -/
  | stc (d a : BitVec 8) (w : BitVec 3) (o : BitVec 5)
  /-- LDA (R161): Load from the team's AB. -/
  | lda (d a : BitVec 8) (w : BitVec 3) (o : BitVec 5)
  /-- STA (R162): Store to the team's AB. -/
  | sta (d a : BitVec 8) (w : BitVec 3) (o : BitVec 5)
  /-- LDK (R161): Load from the team's CB. -/
  | ldk (d a : BitVec 8) (w : BitVec 3) (o : BitVec 5)
  /-- LDU (R161): Uniform global load into scalars, once per split. -/
  | ldu (d a : BitVec 8) (w : BitVec 3) (o : BitVec 5)
  /-- LDUL (R161): Uniform LS load into scalars, once per split. -/
  | ldul (d a : BitVec 8) (w : BitVec 3) (o : BitVec 5)
  /-- LDACQ (R379): Global load that acts as an acquire at its scope. -/
  | ldacq (d a : BitVec 8) (w : BitVec 3) (o : BitVec 5)
  /-- STREL (R379): Global store that acts as a release at its scope. -/
  | strel (d a : BitVec 8) (w : BitVec 3) (o : BitVec 5)
  /-- FENCE (R380): Release, acquire or full fence at its scope. -/
  | fence (k : BitVec 2)
  /-- PREF (R167): Prefetches lines into L1 or L2. -/
  | pref (l : BitVec 2) (a : BitVec 8) (o : BitVec 5)
  /-- CCTL (R168): Cleans, invalidates or flushes L1 lines. -/
  | cctl (c : BitVec 4) (a : BitVec 8)
  /-- ATOM.ADD (R96): Atomic integer add at the word's home. -/
  | atomAdd (d : BitVec 8) (a : BitVec 7) (w : BitVec 1) (b : BitVec 8)
  /-- ATOM.FADD (R96): Atomic floating-point add at the word's home. -/
  | atomFadd (d : BitVec 8) (a : BitVec 7) (w : BitVec 1) (b : BitVec 8)
  /-- ATOM.MIN (R96): Atomic signed minimum. -/
  | atomMin (d : BitVec 8) (a : BitVec 7) (w : BitVec 1) (b : BitVec 8)
  /-- ATOM.MAX (R96): Atomic signed maximum. -/
  | atomMax (d : BitVec 8) (a : BitVec 7) (w : BitVec 1) (b : BitVec 8)
  /-- ATOM.MINU (R96): Atomic unsigned minimum. -/
  | atomMinu (d : BitVec 8) (a : BitVec 7) (w : BitVec 1) (b : BitVec 8)
  /-- ATOM.MAXU (R96): Atomic unsigned maximum. -/
  | atomMaxu (d : BitVec 8) (a : BitVec 7) (w : BitVec 1) (b : BitVec 8)
  /-- ATOM.AND (R96): Atomic bitwise AND. -/
  | atomAnd (d : BitVec 8) (a : BitVec 7) (w : BitVec 1) (b : BitVec 8)
  /-- ATOM.OR (R96): Atomic bitwise OR. -/
  | atomOr (d : BitVec 8) (a : BitVec 7) (w : BitVec 1) (b : BitVec 8)
  /-- ATOM.XOR (R96): Atomic bitwise XOR. -/
  | atomXor (d : BitVec 8) (a : BitVec 7) (w : BitVec 1) (b : BitVec 8)
  /-- ATOM.EXCH (R96): Atomic exchange. -/
  | atomExch (d : BitVec 8) (a : BitVec 7) (w : BitVec 1) (b : BitVec 8)
  /-- ATOM.CAS (R96): Atomic compare-and-swap that writes nothing on failure. -/
  | atomCas (d : BitVec 8) (a : BitVec 7) (w : BitVec 1) (b : BitVec 8)
  /-- ATOM.INC (R96): Atomic wrapping increment bounded by b. -/
  | atomInc (d : BitVec 8) (a : BitVec 7) (w : BitVec 1) (b : BitVec 8)
  /-- LOCK (R101): Takes a queue lock, or joins its FIFO and parks. -/
  | lock (a : BitVec 8)
  /-- UNLOCK (R102): Releases a queue lock, handing it to the oldest waiter. -/
  | unlock (a : BitVec 8)
  /-- WAITC (R105): Waits at the home slice until a word meets a condition, then acquires. -/
  | waitc (c : BitVec 3) (i : BitVec 1) (a b : BitVec 8)
  /-- LADD (R166): Atomic add to a 32-bit LS word of the team. -/
  | ladd (d a b : BitVec 8)
  /-- WAITN (R170): Parks the split until each outstanding-operation counter is at or below its count. -/
  | waitn (l s c t : BitVec 6)
  /-- BATCH (R144): Closes the group's pending engine commands into a numbered batch. -/
  | batch (d : BitVec 8)
  /-- WAITB (R144): Parks until every batch up to n is complete, then writes and clears the failure bit as an acquire. -/
  | waitb (p : BitVec 3) (a : BitVec 8)
  /-- BARINIT (R140): Initialises a barrier register with its member count and engine membership. -/
  | barinit (b : BitVec 4) (e : BitVec 1) (n : BitVec 6)
  /-- ARRIVE (R141): Arrives on a barrier as one member. -/
  | arrive (b : BitVec 4)
  /-- ARRIVEX (R141): Arrives on a barrier and announces a byte count. -/
  | arrivex (b : BitVec 4) (a : BitVec 8)
  /-- BARWAIT (R143): Parks until the awaited barrier phase completes, then writes LERR as an acquire. -/
  | barwait (b : BitVec 4) (q : BitVec 1) (p : BitVec 3)
  /-- BARTRY (R143): Writes whether the awaited barrier phase is complete without waiting. -/
  | bartry (b : BitVec 4) (q : BitVec 1) (p : BitVec 3)
  /-- GRIDBAR (R381): Arrives at the cooperative grid barrier and parks. -/
  | gridbar
  /-- GSET (R145): Clears or resolves a guard slot. -/
  | gset (g : BitVec 3) (a : BitVec 2) (p : BitVec 3)
  /-- XCOPY (R133): Checks a layout record and enqueues a tensor-box copy command in load or store direction. -/
  | xcopy (c : BitVec 8) (r : BitVec 5) (d : BitVec 1) (l : BitVec 3) (b : BitVec 4)
  /-- XGATHER (R134): Enqueues a copy that loads indexed slices along the top dimension. -/
  | xgather (c : BitVec 8) (r : BitVec 5) (l : BitVec 3) (b : BitVec 4)
  /-- XSCATTER (R134): Enqueues a copy that stores indexed slices along the top dimension. -/
  | xscatter (c : BitVec 8) (r : BitVec 5) (l : BitVec 3) (b : BitVec 4)
  /-- XFILL (R135): Enqueues a command that fills a tensor box with a pattern. -/
  | xfill (c : BitVec 8) (r : BitVec 5) (l : BitVec 3) (b : BitVec 4)
  /-- XSTAT (R148): Reads engine, barrier, batch, guard or counter state into a scalar. -/
  | xstat (d : BitVec 8) (s i : BitVec 4)
  /-- COLL (R296): Checks and gathers one team execution of a collective, submitting it when every live group has executed it. -/
  | coll (o : BitVec 3) (b t : BitVec 4) (h : BitVec 6) (r y : BitVec 3) (s : BitVec 1)
  /-- COMMQ (R293): Reads a communicator's state into a scalar. -/
  | commq (d a : BitVec 8) (s : BitVec 4)
  /-- MSTART (R251): Starts the team's matrix stream at a PC with an initial m0. -/
  | mstart (a b : BitVec 8)
  /-- TDESC (R157): Writes a tile register from a scalar pair. -/
  | tdesc (t : BitVec 4) (a : BitVec 8)
  /-- MLDW (R252): Stream word that checks and posts a weight load binding SHADOW. -/
  | mldw (w f : BitVec 4)
  /-- MSWAP (R253): Stream word that exchanges the logical SHADOW and ACTIVE planes. -/
  | mswap
  /-- MMA.M32 (R254): Stream word that checks and posts a 32-row matrix pass. -/
  | mmaM32 (a c f : BitVec 4) (t : BitVec 2) (z : BitVec 1) (m n : BitVec 3)
  /-- MMA.M64 (R254): Stream word that checks and posts a 64-row matrix pass. -/
  | mmaM64 (a c f : BitVec 4) (t : BitVec 2) (z : BitVec 1) (m n : BitVec 3)
  /-- MMA.M128 (R254): Stream word that checks and posts a 128-row matrix pass. -/
  | mmaM128 (a c f : BitVec 4) (t : BitVec 2) (z : BitVec 1) (m n : BitVec 3)
  /-- MMA.M256 (R254): Stream word that checks and posts a 256-row matrix pass. -/
  | mmaM256 (a c f : BitVec 4) (t : BitVec 2) (z : BitVec 1) (m n : BitVec 3)
  /-- MZERO (R255): Stream word that posts the zeroing of a CB tile. -/
  | mzero (t : BitVec 4)
  /-- MDRAIN (R264): Stream word that checks and posts a drain of CB rows to AB. -/
  | mdrain (d c f : BitVec 4) (s : BitVec 2) (z : BitVec 1) (m n : BitVec 3)
  /-- MARRIVE (R256): Stream word that waits for its posted operations and arrives on a barrier as a release. -/
  | marrive (b : BitVec 4)
  /-- MWAIT (R256): Stream word that parks the sequencer until a barrier phase completes. -/
  | mwait (b : BitVec 4) (q m : BitVec 1) (p : BitVec 3)
  /-- MSETT (R257): Stream word that writes a tile register from two m registers. -/
  | msett (t : BitVec 4) (m : BitVec 3)
  /-- MADDI (R258): Stream word that sets or adds an immediate to an m register. -/
  | maddi (m : BitVec 3) (s : BitVec 1) (i : BitVec 16)
  /-- MLOOP (R258): Stream word that decrements an m register and branches while nonzero. -/
  | mloop (m : BitVec 3) (o : BitVec 16)
  /-- MEND (R260): Stream word that empties the planes and makes the sequencer IDLE. -/
  | mend
  /-- MGUARD (R259): Stream word that parks until a guard resolves and then skips or runs the next word. -/
  | mguard (g : BitVec 3) (n : BitVec 1)
  /-- TGET (R46): Reads a register's tags as values. -/
  | tget (d a : BitVec 8)
  /-- TSET (R46): Sets a register's tags from values. -/
  | tset (d a : BitVec 8)
  /-- TSTAMP (R46): Sets a register's tags to the own site tag. -/
  | tstamp (d : BitVec 8)
  /-- TCHK (R47): Raises TAG_CHECK when an active lane's tag falls in a selected class. -/
  | tchk (a : BitVec 8) (m : BitVec 6)
  /-- TCAP (R48): Reads one word of the capture record named by a tag. -/
  | tcap (d a : BitVec 8) (w : BitVec 4)
  /-- TRULE (R49): Sets the group's tag rule register. -/
  | trule (c : BitVec 3)
  /-- LSTAT (R397): Reads and clears selected sticky status bits per active lane. -/
  | lstat (d m : BitVec 8)
  /-- LSTAT.MASK (R397): Sets the group's report mask RMASK. -/
  | lstatMask (m : BitVec 8)
  /-- RESERVED_OPCODE (R72): A fetched word whose opcode is 0x00 or a reserved opcode does not execute and raises ILL_OPCODE precisely. -/
  | reservedOpcode (w : BitVec 32)
  /-- POWER_GOOD (R446): Power-good starts bring-up: ROM boot, firmware verification, calibration, memory initialisation, FEATURES and READY. Operands: v: the failing step's ECODE, 0 for none; nums: Florix ports that fail calibration; nums2: cores fenced by self-test; nums3: quads fenced; a: STAGE in MiB; b: the device's own number; entries: the route table, a mask of ports for each device. -/
  | powerGood
  /-- BRINGUP_RESTART (R447): A host write of 0xDEAD_0001 to BOOT_STATUS restarts bring-up and aborts every context without a dump. Operands: v: the value written. -/
  | bringupRestart
  /-- ENABLE_WRITE (R451): A host write of ENABLE records the accepted capabilities. Operands: v: the value written. -/
  | enableWrite
  /-- REGISTER_WRITE (R346): A host write to a register or offset with no behaviour of its own is ignored. Operands: a: BAR0 offset; b: bytes, 4 or 8; v: the value. -/
  | registerWrite
  /-- TAIL_WRITE (R346): A TAIL write to a ring's notify page advances the ring or faults it. Operands: a: ring; v: the value. -/
  | tailWrite
  /-- CREATE_CONTEXT (R454): Mailbox command 0x01 writes a context descriptor and trace header and returns the context number. Operands: bytes: the request that the DOORBELL write hands over. -/
  | createContext
  /-- DESTROY_CONTEXT (R454): Mailbox command 0x02 removes a context's teams, rings, communicators, contracts and translations. Operands: bytes: the request that the DOORBELL write hands over. -/
  | destroyContext
  /-- CREATE_RING (R455): Mailbox command 0x03 creates a ring and returns its index. Operands: bytes: the request that the DOORBELL write hands over. -/
  | createRing
  /-- CREATE_COMM (R456): Mailbox command 0x04 creates a communicator handle. Operands: bytes: the request that the DOORBELL write hands over. -/
  | createComm
  /-- INVALIDATE (R457): Mailbox command 0x05 invalidates a context's translations for a range. Operands: bytes: the request that the DOORBELL write hands over. -/
  | invalidate
  /-- CHECKPOINT (R430): Mailbox command 0x06 saves every resident team and the ranges to NVMe behind a manifest. Operands: bytes: the request that the DOORBELL write hands over. -/
  | checkpoint
  /-- RESET_CONTEXT (R455): Mailbox command 0x07 with KIND 0 clears a context fault and unfaults its rings. Operands: bytes: the request that the DOORBELL write hands over. -/
  | resetContext
  /-- RESET_RING (R455): Mailbox command 0x07 with KIND 1 unfaults a ring and zeroes HEAD and TAIL. Operands: bytes: the request that the DOORBELL write hands over. -/
  | resetRing
  /-- RESET_DUMP_AREA (R455): Mailbox command 0x07 with KIND 2 restarts the dump area at its base. Operands: bytes: the request that the DOORBELL write hands over. -/
  | resetDumpArea
  /-- RESET_TRACE_RING (R455): Mailbox command 0x07 with KIND 3 zeroes WCOUNT and DROPPED. Operands: bytes: the request that the DOORBELL write hands over. -/
  | resetTraceRing
  /-- ADMIT_CONTRACT (R458): Mailbox command 0x08 admits a real-time contract under R355. Operands: bytes: the request that the DOORBELL write hands over. -/
  | admitContract
  /-- READ_COUNTERS (R459): Mailbox command 0x09 returns stack, port, contract, context, watchpoint or LPDDR-6 counters. Operands: bytes: the request that the DOORBELL write hands over. -/
  | readCounters
  /-- DEFINE_PARTITION (R458): Mailbox command 0x0A defines a partition's core mask. Operands: bytes: the request that the DOORBELL write hands over. -/
  | definePartition
  /-- UPDATE_CONTEXT (R454): Mailbox command 0x0B changes a context's regulators, trace ring or capture mode. Operands: bytes: the request that the DOORBELL write hands over. -/
  | updateContext
  /-- WRITE_WATCHPOINT (R459): Mailbox command 0x0C writes a core's watchpoint registers. Operands: bytes: the request that the DOORBELL write hands over. -/
  | writeWatchpoint
  /-- RELEASE_RING (R455): Mailbox command 0x0D with KIND 0 frees an idle ring. Operands: bytes: the request that the DOORBELL write hands over. -/
  | releaseRing
  /-- RELEASE_COMM (R455): Mailbox command 0x0D with KIND 1 frees a communicator handle. Operands: bytes: the request that the DOORBELL write hands over. -/
  | releaseComm
  /-- RELEASE_CONTRACT (R455): Mailbox command 0x0D with KIND 2 frees a contract after its running launch. Operands: bytes: the request that the DOORBELL write hands over. -/
  | releaseContract
  /-- RESTORE (R457): Mailbox command 0x0E restores a context from a checkpoint and runs its launches. Operands: bytes: the request that the DOORBELL write hands over. -/
  | restore
  /-- GET_VERSION (R460): SPDM request answered with the supported version. -/
  | getVersion
  /-- GET_CAPABILITIES (R460): SPDM request answered with capabilities. -/
  | getCapabilities
  /-- NEGOTIATE_ALGORITHMS (R460): SPDM request that selects SHA-256 and RSASSA-3072. -/
  | negotiateAlgorithms
  /-- GET_CERTIFICATE (R460): SPDM request answered with the certificate chain. -/
  | getCertificate
  /-- CHALLENGE (R460): SPDM challenge answered with a signed response. -/
  | challenge
  /-- GET_MEASUREMENTS (R460): SPDM request answered with one measurement block per firmware image. -/
  | getMeasurements
  /-- HOST_WRITE (R43): A host or PCI Express peer write to device memory, tagged HOST. Operands: a: physical address; bytes: the data. -/
  | hostWrite
  /-- HOST_READ (R43): A host read of device memory returning data only. Operands: a: physical address; b: length. -/
  | hostRead
  /-- ATS_INVALIDATION (R114): A host ATS invalidation request handled as under R113. Operands: a: host I/O base; b: length. -/
  | atsInvalidation
  /-- ATS_TRANSLATION_REPLY (R114): The host's answer to an ATS translation request. Operands: a: host I/O page; yes: granted. -/
  | atsTranslationReply
  /-- PRI_RESPONSE (R114): The host's answer to a PRI page request, replaying or failing the access. Operands: a: host I/O page; yes: granted. -/
  | priResponse
  /-- RING_LAUNCH (R348): A LAUNCH ring command begins and dispatches its launch. Operands: a: ring. -/
  | ringLaunch
  /-- RING_NODE (R348): A NODE ring command begins once its predecessors are met and dispatches a replayable node. Operands: a: ring. -/
  | ringNode
  /-- RING_WAIT (R348): A WAIT ring command blocks the ring until its word meets the condition. Operands: a: ring. -/
  | ringWait
  /-- RING_SIGNAL (R348): A SIGNAL ring command writes CVAL as a release at SYS scope. Operands: a: ring. -/
  | ringSignal
  /-- RING_FENCE (R348): A FENCE ring command waits for every earlier command. Operands: a: ring. -/
  | ringFence
  /-- RING_MAPPING (R349): The queue mapper places an eligible ring in a free or yielded slot. Operands: a: ring. -/
  | ringMapping
  /-- TEAM_DISPATCH (R356): The dispatcher places a team on a fitting core and resets its state. Operands: a: launch; b: core (of rank 0). -/
  | teamDispatch
  /-- DISPATCH_STARVATION (R356): A team that has waited 65,536 dispatcher cycles stops later launches from being placed. Operands: a: launch. -/
  | dispatchStarvation
  /-- GRID_RULE_SAVE (R359): After 65,536 cycles the dispatcher saves a parked team of the grid to place a waiting one. Operands: a: launch; b: the team parked longest. -/
  | gridRuleSave
  /-- LAUNCH_COMPLETION (R353): When all teams are retired and all work performed, the completion record and CWORD are written. Operands: a: launch; yes: after its contract's deadline. -/
  | launchCompletion
  /-- CONTRACT_RELEASE (R354): At each period start the contract unit releases the ring's next launch in the real-time class. Operands: a: contract. -/
  | contractRelease
  /-- CONTRACT_OVERRUN (R354): A launch charged past its budget is demoted and OVERRUN incremented. Operands: a: contract. -/
  | contractOverrun
  /-- PREEMPTION_REQUEST (R361): A pre-emption request makes the cost estimator choose drain, discard or save for a team. Operands: a: team; b: deadline; c: cycles resident. -/
  | preemptionRequest
  /-- DRAIN_DEADLINE (R362): A drained team not exited at its deadline is saved at once and the miss reported. Operands: a: team. -/
  | drainDeadline
  /-- SAVE (R364): A team stops issuing, lets in-flight work finish within class bounds and writes its image. Operands: a: team; yes: the deadline was missed. -/
  | save
  /-- TEAM_RESTORE (R366): An image is checked and written back to a fitting core, and its splits resume. Operands: a: image; b: core. -/
  | teamRestore
  /-- LOAD_REPLY (R90): A load or atomic reply returns from a home and writes its destination. Operands: a: request; words: the data a remote home returns, lane by lane; nums: the FADD events of each such lane. -/
  | loadReply
  /-- STORE_ACKNOWLEDGEMENT (R89): A write acknowledgement returns from its home and frees its request number. Operands: a: request. -/
  | storeAcknowledgement
  /-- TRANSFORM_PIPE_REPLY (R210): The transform pipe replies with all lanes of an instruction and releases its destinations. Operands: a: request. -/
  | transformPipeReply
  /-- WALK_COMPLETION (R112): A translation walk completes, filling the caches or producing a fault. Operands: a: walk. -/
  | walkCompletion
  /-- FAULT_SERVICE (R115): Keeper services a fault record, replaying the instruction or declaring the fault unserviceable. Operands: a: fault record; entries: page-table entries Keeper writes; yes: serviceable. -/
  | faultService
  /-- MONITOR_RECHECK (R106): Every 4,096 cycles a core or the mapper re-reads a word that has no free monitor or no monitor tier. Operands: a, b, c: team, group and rank of a split; or, with yes, a: a ring. -/
  | monitorRecheck
  /-- NODE_COMMIT (R119): After every team of a node exits, the base dies publish its staged lines. Operands: a: launch. -/
  | nodeCommit
  /-- NODE_ROLLBACK (R422): An escape, SRAM_UNCORR or divergence in a replayable node stops it, discards its staged lines and replays or ends it. Operands: a: launch. -/
  | nodeRollback
  /-- REGULATOR_WINDOW (R122): At the end of each 1,024-cycle window the buckets gain RATE lines. Operands: a: engine (0 to 95) or 96 + sequencer. -/
  | regulatorWindow
  /-- FLORIX_REMOTE_REQUEST (R287): A remote request from a Florix peer is performed at the home of its address. Operands: a: kind, 0 load, 1 a store of words, 2 of a byte, 3 of a halfword, 5 to 7 the same with the home's tags kept, otherwise an ATOM opcode; b: physical address; c: the requesting device; yes: 64-bit; words: the operand words with their tags, for a load as many as it reads, and for an ATOM a last cell with the effective rule, FTZ in bit 3, a tagged source in bit 4, and the sender's site tag. -/
  | florixRemoteRequest
  /-- FABRIC_TIMEOUT (R288): A remote access gets no reply within the fabric timeout, or its target reports an error, and fails. Operands: a: request. -/
  | fabricTimeout
  /-- FLORIX_PORT_FAILURE (R286): A Florix port fails or retrains, and Keeper rewrites the route table. Operands: a: port; yes: retraining; b: link retries counted. -/
  | florixPortFailure
  /-- SRAM_UNCORR (R420): An uncorrectable SRAM error in a context's state causes a rollback or a context fault. Operands: a: context; b: store; c: core; d: the team whose state held the word. -/
  | sramUncorr
  /-- UNIT_FENCING (R432): Keeper fences a failing core or quad, saving and restoring its teams elsewhere. Operands: a: core or quad; yes: a quad; b: 1 where the saves of its teams cannot complete. -/
  | unitFencing
  /-- CONTEXT_FAULT (R410): A context fault freezes the context, aborts collectives, writes the dump and fails its launches. Operands: a: context. -/
  | contextFault
  /-- STREAM_FAULT_DELIVERY (R247): A stream fault is taken by the lowest live group's lowest split at its next issue or at once if parked. Operands: a: team. -/
  | streamFaultDelivery
  /-- COMMAND_TO_ENGINE (R124): The quad moves a team queue's head command into an engine once there is room and its guard allows. Operands: a: team. -/
  | commandToEngine
  /-- CHUNK_DELIVERY (R136): A chunk's writes are performed, BAL is reduced and the barrier completion rule is evaluated. Operands: a: team; b: CSN; c: chunk. -/
  | chunkDelivery
  /-- HELD_ARRIVAL (R146): A guarded arrival held at the barrier logic is performed once its guard resolves. Operands: a: team; b: index. -/
  | heldArrival
  /-- ENGINE_STALEMATE (R147): A full queue blocked on an unresolved guard with all splits stalled raises ENGINE_STALEMATE. Operands: a: team. -/
  | engineStalemate
  /-- ARBITER_GRANT (R249): The quad arbiter grants an eligible posted matrix operation to the array or drain unit. Operands: a: team. -/
  | arbiterGrant
  /-- MLDW_COMPLETION (R252): A granted MLDW reads the 256 weight rows and scales into the plane. Operands: a: team. -/
  | mldwCompletion
  /-- MSWAP_EXCHANGE (R253): The engine performs the physical plane exchange after earlier MLDWs. Operands: a: team. -/
  | mswapExchange
  /-- PASS_COMPLETION (R240): A matrix pass completes, writing its sums, tags and status granule. Operands: a: team. -/
  | passCompletion
  /-- MZERO_COMPLETION (R255): A granted MZERO finishes zeroing its CB tile. Operands: a: team. -/
  | mzeroCompletion
  /-- DRAIN_COMPLETION (R273): A drain finishes writing its converted rows and adds to the team's counters. Operands: a: team. -/
  | drainCompletion
  /-- SIGNATURE_RECEIPT (R302): A member's collective signature arrives and is compared. Operands: a: collective; b: rank; v: the signature. -/
  | signatureReceipt
  /-- CHUNK_STEP (R304): A collective chunk step completes and the sequencer chooses the next step. Operands: a: collective; data: words received, by rank. -/
  | chunkStep
  /-- CHUNK_CREDIT (R305): A receiver grants a chunk credit from a buffer of the communicator. Operands: a: collective; b: rank. -/
  | chunkCredit
  /-- COLL_ABORT (R302): An abort received from a member fails the collective. Operands: a: collective. -/
  | collAbort
  /-- SEQUENCER_TIMEOUT (R302): A collective with no progress for the sequencer timeout fails with COLL_TIMEOUT. Operands: a: collective. -/
  | sequencerTimeout
  /-- SPLIT_STALEMATE (R329): A group whose live splits all wait on crossing marks raises SPLIT_STALEMATE. Operands: a: team; b: group. -/
  | splitStalemate
  /-- REGROUP_MIGRATION (R336): After a matching REGROUP phase completes, lanes migrate and the participants resume. Operands: a: team; b: barrier. -/
  | regroupMigration
  /-- SYNC_PERIODIC (R437): After every 256 of a group's packets a SYNC packet is written. Operands: a: team; b: group. -/
  | syncPeriodic
  /-- BRANCH_FLUSH (R437): A split holding 64 branch bits writes a BRANCH packet. Operands: a: team; b: group; c: rank. -/
  | branchFlush
  /-- MAILBOX_UNKNOWN_COMMAND (R452): A DOORBELL write whose request names a command outside 0x01 to 0x0E makes Keeper answer with result 0x01 and change nothing. Operands: bytes: the request that the DOORBELL write hands over. -/
  | mailboxUnknownCommand
  /-- NVME_COMPLETION (R457): An NVMe drive completes, or fails, a write or read that Keeper issued for a checkpoint or restore, letting the command finish or fail with result 0x06. Operands: yes: the drive succeeded. -/
  | nvmeCompletion
  /-- FLORIX_PORT_UP (R286): A Florix port that was down or retraining comes back up, and Keeper rewrites the route table to use it. Operands: a: port; nums: the devices it leads to. -/
  | florixPortUp
  /-- ON_PACKAGE_LINK_FAILURE (R419): A base-die or die-to-die link exceeds its retry limit, and every context using it takes SRAM_UNCORR. Operands: nums: contexts using the link. -/
  | onPackageLinkFailure
  /-- HEALTH_CORR_WINDOW (R461): At the end of each Keeper window of 2^36 cycles the count of corrected errors is latched into HEALTH.CORR and the window restarts. Operands: a: the errors corrected in the window. -/
  | healthCorrWindow
  deriving DecidableEq, Repr

end Sys2Proof
end

