-- ==== Sys2Proof/Decode.lean ====
section
/-! DEFINITION. The decoder and the encoder of instruction words, written from the encoding tables of the spec
(R50 to R53, R69, R70 and the tables of the instructions). A word whose opcode is reserved decodes to the row
RESERVED_OPCODE (R72); a word with a nonzero reserved bit is refused here, and the step raises its fault. -/

namespace Sys2Proof

/-- Bits lo + n - 1 down to lo of a word (R9). -/
def fld (w : BitVec 32) (lo n : Nat) : BitVec n := w.extractLsb' lo n

/-- The opcode, bits [31:24] (R50). -/
def opcode (w : BitVec 32) : Nat := (fld w 24 8).toNat

/-- The reserved opcodes and 0x00 (R69, R72). -/
def reservedOp (op : Nat) : Bool :=
  op == 0x00 || (0x0A ≤ op && op ≤ 0x0F) || op == 0x58 || op == 0x86 || op == 0x87 || op == 0x9F ||
  (0xCA ≤ op && op ≤ 0xCF) || (0xD9 ≤ op && op ≤ 0xDF) || op == 0xEF || 0xF7 ≤ op

/-- The instruction of a word that holds the row's fixed bits; none when a reserved bit is set. -/
def fixedBits (w mask mtch : BitVec 32) (i : Instr) : Option Instr :=
  if w &&& mask = mtch then some i else none

/-- Why a word is no instruction. -/
inductive DecodeReject where
  /-- A reserved bit of the word is not 0 (R72 item 5). -/
  | reservedBits (w : BitVec 32)
  deriving DecidableEq, Repr

/-- Opcodes 0x00 to 0x0F by their low digit. -/
def decode0 (w : BitVec 32) (lo : Nat) : Option Instr :=
  match lo with
  | 0x1 => fixedBits w 0xFF000000#32 0x01000000#32 (.imm (fld w 0 24))
  | 0x2 => fixedBits w 0xFF000000#32 0x02000000#32 (.mod (fld w 23 1) (fld w 22 1) (fld w 21 1) (fld w 20 1) (fld w 19 1) (fld w 18 1) (fld w 13 5) (fld w 10 3) (fld w 7 3) (fld w 3 4) (fld w 0 3))
  | 0x3 => fixedBits w 0xFF007FFF#32 0x03000000#32 (.hint (fld w 19 5) (fld w 18 1) (fld w 17 1) (fld w 16 1) (fld w 15 1))
  | 0x4 => fixedBits w 0xFFFFFFFF#32 0x04000000#32 (.nop)
  | 0x5 => fixedBits w 0xFFF00000#32 0x05000000#32 (.trap (fld w 19 1) (fld w 16 3) (fld w 0 16))
  | 0x6 => fixedBits w 0xFFFF0000#32 0x06000000#32 (.bkpt (fld w 0 16))
  | 0x7 => fixedBits w 0xFFFFFFFF#32 0x07000000#32 (.rfe)
  | 0x8 => fixedBits w 0xFF0000FF#32 0x08000000#32 (.mfsr (fld w 16 8) (fld w 8 8))
  | 0x9 => fixedBits w 0xFF0000FF#32 0x09000000#32 (.mtsr (fld w 16 8) (fld w 8 8))
  | _ => none

/-- Opcodes 0x10 to 0x1F by their low digit. -/
def decode1 (w : BitVec 32) (lo : Nat) : Option Instr :=
  match lo with
  | 0x0 => fixedBits w 0xFFFF0000#32 0x10000000#32 (.br (fld w 0 16))
  | 0x1 => fixedBits w 0xFFF00000#32 0x11000000#32 (.bru (fld w 19 1) (fld w 16 3) (fld w 0 16))
  | 0x2 => fixedBits w 0xFF000000#32 0x12000000#32 (.brd (fld w 20 4) (fld w 19 1) (fld w 16 3) (fld w 0 16))
  | 0x3 => fixedBits w 0xFFF70000#32 0x13000000#32 (.brz (fld w 19 1) (fld w 0 16))
  | 0x4 => fixedBits w 0xFFFF00FF#32 0x14000000#32 (.jmpi (fld w 8 8))
  | 0x5 => fixedBits w 0xFF000000#32 0x15000000#32 (.call (fld w 16 8) (fld w 0 16))
  | 0x6 => fixedBits w 0xFFFF00FF#32 0x16000000#32 (.ret (fld w 8 8))
  | 0x7 => fixedBits w 0xFF0FFFFF#32 0x17000000#32 (.rejoin (fld w 20 4))
  | 0x8 => (fixedBits w 0xFFFFFFFF#32 0x18000000#32 (.yield)) <|> (fixedBits w 0xFFFFFFFF#32 0x18800000#32 (.yieldD))
  | 0x9 => fixedBits w 0xFFFFFFFF#32 0x19000000#32 (.exit)
  | 0xA => fixedBits w 0xFF000000#32 0x1A000000#32 (.regroup (fld w 20 4) (fld w 12 8) (fld w 0 12))
  | 0xB => fixedBits w 0xFF00FFFF#32 0x1B000000#32 (.msav (fld w 16 8))
  | 0xC => fixedBits w 0xFFFF00FF#32 0x1C000000#32 (.mres (fld w 8 8))
  | 0xD => fixedBits w 0xFFF0FFFF#32 0x1D000000#32 (.mand (fld w 19 1) (fld w 16 3))
  | 0xE => fixedBits w 0xFFFFFFFF#32 0x1E000000#32 (.enall)
  | 0xF => fixedBits w 0xFFFFFFFF#32 0x1F000000#32 (.enres)
  | _ => none

/-- Opcodes 0x20 to 0x2F by their low digit. -/
def decode2 (w : BitVec 32) (lo : Nat) : Option Instr :=
  match lo with
  | 0x0 => fixedBits w 0xFF000000#32 0x20000000#32 (.sadd (fld w 16 8) (fld w 8 8) (fld w 0 8))
  | 0x1 => fixedBits w 0xFF000000#32 0x21000000#32 (.ssub (fld w 16 8) (fld w 8 8) (fld w 0 8))
  | 0x2 => fixedBits w 0xFF000000#32 0x22000000#32 (.smul (fld w 16 8) (fld w 8 8) (fld w 0 8))
  | 0x3 => fixedBits w 0xFF000000#32 0x23000000#32 (.smulhu (fld w 16 8) (fld w 8 8) (fld w 0 8))
  | 0x4 => fixedBits w 0xFF000000#32 0x24000000#32 (.sand (fld w 16 8) (fld w 8 8) (fld w 0 8))
  | 0x5 => fixedBits w 0xFF000000#32 0x25000000#32 (.sor (fld w 16 8) (fld w 8 8) (fld w 0 8))
  | 0x6 => fixedBits w 0xFF000000#32 0x26000000#32 (.sxor (fld w 16 8) (fld w 8 8) (fld w 0 8))
  | 0x7 => fixedBits w 0xFF000000#32 0x27000000#32 (.sshl (fld w 16 8) (fld w 8 8) (fld w 0 8))
  | 0x8 => fixedBits w 0xFF000000#32 0x28000000#32 (.sshr (fld w 16 8) (fld w 8 8) (fld w 0 8))
  | 0x9 => fixedBits w 0xFF000000#32 0x29000000#32 (.ssra (fld w 16 8) (fld w 8 8) (fld w 0 8))
  | 0xA => fixedBits w 0xFF000000#32 0x2A000000#32 (.smin (fld w 16 8) (fld w 8 8) (fld w 0 8))
  | 0xB => fixedBits w 0xFF000000#32 0x2B000000#32 (.smax (fld w 16 8) (fld w 8 8) (fld w 0 8))
  | 0xC => fixedBits w 0xFF000000#32 0x2C000000#32 (.sminu (fld w 16 8) (fld w 8 8) (fld w 0 8))
  | 0xD => fixedBits w 0xFF000000#32 0x2D000000#32 (.smaxu (fld w 16 8) (fld w 8 8) (fld w 0 8))
  | 0xE => fixedBits w 0xFF000000#32 0x2E000000#32 (.smovi (fld w 16 8) (fld w 0 16))
  | 0xF => fixedBits w 0xFF000000#32 0x2F000000#32 (.smovhi (fld w 16 8) (fld w 0 16))
  | _ => none

/-- Opcodes 0x30 to 0x3F by their low digit. -/
def decode3 (w : BitVec 32) (lo : Nat) : Option Instr :=
  match lo with
  | 0x0 => fixedBits w 0xFF000000#32 0x30000000#32 (.scmp (fld w 21 3) (fld w 19 2) (fld w 16 3) (fld w 8 8) (fld w 0 8))
  | 0x1 => fixedBits w 0xFF000000#32 0x31000000#32 (.saddi (fld w 16 8) (fld w 0 16))
  | 0x2 => fixedBits w 0xFF0000FF#32 0x32000000#32 (.spopc (fld w 16 8) (fld w 8 8))
  | 0x3 => fixedBits w 0xFF0000FF#32 0x33000000#32 (.sffs (fld w 16 8) (fld w 8 8))
  | 0x4 => fixedBits w 0xFF000000#32 0x34000000#32 (.sbfe (fld w 16 8) (fld w 8 8) (fld w 0 8))
  | 0x5 => fixedBits w 0xFF000000#32 0x35000000#32 (.sdivu (fld w 16 8) (fld w 8 8) (fld w 0 8))
  | 0x6 => fixedBits w 0xFF000000#32 0x36000000#32 (.sremu (fld w 16 8) (fld w 8 8) (fld w 0 8))
  | 0x7 => fixedBits w 0xFF000000#32 0x37000000#32 (.saddw (fld w 16 8) (fld w 8 8) (fld w 0 8))
  | 0x8 => fixedBits w 0xFF000000#32 0x38000000#32 (.vadd (fld w 16 8) (fld w 8 8) (fld w 0 8))
  | 0x9 => fixedBits w 0xFF000000#32 0x39000000#32 (.vsub (fld w 16 8) (fld w 8 8) (fld w 0 8))
  | 0xA => fixedBits w 0xFF000000#32 0x3A000000#32 (.vmul (fld w 16 8) (fld w 8 8) (fld w 0 8))
  | 0xB => fixedBits w 0xFF000000#32 0x3B000000#32 (.vmulhi (fld w 16 8) (fld w 8 8) (fld w 0 8))
  | 0xC => fixedBits w 0xFF000000#32 0x3C000000#32 (.vmulhu (fld w 16 8) (fld w 8 8) (fld w 0 8))
  | 0xD => fixedBits w 0xFF000000#32 0x3D000000#32 (.vmad (fld w 16 8) (fld w 8 8) (fld w 0 8))
  | 0xE => fixedBits w 0xFF000000#32 0x3E000000#32 (.vand (fld w 16 8) (fld w 8 8) (fld w 0 8))
  | 0xF => fixedBits w 0xFF000000#32 0x3F000000#32 (.vor (fld w 16 8) (fld w 8 8) (fld w 0 8))
  | _ => none

/-- Opcodes 0x40 to 0x4F by their low digit. -/
def decode4 (w : BitVec 32) (lo : Nat) : Option Instr :=
  match lo with
  | 0x0 => fixedBits w 0xFF000000#32 0x40000000#32 (.vxor (fld w 16 8) (fld w 8 8) (fld w 0 8))
  | 0x1 => fixedBits w 0xFF000000#32 0x41000000#32 (.vshl (fld w 16 8) (fld w 8 8) (fld w 0 8))
  | 0x2 => fixedBits w 0xFF000000#32 0x42000000#32 (.vshr (fld w 16 8) (fld w 8 8) (fld w 0 8))
  | 0x3 => fixedBits w 0xFF000000#32 0x43000000#32 (.vsra (fld w 16 8) (fld w 8 8) (fld w 0 8))
  | 0x4 => fixedBits w 0xFF000000#32 0x44000000#32 (.vmin (fld w 16 8) (fld w 8 8) (fld w 0 8))
  | 0x5 => fixedBits w 0xFF000000#32 0x45000000#32 (.vmax (fld w 16 8) (fld w 8 8) (fld w 0 8))
  | 0x6 => fixedBits w 0xFF000000#32 0x46000000#32 (.vminu (fld w 16 8) (fld w 8 8) (fld w 0 8))
  | 0x7 => fixedBits w 0xFF000000#32 0x47000000#32 (.vmaxu (fld w 16 8) (fld w 8 8) (fld w 0 8))
  | 0x8 => fixedBits w 0xFF000000#32 0x48000000#32 (.vabsd (fld w 16 8) (fld w 8 8) (fld w 0 8))
  | 0x9 => fixedBits w 0xFF000000#32 0x49000000#32 (.vadds (fld w 16 8) (fld w 8 8) (fld w 0 8))
  | 0xA => fixedBits w 0xFF000000#32 0x4A000000#32 (.vsubs (fld w 16 8) (fld w 8 8) (fld w 0 8))
  | 0xB => fixedBits w 0xFF0000FF#32 0x4B000000#32 (.vpopc (fld w 16 8) (fld w 8 8))
  | 0xC => fixedBits w 0xFF0000FF#32 0x4C000000#32 (.vclz (fld w 16 8) (fld w 8 8))
  | 0xD => fixedBits w 0xFF0000FF#32 0x4D000000#32 (.vbrev (fld w 16 8) (fld w 8 8))
  | 0xE => fixedBits w 0xFF000000#32 0x4E000000#32 (.vbfe (fld w 16 8) (fld w 8 8) (fld w 0 8))
  | 0xF => fixedBits w 0xFF000000#32 0x4F000000#32 (.vbfi (fld w 16 8) (fld w 8 8) (fld w 0 8))
  | _ => none

/-- Opcodes 0x50 to 0x5F by their low digit. -/
def decode5 (w : BitVec 32) (lo : Nat) : Option Instr :=
  match lo with
  | 0x0 => fixedBits w 0xFF0000FF#32 0x50000000#32 (.vmov (fld w 16 8) (fld w 8 8))
  | 0x1 => fixedBits w 0xFF000000#32 0x51000000#32 (.vmovi (fld w 16 8) (fld w 0 16))
  | 0x2 => fixedBits w 0xFF000000#32 0x52000000#32 (.vmovhi (fld w 16 8) (fld w 0 16))
  | 0x3 => fixedBits w 0xFF000000#32 0x53000000#32 (.vcmp (fld w 21 3) (fld w 19 2) (fld w 16 3) (fld w 8 8) (fld w 0 8))
  | 0x4 => fixedBits w 0xFF000000#32 0x54000000#32 (.vcmpu (fld w 21 3) (fld w 19 2) (fld w 16 3) (fld w 8 8) (fld w 0 8))
  | 0x5 => fixedBits w 0xFF000000#32 0x55000000#32 (.vprmt (fld w 16 8) (fld w 8 8) (fld w 0 8))
  | 0x6 => fixedBits w 0xFF000000#32 0x56000000#32 (.vcvti (fld w 16 8) (fld w 8 8) (fld w 4 4) (fld w 0 4))
  | 0x7 => fixedBits w 0xFF000000#32 0x57000000#32 (.vaddw (fld w 16 8) (fld w 8 8) (fld w 0 8))
  | 0x9 => fixedBits w 0xF8000000#32 0x58000000#32 (.vselPk (fld w 24 3) (fld w 16 8) (fld w 8 8) (fld w 0 8))
  | 0xA => fixedBits w 0xF8000000#32 0x58000000#32 (.vselPk (fld w 24 3) (fld w 16 8) (fld w 8 8) (fld w 0 8))
  | 0xB => fixedBits w 0xF8000000#32 0x58000000#32 (.vselPk (fld w 24 3) (fld w 16 8) (fld w 8 8) (fld w 0 8))
  | 0xC => fixedBits w 0xF8000000#32 0x58000000#32 (.vselPk (fld w 24 3) (fld w 16 8) (fld w 8 8) (fld w 0 8))
  | 0xD => fixedBits w 0xF8000000#32 0x58000000#32 (.vselPk (fld w 24 3) (fld w 16 8) (fld w 8 8) (fld w 0 8))
  | 0xE => fixedBits w 0xF8000000#32 0x58000000#32 (.vselPk (fld w 24 3) (fld w 16 8) (fld w 8 8) (fld w 0 8))
  | 0xF => fixedBits w 0xF8000000#32 0x58000000#32 (.vselPk (fld w 24 3) (fld w 16 8) (fld w 8 8) (fld w 0 8))
  | _ => none

/-- Opcodes 0x60 to 0x6F by their low digit. -/
def decode6 (w : BitVec 32) (lo : Nat) : Option Instr :=
  match lo with
  | 0x0 => fixedBits w 0xFF000000#32 0x60000000#32 (.fadd (fld w 16 8) (fld w 8 8) (fld w 0 8))
  | 0x1 => fixedBits w 0xFF000000#32 0x61000000#32 (.fsub (fld w 16 8) (fld w 8 8) (fld w 0 8))
  | 0x2 => fixedBits w 0xFF000000#32 0x62000000#32 (.fmul (fld w 16 8) (fld w 8 8) (fld w 0 8))
  | 0x3 => fixedBits w 0xFF000000#32 0x63000000#32 (.ffma (fld w 16 8) (fld w 8 8) (fld w 0 8))
  | 0x4 => fixedBits w 0xFF000000#32 0x64000000#32 (.fmin (fld w 16 8) (fld w 8 8) (fld w 0 8))
  | 0x5 => fixedBits w 0xFF000000#32 0x65000000#32 (.fmax (fld w 16 8) (fld w 8 8) (fld w 0 8))
  | 0x6 => fixedBits w 0xFF000000#32 0x66000000#32 (.fcmp (fld w 21 3) (fld w 19 2) (fld w 16 3) (fld w 8 8) (fld w 0 8))
  | 0x7 => fixedBits w 0xFF0000FF#32 0x67000000#32 (.fclass (fld w 16 8) (fld w 8 8))
  | 0x8 => fixedBits w 0xFF000000#32 0x68000000#32 (.fscaleb (fld w 16 8) (fld w 8 8) (fld w 0 8))
  | 0x9 => fixedBits w 0xFF0000FF#32 0x69000000#32 (.ffrac (fld w 16 8) (fld w 8 8))
  | 0xA => fixedBits w 0xFF0000FF#32 0x6A000000#32 (.frnd (fld w 16 8) (fld w 8 8))
  | 0xB => fixedBits w 0xFF000000#32 0x6B000000#32 (.fcvt (fld w 16 8) (fld w 8 8) (fld w 4 4) (fld w 0 4))
  | 0xC => fixedBits w 0xFF000000#32 0x6C000000#32 (.dadd (fld w 16 8) (fld w 8 8) (fld w 0 8))
  | 0xD => fixedBits w 0xFF000000#32 0x6D000000#32 (.dsub (fld w 16 8) (fld w 8 8) (fld w 0 8))
  | 0xE => fixedBits w 0xFF000000#32 0x6E000000#32 (.dmul (fld w 16 8) (fld w 8 8) (fld w 0 8))
  | 0xF => fixedBits w 0xFF000000#32 0x6F000000#32 (.dfma (fld w 16 8) (fld w 8 8) (fld w 0 8))
  | _ => none

/-- Opcodes 0x70 to 0x7F by their low digit. -/
def decode7 (w : BitVec 32) (lo : Nat) : Option Instr :=
  match lo with
  | 0x0 => fixedBits w 0xFF000000#32 0x70000000#32 (.dcmp (fld w 21 3) (fld w 19 2) (fld w 16 3) (fld w 8 8) (fld w 0 8))
  | 0x1 => fixedBits w 0xFF000000#32 0x71000000#32 (.dcvt (fld w 16 8) (fld w 8 8) (fld w 4 4) (fld w 0 4))
  | 0x2 => fixedBits w 0xFF000000#32 0x72000000#32 (.badd2 (fld w 16 8) (fld w 8 8) (fld w 0 8))
  | 0x3 => fixedBits w 0xFF000000#32 0x73000000#32 (.bmul2 (fld w 16 8) (fld w 8 8) (fld w 0 8))
  | 0x4 => fixedBits w 0xFF000000#32 0x74000000#32 (.bfma2 (fld w 16 8) (fld w 8 8) (fld w 0 8))
  | 0x5 => fixedBits w 0xFF000000#32 0x75000000#32 (.hadd2 (fld w 16 8) (fld w 8 8) (fld w 0 8))
  | 0x6 => fixedBits w 0xFF000000#32 0x76000000#32 (.hmul2 (fld w 16 8) (fld w 8 8) (fld w 0 8))
  | 0x7 => fixedBits w 0xFF000000#32 0x77000000#32 (.hfma2 (fld w 16 8) (fld w 8 8) (fld w 0 8))
  | 0x8 => fixedBits w 0xFF000000#32 0x78000000#32 (.vdot2Bf (fld w 16 8) (fld w 8 8) (fld w 0 8))
  | 0x9 => fixedBits w 0xFF000000#32 0x79000000#32 (.vdot4E4 (fld w 16 8) (fld w 8 8) (fld w 0 8))
  | 0xA => fixedBits w 0xFF000000#32 0x7A000000#32 (.vdot4E5 (fld w 16 8) (fld w 8 8) (fld w 0 8))
  | 0xB => fixedBits w 0xFF000000#32 0x7B000000#32 (.vdot8F4 (fld w 16 8) (fld w 8 8) (fld w 0 8))
  | 0xC => fixedBits w 0xFF000000#32 0x7C000000#32 (.vdot4I8 (fld w 16 8) (fld w 8 8) (fld w 0 8))
  | 0xD => fixedBits w 0xFF000000#32 0x7D000000#32 (.vdot2H (fld w 16 8) (fld w 8 8) (fld w 0 8))
  | 0xE => fixedBits w 0xFF000000#32 0x7E000000#32 (.cvtpkBf (fld w 16 8) (fld w 8 8) (fld w 0 8))
  | 0xF => fixedBits w 0xFF000000#32 0x7F000000#32 (.cvtpkH (fld w 16 8) (fld w 8 8) (fld w 0 8))
  | _ => none

/-- Opcodes 0x80 to 0x8F by their low digit. -/
def decode8 (w : BitVec 32) (lo : Nat) : Option Instr :=
  match lo with
  | 0x0 => fixedBits w 0xFF000000#32 0x80000000#32 (.cvt8E4l (fld w 16 8) (fld w 8 8) (fld w 0 8))
  | 0x1 => fixedBits w 0xFF000000#32 0x81000000#32 (.cvt8E4h (fld w 16 8) (fld w 8 8) (fld w 0 8))
  | 0x2 => fixedBits w 0xFF000000#32 0x82000000#32 (.cvt8E5l (fld w 16 8) (fld w 8 8) (fld w 0 8))
  | 0x3 => fixedBits w 0xFF000000#32 0x83000000#32 (.cvt8E5h (fld w 16 8) (fld w 8 8) (fld w 0 8))
  | 0x4 => fixedBits w 0xFF000000#32 0x84000000#32 (.unpk (fld w 16 8) (fld w 8 8) (fld w 4 4) (fld w 0 4))
  | 0x5 => fixedBits w 0xFF00FFFF#32 0x85000000#32 (.dice (fld w 16 8))
  | 0x8 => fixedBits w 0xFF000000#32 0x88000000#32 (.shfl (fld w 16 8) (fld w 8 8) (fld w 0 8))
  | 0x9 => fixedBits w 0xFF000000#32 0x89000000#32 (.shflx (fld w 16 8) (fld w 8 8) (fld w 0 8))
  | 0xA => fixedBits w 0xFF000000#32 0x8A000000#32 (.shflu (fld w 16 8) (fld w 8 8) (fld w 0 8))
  | 0xB => fixedBits w 0xFF000000#32 0x8B000000#32 (.shfld (fld w 16 8) (fld w 8 8) (fld w 0 8))
  | 0xC => fixedBits w 0xFF000000#32 0x8C000000#32 (.swapp (fld w 16 8) (fld w 8 8) (fld w 0 8))
  | 0xD => fixedBits w 0xFF00FC0F#32 0x8D000000#32 (.vote (fld w 16 8) (fld w 8 2) (fld w 7 1) (fld w 4 3))
  | 0xE => fixedBits w 0xFF00000F#32 0x8E000000#32 (.redux (fld w 16 8) (fld w 8 8) (fld w 4 4))
  | 0xF => fixedBits w 0xFF000007#32 0x8F000000#32 (.scan (fld w 16 8) (fld w 8 8) (fld w 4 4) (fld w 3 1))
  | _ => none

/-- Opcodes 0x90 to 0x9F by their low digit. -/
def decode9 (w : BitVec 32) (lo : Nat) : Option Instr :=
  match lo with
  | 0x0 => fixedBits w 0xFF0000FF#32 0x90000000#32 (.sint (fld w 16 8) (fld w 8 8))
  | 0x1 => fixedBits w 0xFF0000FF#32 0x91000000#32 (.cost (fld w 16 8) (fld w 8 8))
  | 0x2 => fixedBits w 0xFF0000FF#32 0x92000000#32 (.exp2 (fld w 16 8) (fld w 8 8))
  | 0x3 => fixedBits w 0xFF0000FF#32 0x93000000#32 (.log2 (fld w 16 8) (fld w 8 8))
  | 0x4 => fixedBits w 0xFF0000FF#32 0x94000000#32 (.rcp (fld w 16 8) (fld w 8 8))
  | 0x5 => fixedBits w 0xFF0000FF#32 0x95000000#32 (.rsq (fld w 16 8) (fld w 8 8))
  | 0x6 => fixedBits w 0xFF0000FF#32 0x96000000#32 (.sqrt (fld w 16 8) (fld w 8 8))
  | 0x7 => fixedBits w 0xFF0000FF#32 0x97000000#32 (.tanh (fld w 16 8) (fld w 8 8))
  | 0x8 => fixedBits w 0xFF000000#32 0x98000000#32 (.divf (fld w 16 8) (fld w 8 8) (fld w 0 8))
  | 0x9 => fixedBits w 0xFF00001F#32 0x99000000#32 (.qpack (fld w 16 8) (fld w 8 8) (fld w 6 2) (fld w 5 1))
  | 0xA => fixedBits w 0xFF00003F#32 0x9A000000#32 (.qunpk (fld w 16 8) (fld w 8 8) (fld w 6 2))
  | 0xB => fixedBits w 0xFF00001F#32 0x9B000000#32 (.bscale (fld w 16 8) (fld w 8 8) (fld w 6 2) (fld w 5 1))
  | 0xC => fixedBits w 0xFF000000#32 0x9C000000#32 (.crc32c (fld w 16 8) (fld w 8 8) (fld w 0 8))
  | 0xD => fixedBits w 0xFF000000#32 0x9D000000#32 (.ddiv (fld w 16 8) (fld w 8 8) (fld w 0 8))
  | 0xE => fixedBits w 0xFF0000FF#32 0x9E000000#32 (.dsqrt (fld w 16 8) (fld w 8 8))
  | _ => none

/-- Opcodes 0xA0 to 0xAF by their low digit. -/
def decodeA (w : BitVec 32) (lo : Nat) : Option Instr :=
  match lo with
  | 0x0 => fixedBits w 0xFF000000#32 0xA0000000#32 (.ldg (fld w 16 8) (fld w 8 8) (fld w 5 3) (fld w 0 5))
  | 0x1 => fixedBits w 0xFF000000#32 0xA1000000#32 (.stg (fld w 16 8) (fld w 8 8) (fld w 5 3) (fld w 0 5))
  | 0x2 => fixedBits w 0xFF000000#32 0xA2000000#32 (.ldl (fld w 16 8) (fld w 8 8) (fld w 5 3) (fld w 0 5))
  | 0x3 => fixedBits w 0xFF000000#32 0xA3000000#32 (.stl (fld w 16 8) (fld w 8 8) (fld w 5 3) (fld w 0 5))
  | 0x4 => fixedBits w 0xFF000000#32 0xA4000000#32 (.ldc (fld w 16 8) (fld w 8 8) (fld w 5 3) (fld w 0 5))
  | 0x5 => fixedBits w 0xFF000000#32 0xA5000000#32 (.stc (fld w 16 8) (fld w 8 8) (fld w 5 3) (fld w 0 5))
  | 0x6 => fixedBits w 0xFF000000#32 0xA6000000#32 (.lda (fld w 16 8) (fld w 8 8) (fld w 5 3) (fld w 0 5))
  | 0x7 => fixedBits w 0xFF000000#32 0xA7000000#32 (.sta (fld w 16 8) (fld w 8 8) (fld w 5 3) (fld w 0 5))
  | 0x8 => fixedBits w 0xFF000000#32 0xA8000000#32 (.ldk (fld w 16 8) (fld w 8 8) (fld w 5 3) (fld w 0 5))
  | 0x9 => fixedBits w 0xFF000000#32 0xA9000000#32 (.ldu (fld w 16 8) (fld w 8 8) (fld w 5 3) (fld w 0 5))
  | 0xA => fixedBits w 0xFF000000#32 0xAA000000#32 (.ldul (fld w 16 8) (fld w 8 8) (fld w 5 3) (fld w 0 5))
  | 0xB => fixedBits w 0xFF000000#32 0xAB000000#32 (.ldacq (fld w 16 8) (fld w 8 8) (fld w 5 3) (fld w 0 5))
  | 0xC => fixedBits w 0xFF000000#32 0xAC000000#32 (.strel (fld w 16 8) (fld w 8 8) (fld w 5 3) (fld w 0 5))
  | 0xD => fixedBits w 0xFF3FFFFF#32 0xAD000000#32 (.fence (fld w 22 2))
  | 0xE => fixedBits w 0xFFFC00E0#32 0xAE000080#32 (.pref (fld w 16 2) (fld w 8 8) (fld w 0 5))
  | 0xF => fixedBits w 0xFF0F00FF#32 0xAF000000#32 (.cctl (fld w 20 4) (fld w 8 8))
  | _ => none

/-- Opcodes 0xB0 to 0xBF by their low digit. -/
def decodeB (w : BitVec 32) (lo : Nat) : Option Instr :=
  match lo with
  | 0x0 => fixedBits w 0xFF000000#32 0xB0000000#32 (.atomAdd (fld w 16 8) (fld w 9 7) (fld w 8 1) (fld w 0 8))
  | 0x1 => fixedBits w 0xFF000000#32 0xB1000000#32 (.atomFadd (fld w 16 8) (fld w 9 7) (fld w 8 1) (fld w 0 8))
  | 0x2 => fixedBits w 0xFF000000#32 0xB2000000#32 (.atomMin (fld w 16 8) (fld w 9 7) (fld w 8 1) (fld w 0 8))
  | 0x3 => fixedBits w 0xFF000000#32 0xB3000000#32 (.atomMax (fld w 16 8) (fld w 9 7) (fld w 8 1) (fld w 0 8))
  | 0x4 => fixedBits w 0xFF000000#32 0xB4000000#32 (.atomMinu (fld w 16 8) (fld w 9 7) (fld w 8 1) (fld w 0 8))
  | 0x5 => fixedBits w 0xFF000000#32 0xB5000000#32 (.atomMaxu (fld w 16 8) (fld w 9 7) (fld w 8 1) (fld w 0 8))
  | 0x6 => fixedBits w 0xFF000000#32 0xB6000000#32 (.atomAnd (fld w 16 8) (fld w 9 7) (fld w 8 1) (fld w 0 8))
  | 0x7 => fixedBits w 0xFF000000#32 0xB7000000#32 (.atomOr (fld w 16 8) (fld w 9 7) (fld w 8 1) (fld w 0 8))
  | 0x8 => fixedBits w 0xFF000000#32 0xB8000000#32 (.atomXor (fld w 16 8) (fld w 9 7) (fld w 8 1) (fld w 0 8))
  | 0x9 => fixedBits w 0xFF000000#32 0xB9000000#32 (.atomExch (fld w 16 8) (fld w 9 7) (fld w 8 1) (fld w 0 8))
  | 0xA => fixedBits w 0xFF000000#32 0xBA000000#32 (.atomCas (fld w 16 8) (fld w 9 7) (fld w 8 1) (fld w 0 8))
  | 0xB => fixedBits w 0xFF000000#32 0xBB000000#32 (.atomInc (fld w 16 8) (fld w 9 7) (fld w 8 1) (fld w 0 8))
  | 0xC => fixedBits w 0xFFFF00FF#32 0xBC000000#32 (.lock (fld w 8 8))
  | 0xD => fixedBits w 0xFFFF00FF#32 0xBD000000#32 (.unlock (fld w 8 8))
  | 0xE => fixedBits w 0xFF0F0000#32 0xBE000000#32 (.waitc (fld w 21 3) (fld w 20 1) (fld w 8 8) (fld w 0 8))
  | 0xF => fixedBits w 0xFF000000#32 0xBF000000#32 (.ladd (fld w 16 8) (fld w 8 8) (fld w 0 8))
  | _ => none

/-- Opcodes 0xC0 to 0xCF by their low digit. -/
def decodeC (w : BitVec 32) (lo : Nat) : Option Instr :=
  match lo with
  | 0x0 => fixedBits w 0xFF000000#32 0xC0000000#32 (.waitn (fld w 18 6) (fld w 12 6) (fld w 6 6) (fld w 0 6))
  | 0x1 => fixedBits w 0xFF00FFFF#32 0xC1000000#32 (.batch (fld w 16 8))
  | 0x2 => fixedBits w 0xFFF800FF#32 0xC2000000#32 (.waitb (fld w 16 3) (fld w 8 8))
  | 0x3 => fixedBits w 0xFF0703FF#32 0xC3000000#32 (.barinit (fld w 20 4) (fld w 19 1) (fld w 10 6))
  | 0x4 => fixedBits w 0xFF0FFFFF#32 0xC4000000#32 (.arrive (fld w 20 4))
  | 0x5 => fixedBits w 0xFF0F00FF#32 0xC5000000#32 (.arrivex (fld w 20 4) (fld w 8 8))
  | 0x6 => fixedBits w 0xFF00FFFF#32 0xC6000000#32 (.barwait (fld w 20 4) (fld w 19 1) (fld w 16 3))
  | 0x7 => fixedBits w 0xFF00FFFF#32 0xC7000000#32 (.bartry (fld w 20 4) (fld w 19 1) (fld w 16 3))
  | 0x8 => fixedBits w 0xFFFFFFFF#32 0xC8000000#32 (.gridbar)
  | 0x9 => fixedBits w 0xFF00FFFF#32 0xC9000000#32 (.gset (fld w 21 3) (fld w 19 2) (fld w 16 3))
  | _ => none

/-- Opcodes 0xD0 to 0xDF by their low digit. -/
def decodeD (w : BitVec 32) (lo : Nat) : Option Instr :=
  match lo with
  | 0x0 => fixedBits w 0xFF000007#32 0xD0000000#32 (.xcopy (fld w 16 8) (fld w 11 5) (fld w 10 1) (fld w 7 3) (fld w 3 4))
  | 0x1 => fixedBits w 0xFF000407#32 0xD1000000#32 (.xgather (fld w 16 8) (fld w 11 5) (fld w 7 3) (fld w 3 4))
  | 0x2 => fixedBits w 0xFF000407#32 0xD2000000#32 (.xscatter (fld w 16 8) (fld w 11 5) (fld w 7 3) (fld w 3 4))
  | 0x3 => fixedBits w 0xFF000407#32 0xD3000000#32 (.xfill (fld w 16 8) (fld w 11 5) (fld w 7 3) (fld w 3 4))
  | 0x4 => fixedBits w 0xFF0000FF#32 0xD4000000#32 (.xstat (fld w 16 8) (fld w 12 4) (fld w 8 4))
  | 0x5 => fixedBits w 0xFF000000#32 0xD5000000#32 (.coll (fld w 21 3) (fld w 17 4) (fld w 13 4) (fld w 7 6) (fld w 4 3) (fld w 1 3) (fld w 0 1))
  | 0x6 => fixedBits w 0xFF00000F#32 0xD6000000#32 (.commq (fld w 16 8) (fld w 8 8) (fld w 4 4))
  | 0x7 => fixedBits w 0xFFFF0000#32 0xD7000000#32 (.mstart (fld w 8 8) (fld w 0 8))
  | 0x8 => fixedBits w 0xFF0F00FF#32 0xD8000000#32 (.tdesc (fld w 20 4) (fld w 8 8))
  | _ => none

/-- Opcodes 0xE0 to 0xEF by their low digit. -/
def decodeE (w : BitVec 32) (lo : Nat) : Option Instr :=
  match lo with
  | 0x0 => fixedBits w 0xFF00FFFF#32 0xE0000000#32 (.mldw (fld w 20 4) (fld w 16 4))
  | 0x1 => fixedBits w 0xFFFFFFFF#32 0xE1000000#32 (.mswap)
  | 0x2 => fixedBits w 0xFF000007#32 0xE2000000#32 (.mmaM32 (fld w 20 4) (fld w 16 4) (fld w 12 4) (fld w 10 2) (fld w 9 1) (fld w 6 3) (fld w 3 3))
  | 0x3 => fixedBits w 0xFF000007#32 0xE3000000#32 (.mmaM64 (fld w 20 4) (fld w 16 4) (fld w 12 4) (fld w 10 2) (fld w 9 1) (fld w 6 3) (fld w 3 3))
  | 0x4 => fixedBits w 0xFF000007#32 0xE4000000#32 (.mmaM128 (fld w 20 4) (fld w 16 4) (fld w 12 4) (fld w 10 2) (fld w 9 1) (fld w 6 3) (fld w 3 3))
  | 0x5 => fixedBits w 0xFF000007#32 0xE5000000#32 (.mmaM256 (fld w 20 4) (fld w 16 4) (fld w 12 4) (fld w 10 2) (fld w 9 1) (fld w 6 3) (fld w 3 3))
  | 0x6 => fixedBits w 0xFF0FFFFF#32 0xE6000000#32 (.mzero (fld w 20 4))
  | 0x7 => fixedBits w 0xFF000007#32 0xE7000000#32 (.mdrain (fld w 20 4) (fld w 16 4) (fld w 12 4) (fld w 10 2) (fld w 9 1) (fld w 6 3) (fld w 3 3))
  | 0x8 => fixedBits w 0xFF0FFFFF#32 0xE8000000#32 (.marrive (fld w 20 4))
  | 0x9 => fixedBits w 0xFF007FFF#32 0xE9000000#32 (.mwait (fld w 20 4) (fld w 19 1) (fld w 18 1) (fld w 15 3))
  | 0xA => fixedBits w 0xFF01FFFF#32 0xEA000000#32 (.msett (fld w 20 4) (fld w 17 3))
  | 0xB => fixedBits w 0xFF0F0000#32 0xEB000000#32 (.maddi (fld w 21 3) (fld w 20 1) (fld w 0 16))
  | 0xC => fixedBits w 0xFF1F0000#32 0xEC000000#32 (.mloop (fld w 21 3) (fld w 0 16))
  | 0xD => fixedBits w 0xFFFFFFFF#32 0xED000000#32 (.mend)
  | 0xE => fixedBits w 0xFF0FFFFF#32 0xEE000000#32 (.mguard (fld w 21 3) (fld w 20 1))
  | _ => none

/-- Opcodes 0xF0 to 0xFF by their low digit. -/
def decodeF (w : BitVec 32) (lo : Nat) : Option Instr :=
  match lo with
  | 0x0 => fixedBits w 0xFF0000FF#32 0xF0000000#32 (.tget (fld w 16 8) (fld w 8 8))
  | 0x1 => fixedBits w 0xFF0000FF#32 0xF1000000#32 (.tset (fld w 16 8) (fld w 8 8))
  | 0x2 => fixedBits w 0xFF00FFFF#32 0xF2000000#32 (.tstamp (fld w 16 8))
  | 0x3 => fixedBits w 0xFF00FFC0#32 0xF3000000#32 (.tchk (fld w 16 8) (fld w 0 6))
  | 0x4 => fixedBits w 0xFF00000F#32 0xF4000000#32 (.tcap (fld w 16 8) (fld w 8 8) (fld w 4 4))
  | 0x5 => fixedBits w 0xFFFFFFF8#32 0xF5000000#32 (.trule (fld w 0 3))
  | 0x6 => (fixedBits w 0xFF0000FF#32 0xF6000000#32 (.lstat (fld w 16 8) (fld w 8 8))) <|> (fixedBits w 0xFFFF00FF#32 0xF6000040#32 (.lstatMask (fld w 8 8)))
  | _ => none

/-- The instruction a word names, or why it names none. Total on every word. -/
def decodeWord (w : BitVec 32) : Except DecodeReject Instr :=
  if reservedOp (opcode w) then .ok (.reservedOpcode w)
  else
    let lo := (fld w 24 4).toNat
    let r := match (fld w 28 4).toNat with
      | 0x0 => decode0 w lo
      | 0x1 => decode1 w lo
      | 0x2 => decode2 w lo
      | 0x3 => decode3 w lo
      | 0x4 => decode4 w lo
      | 0x5 => decode5 w lo
      | 0x6 => decode6 w lo
      | 0x7 => decode7 w lo
      | 0x8 => decode8 w lo
      | 0x9 => decode9 w lo
      | 0xA => decodeA w lo
      | 0xB => decodeB w lo
      | 0xC => decodeC w lo
      | 0xD => decodeD w lo
      | 0xE => decodeE w lo
      | 0xF => decodeF w lo
      | _ => none
    match r with
    | some i => .ok i
    | none => .error (.reservedBits w)

/-- The decoder's answer without its reason. -/
def decode (w : BitVec 32) : Option Instr := (decodeWord w).toOption

/-- The bits of a word that are no reserved bits of its opcode: those that may be set alone. -/
def fieldBits (w : BitVec 32) : BitVec 32 :=
  let base := w &&& 0xFF000000#32
  (List.range 24).foldl (fun (m : BitVec 32) b =>
    if (decode (base ||| (1#32 <<< b))).isSome then m ||| (1#32 <<< b) else m) 0xFF000000#32

/-- The instruction that a word with a nonzero reserved bit would be without it: what decides the causes that come
before ILL_FIELD (R72). Kinds 10 and 11 of LSTAT are reserved whatever d holds (R397), and PREF has one legal width (R167). -/
def nearestInstr (w : BitVec 32) : Option Instr :=
  if opcode w = 0xF6 ∧ fld w 6 2 ≠ 0#2 then some (.lstatMask 0#8)
  else if opcode w = 0xAE then some (.pref (fld w 16 2) (fld w 8 8) (fld w 0 5))
  else decode (w &&& fieldBits w)

/-- The word of four bytes, lowest address first (R9, R50). -/
def wordOfBytes (b0 b1 b2 b3 : BitVec 8) : BitVec 32 := b3 ++ b2 ++ b1 ++ b0

/-- Decode the four bytes at the front of a list; none when fewer are left. -/
def decodeBytes : List (BitVec 8) → Option (Except DecodeReject Instr × List (BitVec 8))
  | b0 :: b1 :: b2 :: b3 :: rest => some (decodeWord (wordOfBytes b0 b1 b2 b3), rest)
  | _ => none

/-- The instruction of a word given as the opcode table numbers its bits. -/
def decodeTableWord (nbits w : Nat) : Option Instr :=
  if nbits ≤ 32 ∧ w < 2 ^ 32 then decode (BitVec.ofNat 32 w) else none

/-- The word of an instruction; none for the events, which have no encoding. -/
def encode : Instr → Option (BitVec 32)
  | .imm i => some (0x1#8 ++ i : BitVec 32)
  | .mod s c n m a b k r t g o => some (0x2#8 ++ s ++ c ++ n ++ m ++ a ++ b ++ k ++ r ++ t ++ g ++ o : BitVec 32)
  | .hint s y a b c => some (0x3#8 ++ s ++ y ++ a ++ b ++ c ++ 0x0#15 : BitVec 32)
  | .nop => some (0x4000000#32 : BitVec 32)
  | .trap n p c => some (0x50#12 ++ n ++ p ++ c : BitVec 32)
  | .bkpt c => some (0x600#16 ++ c : BitVec 32)
  | .rfe => some (0x7000000#32 : BitVec 32)
  | .mfsr d s => some (0x8#8 ++ d ++ s ++ 0x0#8 : BitVec 32)
  | .mtsr s a => some (0x9#8 ++ s ++ a ++ 0x0#8 : BitVec 32)
  | .br o => some (0x1000#16 ++ o : BitVec 32)
  | .bru n p o => some (0x110#12 ++ n ++ p ++ o : BitVec 32)
  | .brd k n p o => some (0x12#8 ++ k ++ n ++ p ++ o : BitVec 32)
  | .brz n o => some (0x130#12 ++ n ++ 0x0#3 ++ o : BitVec 32)
  | .jmpi a => some (0x1400#16 ++ a ++ 0x0#8 : BitVec 32)
  | .call c o => some (0x15#8 ++ c ++ o : BitVec 32)
  | .ret a => some (0x1600#16 ++ a ++ 0x0#8 : BitVec 32)
  | .rejoin k => some (0x17#8 ++ k ++ 0x0#20 : BitVec 32)
  | .yield => some (0x18000000#32 : BitVec 32)
  | .yieldD => some (0x18800000#32 : BitVec 32)
  | .exit => some (0x19000000#32 : BitVec 32)
  | .regroup b n o => some (0x1A#8 ++ b ++ n ++ o : BitVec 32)
  | .msav d => some (0x1B#8 ++ d ++ 0x0#16 : BitVec 32)
  | .mres a => some (0x1C00#16 ++ a ++ 0x0#8 : BitVec 32)
  | .mand n p => some (0x1D0#12 ++ n ++ p ++ 0x0#16 : BitVec 32)
  | .enall => some (0x1E000000#32 : BitVec 32)
  | .enres => some (0x1F000000#32 : BitVec 32)
  | .sadd d a b => some (0x20#8 ++ d ++ a ++ b : BitVec 32)
  | .ssub d a b => some (0x21#8 ++ d ++ a ++ b : BitVec 32)
  | .smul d a b => some (0x22#8 ++ d ++ a ++ b : BitVec 32)
  | .smulhu d a b => some (0x23#8 ++ d ++ a ++ b : BitVec 32)
  | .sand d a b => some (0x24#8 ++ d ++ a ++ b : BitVec 32)
  | .sor d a b => some (0x25#8 ++ d ++ a ++ b : BitVec 32)
  | .sxor d a b => some (0x26#8 ++ d ++ a ++ b : BitVec 32)
  | .sshl d a b => some (0x27#8 ++ d ++ a ++ b : BitVec 32)
  | .sshr d a b => some (0x28#8 ++ d ++ a ++ b : BitVec 32)
  | .ssra d a b => some (0x29#8 ++ d ++ a ++ b : BitVec 32)
  | .smin d a b => some (0x2A#8 ++ d ++ a ++ b : BitVec 32)
  | .smax d a b => some (0x2B#8 ++ d ++ a ++ b : BitVec 32)
  | .sminu d a b => some (0x2C#8 ++ d ++ a ++ b : BitVec 32)
  | .smaxu d a b => some (0x2D#8 ++ d ++ a ++ b : BitVec 32)
  | .smovi d i => some (0x2E#8 ++ d ++ i : BitVec 32)
  | .smovhi d i => some (0x2F#8 ++ d ++ i : BitVec 32)
  | .scmp c m p a b => some (0x30#8 ++ c ++ m ++ p ++ a ++ b : BitVec 32)
  | .saddi d i => some (0x31#8 ++ d ++ i : BitVec 32)
  | .spopc d a => some (0x32#8 ++ d ++ a ++ 0x0#8 : BitVec 32)
  | .sffs d a => some (0x33#8 ++ d ++ a ++ 0x0#8 : BitVec 32)
  | .sbfe d a b => some (0x34#8 ++ d ++ a ++ b : BitVec 32)
  | .sdivu d a b => some (0x35#8 ++ d ++ a ++ b : BitVec 32)
  | .sremu d a b => some (0x36#8 ++ d ++ a ++ b : BitVec 32)
  | .saddw d a b => some (0x37#8 ++ d ++ a ++ b : BitVec 32)
  | .vadd d a b => some (0x38#8 ++ d ++ a ++ b : BitVec 32)
  | .vsub d a b => some (0x39#8 ++ d ++ a ++ b : BitVec 32)
  | .vmul d a b => some (0x3A#8 ++ d ++ a ++ b : BitVec 32)
  | .vmulhi d a b => some (0x3B#8 ++ d ++ a ++ b : BitVec 32)
  | .vmulhu d a b => some (0x3C#8 ++ d ++ a ++ b : BitVec 32)
  | .vmad d a b => some (0x3D#8 ++ d ++ a ++ b : BitVec 32)
  | .vand d a b => some (0x3E#8 ++ d ++ a ++ b : BitVec 32)
  | .vor d a b => some (0x3F#8 ++ d ++ a ++ b : BitVec 32)
  | .vxor d a b => some (0x40#8 ++ d ++ a ++ b : BitVec 32)
  | .vshl d a b => some (0x41#8 ++ d ++ a ++ b : BitVec 32)
  | .vshr d a b => some (0x42#8 ++ d ++ a ++ b : BitVec 32)
  | .vsra d a b => some (0x43#8 ++ d ++ a ++ b : BitVec 32)
  | .vmin d a b => some (0x44#8 ++ d ++ a ++ b : BitVec 32)
  | .vmax d a b => some (0x45#8 ++ d ++ a ++ b : BitVec 32)
  | .vminu d a b => some (0x46#8 ++ d ++ a ++ b : BitVec 32)
  | .vmaxu d a b => some (0x47#8 ++ d ++ a ++ b : BitVec 32)
  | .vabsd d a b => some (0x48#8 ++ d ++ a ++ b : BitVec 32)
  | .vadds d a b => some (0x49#8 ++ d ++ a ++ b : BitVec 32)
  | .vsubs d a b => some (0x4A#8 ++ d ++ a ++ b : BitVec 32)
  | .vpopc d a => some (0x4B#8 ++ d ++ a ++ 0x0#8 : BitVec 32)
  | .vclz d a => some (0x4C#8 ++ d ++ a ++ 0x0#8 : BitVec 32)
  | .vbrev d a => some (0x4D#8 ++ d ++ a ++ 0x0#8 : BitVec 32)
  | .vbfe d a b => some (0x4E#8 ++ d ++ a ++ b : BitVec 32)
  | .vbfi d a b => some (0x4F#8 ++ d ++ a ++ b : BitVec 32)
  | .vmov d a => some (0x50#8 ++ d ++ a ++ 0x0#8 : BitVec 32)
  | .vmovi d i => some (0x51#8 ++ d ++ i : BitVec 32)
  | .vmovhi d i => some (0x52#8 ++ d ++ i : BitVec 32)
  | .vcmp c m p a b => some (0x53#8 ++ c ++ m ++ p ++ a ++ b : BitVec 32)
  | .vcmpu c m p a b => some (0x54#8 ++ c ++ m ++ p ++ a ++ b : BitVec 32)
  | .vprmt d a b => some (0x55#8 ++ d ++ a ++ b : BitVec 32)
  | .vcvti d a s t => some (0x56#8 ++ d ++ a ++ s ++ t : BitVec 32)
  | .vaddw d a b => some (0x57#8 ++ d ++ a ++ b : BitVec 32)
  | .vselPk p d a b => some (0xB#5 ++ p ++ d ++ a ++ b : BitVec 32)
  | .fadd d a b => some (0x60#8 ++ d ++ a ++ b : BitVec 32)
  | .fsub d a b => some (0x61#8 ++ d ++ a ++ b : BitVec 32)
  | .fmul d a b => some (0x62#8 ++ d ++ a ++ b : BitVec 32)
  | .ffma d a b => some (0x63#8 ++ d ++ a ++ b : BitVec 32)
  | .fmin d a b => some (0x64#8 ++ d ++ a ++ b : BitVec 32)
  | .fmax d a b => some (0x65#8 ++ d ++ a ++ b : BitVec 32)
  | .fcmp c m p a b => some (0x66#8 ++ c ++ m ++ p ++ a ++ b : BitVec 32)
  | .fclass d a => some (0x67#8 ++ d ++ a ++ 0x0#8 : BitVec 32)
  | .fscaleb d a b => some (0x68#8 ++ d ++ a ++ b : BitVec 32)
  | .ffrac d a => some (0x69#8 ++ d ++ a ++ 0x0#8 : BitVec 32)
  | .frnd d a => some (0x6A#8 ++ d ++ a ++ 0x0#8 : BitVec 32)
  | .fcvt d a s t => some (0x6B#8 ++ d ++ a ++ s ++ t : BitVec 32)
  | .dadd d a b => some (0x6C#8 ++ d ++ a ++ b : BitVec 32)
  | .dsub d a b => some (0x6D#8 ++ d ++ a ++ b : BitVec 32)
  | .dmul d a b => some (0x6E#8 ++ d ++ a ++ b : BitVec 32)
  | .dfma d a b => some (0x6F#8 ++ d ++ a ++ b : BitVec 32)
  | .dcmp c m p a b => some (0x70#8 ++ c ++ m ++ p ++ a ++ b : BitVec 32)
  | .dcvt d a s t => some (0x71#8 ++ d ++ a ++ s ++ t : BitVec 32)
  | .badd2 d a b => some (0x72#8 ++ d ++ a ++ b : BitVec 32)
  | .bmul2 d a b => some (0x73#8 ++ d ++ a ++ b : BitVec 32)
  | .bfma2 d a b => some (0x74#8 ++ d ++ a ++ b : BitVec 32)
  | .hadd2 d a b => some (0x75#8 ++ d ++ a ++ b : BitVec 32)
  | .hmul2 d a b => some (0x76#8 ++ d ++ a ++ b : BitVec 32)
  | .hfma2 d a b => some (0x77#8 ++ d ++ a ++ b : BitVec 32)
  | .vdot2Bf d a b => some (0x78#8 ++ d ++ a ++ b : BitVec 32)
  | .vdot4E4 d a b => some (0x79#8 ++ d ++ a ++ b : BitVec 32)
  | .vdot4E5 d a b => some (0x7A#8 ++ d ++ a ++ b : BitVec 32)
  | .vdot8F4 d a b => some (0x7B#8 ++ d ++ a ++ b : BitVec 32)
  | .vdot4I8 d a b => some (0x7C#8 ++ d ++ a ++ b : BitVec 32)
  | .vdot2H d a b => some (0x7D#8 ++ d ++ a ++ b : BitVec 32)
  | .cvtpkBf d a b => some (0x7E#8 ++ d ++ a ++ b : BitVec 32)
  | .cvtpkH d a b => some (0x7F#8 ++ d ++ a ++ b : BitVec 32)
  | .cvt8E4l d a b => some (0x80#8 ++ d ++ a ++ b : BitVec 32)
  | .cvt8E4h d a b => some (0x81#8 ++ d ++ a ++ b : BitVec 32)
  | .cvt8E5l d a b => some (0x82#8 ++ d ++ a ++ b : BitVec 32)
  | .cvt8E5h d a b => some (0x83#8 ++ d ++ a ++ b : BitVec 32)
  | .unpk d a f s => some (0x84#8 ++ d ++ a ++ f ++ s : BitVec 32)
  | .dice d => some (0x85#8 ++ d ++ 0x0#16 : BitVec 32)
  | .shfl d a b => some (0x88#8 ++ d ++ a ++ b : BitVec 32)
  | .shflx d a b => some (0x89#8 ++ d ++ a ++ b : BitVec 32)
  | .shflu d a b => some (0x8A#8 ++ d ++ a ++ b : BitVec 32)
  | .shfld d a b => some (0x8B#8 ++ d ++ a ++ b : BitVec 32)
  | .swapp d a b => some (0x8C#8 ++ d ++ a ++ b : BitVec 32)
  | .vote d k n p => some (0x8D#8 ++ d ++ 0x0#6 ++ k ++ n ++ p ++ 0x0#4 : BitVec 32)
  | .redux d a r => some (0x8E#8 ++ d ++ a ++ r ++ 0x0#4 : BitVec 32)
  | .scan d a r x => some (0x8F#8 ++ d ++ a ++ r ++ x ++ 0x0#3 : BitVec 32)
  | .sint d a => some (0x90#8 ++ d ++ a ++ 0x0#8 : BitVec 32)
  | .cost d a => some (0x91#8 ++ d ++ a ++ 0x0#8 : BitVec 32)
  | .exp2 d a => some (0x92#8 ++ d ++ a ++ 0x0#8 : BitVec 32)
  | .log2 d a => some (0x93#8 ++ d ++ a ++ 0x0#8 : BitVec 32)
  | .rcp d a => some (0x94#8 ++ d ++ a ++ 0x0#8 : BitVec 32)
  | .rsq d a => some (0x95#8 ++ d ++ a ++ 0x0#8 : BitVec 32)
  | .sqrt d a => some (0x96#8 ++ d ++ a ++ 0x0#8 : BitVec 32)
  | .tanh d a => some (0x97#8 ++ d ++ a ++ 0x0#8 : BitVec 32)
  | .divf d a b => some (0x98#8 ++ d ++ a ++ b : BitVec 32)
  | .qpack d a f o => some (0x99#8 ++ d ++ a ++ f ++ o ++ 0x0#5 : BitVec 32)
  | .qunpk d a f => some (0x9A#8 ++ d ++ a ++ f ++ 0x0#6 : BitVec 32)
  | .bscale d a f o => some (0x9B#8 ++ d ++ a ++ f ++ o ++ 0x0#5 : BitVec 32)
  | .crc32c d a b => some (0x9C#8 ++ d ++ a ++ b : BitVec 32)
  | .ddiv d a b => some (0x9D#8 ++ d ++ a ++ b : BitVec 32)
  | .dsqrt d a => some (0x9E#8 ++ d ++ a ++ 0x0#8 : BitVec 32)
  | .ldg d a w o => some (0xA0#8 ++ d ++ a ++ w ++ o : BitVec 32)
  | .stg d a w o => some (0xA1#8 ++ d ++ a ++ w ++ o : BitVec 32)
  | .ldl d a w o => some (0xA2#8 ++ d ++ a ++ w ++ o : BitVec 32)
  | .stl d a w o => some (0xA3#8 ++ d ++ a ++ w ++ o : BitVec 32)
  | .ldc d a w o => some (0xA4#8 ++ d ++ a ++ w ++ o : BitVec 32)
  | .stc d a w o => some (0xA5#8 ++ d ++ a ++ w ++ o : BitVec 32)
  | .lda d a w o => some (0xA6#8 ++ d ++ a ++ w ++ o : BitVec 32)
  | .sta d a w o => some (0xA7#8 ++ d ++ a ++ w ++ o : BitVec 32)
  | .ldk d a w o => some (0xA8#8 ++ d ++ a ++ w ++ o : BitVec 32)
  | .ldu d a w o => some (0xA9#8 ++ d ++ a ++ w ++ o : BitVec 32)
  | .ldul d a w o => some (0xAA#8 ++ d ++ a ++ w ++ o : BitVec 32)
  | .ldacq d a w o => some (0xAB#8 ++ d ++ a ++ w ++ o : BitVec 32)
  | .strel d a w o => some (0xAC#8 ++ d ++ a ++ w ++ o : BitVec 32)
  | .fence k => some (0xAD#8 ++ k ++ 0x0#22 : BitVec 32)
  | .pref l a o => some (0x2B80#14 ++ l ++ a ++ 0x4#3 ++ o : BitVec 32)
  | .cctl c a => some (0xAF#8 ++ c ++ 0x0#4 ++ a ++ 0x0#8 : BitVec 32)
  | .atomAdd d a w b => some (0xB0#8 ++ d ++ a ++ w ++ b : BitVec 32)
  | .atomFadd d a w b => some (0xB1#8 ++ d ++ a ++ w ++ b : BitVec 32)
  | .atomMin d a w b => some (0xB2#8 ++ d ++ a ++ w ++ b : BitVec 32)
  | .atomMax d a w b => some (0xB3#8 ++ d ++ a ++ w ++ b : BitVec 32)
  | .atomMinu d a w b => some (0xB4#8 ++ d ++ a ++ w ++ b : BitVec 32)
  | .atomMaxu d a w b => some (0xB5#8 ++ d ++ a ++ w ++ b : BitVec 32)
  | .atomAnd d a w b => some (0xB6#8 ++ d ++ a ++ w ++ b : BitVec 32)
  | .atomOr d a w b => some (0xB7#8 ++ d ++ a ++ w ++ b : BitVec 32)
  | .atomXor d a w b => some (0xB8#8 ++ d ++ a ++ w ++ b : BitVec 32)
  | .atomExch d a w b => some (0xB9#8 ++ d ++ a ++ w ++ b : BitVec 32)
  | .atomCas d a w b => some (0xBA#8 ++ d ++ a ++ w ++ b : BitVec 32)
  | .atomInc d a w b => some (0xBB#8 ++ d ++ a ++ w ++ b : BitVec 32)
  | .lock a => some (0xBC00#16 ++ a ++ 0x0#8 : BitVec 32)
  | .unlock a => some (0xBD00#16 ++ a ++ 0x0#8 : BitVec 32)
  | .waitc c i a b => some (0xBE#8 ++ c ++ i ++ 0x0#4 ++ a ++ b : BitVec 32)
  | .ladd d a b => some (0xBF#8 ++ d ++ a ++ b : BitVec 32)
  | .waitn l s c t => some (0xC0#8 ++ l ++ s ++ c ++ t : BitVec 32)
  | .batch d => some (0xC1#8 ++ d ++ 0x0#16 : BitVec 32)
  | .waitb p a => some (0x1840#13 ++ p ++ a ++ 0x0#8 : BitVec 32)
  | .barinit b e n => some (0xC3#8 ++ b ++ e ++ 0x0#3 ++ n ++ 0x0#10 : BitVec 32)
  | .arrive b => some (0xC4#8 ++ b ++ 0x0#20 : BitVec 32)
  | .arrivex b a => some (0xC5#8 ++ b ++ 0x0#4 ++ a ++ 0x0#8 : BitVec 32)
  | .barwait b q p => some (0xC6#8 ++ b ++ q ++ p ++ 0x0#16 : BitVec 32)
  | .bartry b q p => some (0xC7#8 ++ b ++ q ++ p ++ 0x0#16 : BitVec 32)
  | .gridbar => some (0xC8000000#32 : BitVec 32)
  | .gset g a p => some (0xC9#8 ++ g ++ a ++ p ++ 0x0#16 : BitVec 32)
  | .xcopy c r d l b => some (0xD0#8 ++ c ++ r ++ d ++ l ++ b ++ 0x0#3 : BitVec 32)
  | .xgather c r l b => some (0xD1#8 ++ c ++ r ++ 0x0#1 ++ l ++ b ++ 0x0#3 : BitVec 32)
  | .xscatter c r l b => some (0xD2#8 ++ c ++ r ++ 0x0#1 ++ l ++ b ++ 0x0#3 : BitVec 32)
  | .xfill c r l b => some (0xD3#8 ++ c ++ r ++ 0x0#1 ++ l ++ b ++ 0x0#3 : BitVec 32)
  | .xstat d s i => some (0xD4#8 ++ d ++ s ++ i ++ 0x0#8 : BitVec 32)
  | .coll o b t h r y s => some (0xD5#8 ++ o ++ b ++ t ++ h ++ r ++ y ++ s : BitVec 32)
  | .commq d a s => some (0xD6#8 ++ d ++ a ++ s ++ 0x0#4 : BitVec 32)
  | .mstart a b => some (0xD700#16 ++ a ++ b : BitVec 32)
  | .tdesc t a => some (0xD8#8 ++ t ++ 0x0#4 ++ a ++ 0x0#8 : BitVec 32)
  | .mldw w f => some (0xE0#8 ++ w ++ f ++ 0x0#16 : BitVec 32)
  | .mswap => some (0xE1000000#32 : BitVec 32)
  | .mmaM32 a c f t z m n => some (0xE2#8 ++ a ++ c ++ f ++ t ++ z ++ m ++ n ++ 0x0#3 : BitVec 32)
  | .mmaM64 a c f t z m n => some (0xE3#8 ++ a ++ c ++ f ++ t ++ z ++ m ++ n ++ 0x0#3 : BitVec 32)
  | .mmaM128 a c f t z m n => some (0xE4#8 ++ a ++ c ++ f ++ t ++ z ++ m ++ n ++ 0x0#3 : BitVec 32)
  | .mmaM256 a c f t z m n => some (0xE5#8 ++ a ++ c ++ f ++ t ++ z ++ m ++ n ++ 0x0#3 : BitVec 32)
  | .mzero t => some (0xE6#8 ++ t ++ 0x0#20 : BitVec 32)
  | .mdrain d c f s z m n => some (0xE7#8 ++ d ++ c ++ f ++ s ++ z ++ m ++ n ++ 0x0#3 : BitVec 32)
  | .marrive b => some (0xE8#8 ++ b ++ 0x0#20 : BitVec 32)
  | .mwait b q m p => some (0xE9#8 ++ b ++ q ++ m ++ p ++ 0x0#15 : BitVec 32)
  | .msett t m => some (0xEA#8 ++ t ++ m ++ 0x0#17 : BitVec 32)
  | .maddi m s i => some (0xEB#8 ++ m ++ s ++ 0x0#4 ++ i : BitVec 32)
  | .mloop m o => some (0xEC#8 ++ m ++ 0x0#5 ++ o : BitVec 32)
  | .mend => some (0xED000000#32 : BitVec 32)
  | .mguard g n => some (0xEE#8 ++ g ++ n ++ 0x0#20 : BitVec 32)
  | .tget d a => some (0xF0#8 ++ d ++ a ++ 0x0#8 : BitVec 32)
  | .tset d a => some (0xF1#8 ++ d ++ a ++ 0x0#8 : BitVec 32)
  | .tstamp d => some (0xF2#8 ++ d ++ 0x0#16 : BitVec 32)
  | .tchk a m => some (0xF3#8 ++ a ++ 0x0#10 ++ m : BitVec 32)
  | .tcap d a w => some (0xF4#8 ++ d ++ a ++ w ++ 0x0#4 : BitVec 32)
  | .trule c => some (0x1EA00000#29 ++ c : BitVec 32)
  | .lstat d m => some (0xF6#8 ++ d ++ m ++ 0x0#8 : BitVec 32)
  | .lstatMask m => some (0xF600#16 ++ m ++ 0x40#8 : BitVec 32)
  | .powerGood => none
  | .bringupRestart => none
  | .enableWrite => none
  | .registerWrite => none
  | .tailWrite => none
  | .createContext => none
  | .destroyContext => none
  | .createRing => none
  | .createComm => none
  | .invalidate => none
  | .checkpoint => none
  | .resetContext => none
  | .resetRing => none
  | .resetDumpArea => none
  | .resetTraceRing => none
  | .admitContract => none
  | .readCounters => none
  | .definePartition => none
  | .updateContext => none
  | .writeWatchpoint => none
  | .releaseRing => none
  | .releaseComm => none
  | .releaseContract => none
  | .restore => none
  | .getVersion => none
  | .getCapabilities => none
  | .negotiateAlgorithms => none
  | .getCertificate => none
  | .challenge => none
  | .getMeasurements => none
  | .hostWrite => none
  | .hostRead => none
  | .atsInvalidation => none
  | .atsTranslationReply => none
  | .priResponse => none
  | .ringLaunch => none
  | .ringNode => none
  | .ringWait => none
  | .ringSignal => none
  | .ringFence => none
  | .ringMapping => none
  | .teamDispatch => none
  | .dispatchStarvation => none
  | .gridRuleSave => none
  | .launchCompletion => none
  | .contractRelease => none
  | .contractOverrun => none
  | .preemptionRequest => none
  | .drainDeadline => none
  | .save => none
  | .teamRestore => none
  | .loadReply => none
  | .storeAcknowledgement => none
  | .transformPipeReply => none
  | .walkCompletion => none
  | .faultService => none
  | .monitorRecheck => none
  | .nodeCommit => none
  | .nodeRollback => none
  | .regulatorWindow => none
  | .florixRemoteRequest => none
  | .fabricTimeout => none
  | .florixPortFailure => none
  | .sramUncorr => none
  | .unitFencing => none
  | .contextFault => none
  | .streamFaultDelivery => none
  | .commandToEngine => none
  | .chunkDelivery => none
  | .heldArrival => none
  | .engineStalemate => none
  | .arbiterGrant => none
  | .mldwCompletion => none
  | .mswapExchange => none
  | .passCompletion => none
  | .mzeroCompletion => none
  | .drainCompletion => none
  | .signatureReceipt => none
  | .chunkStep => none
  | .chunkCredit => none
  | .collAbort => none
  | .sequencerTimeout => none
  | .splitStalemate => none
  | .regroupMigration => none
  | .syncPeriodic => none
  | .branchFlush => none
  | .reservedOpcode w => some w
  | .mailboxUnknownCommand => none
  | .nvmeCompletion => none
  | .florixPortUp => none
  | .onPackageLinkFailure => none
  | .healthCorrWindow => none

end Sys2Proof
end

