-- ==== Sys2Proof/Word.lean ====
section
/-! DEFINITION. The word types of the SQN-192 (R9, R13, R30): what the manual treats as bits is a bit vector of
its own width, and everything multi-byte is little-endian. -/

namespace Sys2Proof

/-- A byte of memory. -/
abbrev Byte := BitVec 8
/-- A 32-bit register word or instruction word (R50, R172). -/
abbrev Word := BitVec 32
/-- A 16-bit origin tag (R30). -/
abbrev Tag := BitVec 16
/-- A 64-bit virtual or physical address, or a mask over at most 64 lanes. -/
abbrev DWord := BitVec 64
/-- A 32-bit word with its tag, as every register and every memory word holds it (R5). -/
abbrev Cell := Word × Tag

/-- UNMARKED (R30). -/
abbrev unmarked : Tag := 0x0000#16
/-- POISON (R32). -/
abbrev poison : Tag := 0xFF00#16
/-- MIXED (R32). -/
abbrev mixed : Tag := 0xFF01#16
/-- ZEROINIT (R32). -/
abbrev zeroInit : Tag := 0xFF02#16
/-- HOST (R32). -/
abbrev hostTag : Tag := 0xFF03#16
/-- FILL (R32). -/
abbrev fillTag : Tag := 0xFF04#16
/-- LOST (R32). -/
abbrev lostTag : Tag := 0xFF05#16
/-- PAD (R32). -/
abbrev padTag : Tag := 0xFF06#16

end Sys2Proof
end

