-- ==== Sys2Proof/Machine/Bits.lean ====
section
/-! DEFINITION. Finite maps in one canonical form, lane masks, bytes and little-endian words. A map is a list of
keys and values with keys strictly rising and no entry equal to what an unlisted key reads as, so that equal
maps are equal lists. -/

namespace Sys2Proof.Machine

/-- What key k reads as; d is what an unlisted key reads as. -/
def mapGet {α : Type} (d : α) : List (Nat × α) → Nat → α
  | [], _ => d
  | (j, v) :: m, k => if j = k then v else mapGet d m k

/-- The map with key k removed. -/
def mapDel {α : Type} : List (Nat × α) → Nat → List (Nat × α)
  | [], _ => []
  | (j, v) :: m, k => if j = k then mapDel m k else (j, v) :: mapDel m k

/-- The map with key k listed with value v, in rising order. -/
def mapPut {α : Type} : List (Nat × α) → Nat → α → List (Nat × α)
  | [], k, v => [(k, v)]
  | (j, w) :: m, k, v =>
    if k < j then (k, v) :: (j, w) :: m
    else if j = k then (k, v) :: m
    else (j, w) :: mapPut m k v

/-- The map after key k takes value v: writing what an unlisted key reads as removes the entry. -/
def mapSet {α : Type} [DecidableEq α] (d : α) (m : List (Nat × α)) (k : Nat) (v : α) : List (Nat × α) :=
  if v = d then mapDel m k else mapPut m k v

/-- The canonical form. -/
def mapWf {α : Type} [DecidableEq α] (d : α) : List (Nat × α) → Bool
  | [] => true
  | [(_, v)] => v ≠ d
  | (j, v) :: (k, w) :: m => v ≠ d && j < k && mapWf d ((k, w) :: m)

/-- Several writes, in order. -/
def mapSetMany {α : Type} [DecidableEq α] (d : α) (m : List (Nat × α)) : List (Nat × α) → List (Nat × α)
  | [] => m
  | (k, v) :: ws => mapSetMany d (mapSet d m k v) ws

/-- Updating every entry of a list that a test selects. -/
def updBy {α : Type} (p : α → Bool) (f : α → α) : List α → List α
  | [] => []
  | x :: xs => (if p x then f x else x) :: updBy p f xs

/-- Numbers 0 to n − 1, ascending. -/
def upTo : Nat → List Nat
  | 0 => []
  | n + 1 => upTo n ++ [n]

/-- Insertion of x into an ascending list by a key. -/
def insertBy {α : Type} (key : α → Nat) (x : α) : List α → List α
  | [] => [x]
  | y :: ys => if key x < key y then x :: y :: ys else y :: insertBy key x ys

/-- The list in ascending order of a key, equal keys in their order. -/
def sortBy {α : Type} (key : α → Nat) : List α → List α
  | [] => []
  | x :: xs =>
    let r := sortBy key xs
    match r with
    | [] => [x]
    | y :: ys => if key x ≤ key y then x :: y :: ys else y :: insertBefore key x ys
where
  /-- Insertion ahead of equal keys. -/
  insertBefore {α : Type} (key : α → Nat) (x : α) : List α → List α
    | [] => [x]
    | y :: ys => if key x ≤ key y then x :: y :: ys else y :: insertBefore key x ys

/-- The element of least key, the earliest of equals. -/
def leastBy {α : Type} (key : α → Nat) : List α → Option α
  | [] => none
  | x :: xs =>
    match leastBy key xs with
    | none => some x
    | some y => if key x ≤ key y then some x else some y

/-- The lanes of a mask below w, ascending. -/
def lanesOf (w : Nat) (m : DWord) : List Nat := (upTo w).filter fun i => m.getLsbD i

/-- The mask of a list of lanes. -/
def maskOf (ls : List Nat) : DWord := ls.foldl (fun m i => m ||| (1#64 <<< i)) 0#64

/-- Every lane of a group of width w. -/
def fullMask (w : Nat) : DWord := maskOf (upTo w)

/-- The lowest lane of a mask. -/
def lowLane (m : DWord) : Option Nat := (upTo 64).find? fun i => m.getLsbD i

/-- The number of lanes of a mask. -/
def laneCount (m : DWord) : Nat := (lanesOf 64 m).length

/-- Bits hi to lo of a word, as a number. -/
def bits (w hi lo : Nat) : Nat := (w >>> lo) % 2 ^ (hi + 1 - lo)

/-- Byte k of a number, little-endian (R9). -/
def byteAt (n k : Nat) : Byte := BitVec.ofNat 8 (n >>> (8 * k))

/-- The n low bytes of a number, lowest first (R9). -/
def bytesOf (n v : Nat) : List Byte := (upTo n).map (byteAt v)

/-- The number whose little-endian bytes are the list (R9). -/
def numOf : List Byte → Nat
  | [] => 0
  | b :: bs => b.toNat + 256 * numOf bs

/-- A list cut into runs of n elements, over at most fuel runs. -/
def chunksOf {α : Type} (n : Nat) : Nat → List α → List (List α)
  | 0, _ => []
  | _ + 1, [] => []
  | fuel + 1, x :: xs => (x :: xs).take n :: chunksOf n fuel ((x :: xs).drop n)

/-- Sign extension of the low w bits of n. -/
def signed (w n : Nat) : Int :=
  if (n % 2 ^ w) < 2 ^ (w - 1) then (n % 2 ^ w : Int) else (n % 2 ^ w : Int) - 2 ^ w

/-- The high and low words of a 64-bit value, put together. -/
def pair64 (hi lo : Word) : DWord := hi ++ lo

/-- The low word of a 64-bit value. -/
def loWord (v : DWord) : Word := v.extractLsb' 0 32

/-- The high word of a 64-bit value. -/
def hiWord (v : DWord) : Word := v.extractLsb' 32 32

/-- One bit as a Bool. -/
def flag (b : BitVec 1) : Bool := b = 1#1

/-- The lowest position below n at which a test holds. -/
def firstIdx (n : Nat) (p : Nat → Bool) : Option Nat := (upTo n).find? p

/-- A list with element k replaced. -/
def setAt {α : Type} (l : List α) (k : Nat) (v : α) : List α := l.set k v

end Sys2Proof.Machine
end

