-- ==== Sys2Proof/Machine/Num.lean ====
section
/-! DEFINITION. The number formats of spec/01_number_formats.md: decoding, exact values, the one rounding of R18
and R20, overflow by R16, NaN results by R15, CRC-32C (R27) and the scale choice of MX blocks (R22). -/

namespace Sys2Proof.Machine

/-- The floating-point formats of R14. -/
inductive Fmt where
  | fp64 | fp32 | fp16 | bf16 | e5m2 | e4m3 | e2m1
  deriving DecidableEq, Repr

/-- Exponent bits (R14). -/
def Fmt.exp : Fmt → Nat
  | .fp64 => 11 | .fp32 => 8 | .fp16 => 5 | .bf16 => 8 | .e5m2 => 5 | .e4m3 => 4 | .e2m1 => 2

/-- Mantissa bits (R14). -/
def Fmt.mant : Fmt → Nat
  | .fp64 => 52 | .fp32 => 23 | .fp16 => 10 | .bf16 => 7 | .e5m2 => 2 | .e4m3 => 3 | .e2m1 => 1

/-- Exponent bias (R14). -/
def Fmt.bias : Fmt → Nat
  | .fp64 => 1023 | .fp32 => 127 | .fp16 => 15 | .bf16 => 127 | .e5m2 => 15 | .e4m3 => 7 | .e2m1 => 1

/-- Whether the format has infinities (R14). -/
def Fmt.hasInf : Fmt → Bool
  | .e4m3 => false | .e2m1 => false | _ => true

/-- Bits in all. -/
def Fmt.bits (f : Fmt) : Nat := 1 + f.exp + f.mant

/-- The magnitude code of the largest finite value (R14). -/
def Fmt.maxCode (f : Fmt) : Nat :=
  match f with
  | .e4m3 => 0x7E
  | .e2m1 => 0x7
  | _ => (2 ^ f.exp - 1) * 2 ^ f.mant - 1

/-- The magnitude code of infinity, in a format that has one. -/
def Fmt.infCode (f : Fmt) : Nat := (2 ^ f.exp - 1) * 2 ^ f.mant

/-- The code with sign s and magnitude code c. -/
def Fmt.withSign (f : Fmt) (s : Bool) (c : Nat) : Nat := (if s then 2 ^ (f.exp + f.mant) else 0) + c

/-- A value as the device reads it. A NaN keeps its mantissa, aligned to 52 bits with the quiet bit at 51; sig
says it is signalling. A finite value is m × 2^e, or, when more is set, lies strictly between m × 2^e and
(m + 1) × 2^e. -/
inductive FVal where
  | nan (s : Bool) (sig : Bool) (payload : Nat)
  | inf (s : Bool)
  | fin (s : Bool) (m : Nat) (e : Int) (more : Bool)
  deriving DecidableEq, Repr

/-- Positive zero. -/
def fzero : FVal := .fin false 0 0 false

/-- The default NaN (R15). -/
def defaultNaN : FVal := .nan false false (2 ^ 51)

/-- The value of a code (R14). -/
def decodeFp (f : Fmt) (code : Nat) : FVal :=
  let s := code / 2 ^ (f.exp + f.mant) % 2 = 1
  let ef := code / 2 ^ f.mant % 2 ^ f.exp
  let mf := code % 2 ^ f.mant
  let top := ef = 2 ^ f.exp - 1
  if f.hasInf && top then
    if mf = 0 then .inf s
    else .nan s (mf / 2 ^ (f.mant - 1) = 0) (mf * 2 ^ (52 - f.mant))
  else if f = .e4m3 && top && mf = 7 then .nan s false (2 ^ 51)
  else if ef = 0 then .fin s mf (1 - f.bias - f.mant) false
  else .fin s (2 ^ f.mant + mf) (ef - f.bias - f.mant) false

/-- The code of a NaN result in a format: quiet, with its sign and the top bits of its payload (R15). -/
def nanCode (f : Fmt) (s : Bool) (payload : Nat) : Nat :=
  match f with
  | .e4m3 => f.withSign s 0x7F
  | .e2m1 => 0
  | _ => f.withSign s (f.infCode + (payload % 2 ^ 51 + 2 ^ 51) / 2 ^ (52 - f.mant))

/-- The rounding modes of R18. -/
inductive Rnd where
  | rne | rtz | rdn | rup | rna | sr | ef
  deriving DecidableEq, Repr

/-- The rounding mode of a MOD RND code; 000 takes the instruction's own mode (R62). -/
def rndOf (code : Nat) (own : Rnd) : Rnd :=
  match code with
  | 1 => .rtz | 2 => .rdn | 3 => .rup | 4 => .rna | 5 => .sr | 6 => .ef | _ => own

/-- m ÷ 2^k rounded to an integer in a mode, and whether it was inexact (R18, R20). -/
def roundShift (r : Rnd) (s : Bool) (m k : Nat) (more : Bool) (draw : Nat) : Nat × Bool :=
  let q := m >>> k
  let rem := m % 2 ^ k
  let inexact := rem ≠ 0 || more
  let up :=
    match r with
    | .rne | .ef => 2 * rem > 2 ^ k || (2 * rem = 2 ^ k && k ≠ 0 && (more || q % 2 = 1))
    | .rna => k ≠ 0 && 2 * rem ≥ 2 ^ k
    | .rtz => false
    | .rup => inexact && !s
    | .rdn => inexact && s
    | .sr => rem * 2 ^ 32 / 2 ^ k + draw ≥ 2 ^ 32
  (if up then q + 1 else q, inexact)

/-- What one rounding gives: the code, whether a finite exact value was replaced by ±∞ or ±max (R192), whether
the replacement is a saturation (R16), and whether an exact result below the smallest normal is inexact (R192; that
the exact result is meant is log entry 14). -/
structure Rounded where
  code : Nat
  ovr : Bool
  satur : Bool
  under : Bool
  deriving DecidableEq, Repr

/-- The magnitude code a finite overflow takes, and whether that is a saturation (R16). -/
def overflowCode (f : Fmt) (r : Rnd) (s sat : Bool) : Nat × Bool :=
  if sat then (f.maxCode, true)
  else if f.hasInf = false then (f.maxCode, f = .e4m3)
  else
    match r with
    | .rtz => (f.maxCode, false)
    | .rdn => (if s then f.infCode else f.maxCode, false)
    | .rup => (if s then f.maxCode else f.infCode, false)
    | _ => (f.infCode, false)

/-- The exponent of the leading bit of m × 2^e, m nonzero. -/
def leadExp (m : Nat) (e : Int) : Int := e + Nat.log2 m

/-- Rounding an exact finite value to a format (R16, R18, R20). -/
def roundFin (f : Fmt) (r : Rnd) (sat : Bool) (s : Bool) (m : Nat) (e : Int) (more : Bool) (draw : Nat) :
    Rounded :=
  let qmin : Int := 1 - f.bias - f.mant
  let q : Int := if m = 0 then qmin else max (leadExp m e - f.mant) qmin
  let k := q - e
  let (mm, inexact) :=
    if k ≤ 0 then (m * 2 ^ (-k).toNat, more) else roundShift r s m k.toNat more draw
  let code := (q - qmin).toNat * 2 ^ f.mant + mm
  if code > f.maxCode then
    let (c, st) := overflowCode f r s sat
    ⟨f.withSign s c, true, st, false⟩
  else ⟨f.withSign s code, false, false, inexact && (m = 0 || leadExp m e < 1 - (f.bias : Int))⟩

/-- Rounding any value to a format: NaNs by R15, infinities by R16. An infinity replaced under SAT is a
saturation but no finite overflow. -/
def roundTo (f : Fmt) (r : Rnd) (sat : Bool) (v : FVal) (draw : Nat) : Rounded :=
  match v with
  | .nan s _ p => ⟨nanCode f s p, false, false, false⟩
  | .inf s =>
    if sat then ⟨f.withSign s f.maxCode, false, true, false⟩
    else if f = .e4m3 then ⟨f.withSign s 0x7F, false, false, false⟩
    else if f.hasInf then ⟨f.withSign s f.infCode, false, false, false⟩
    else ⟨f.withSign s f.maxCode, false, false, false⟩
  | .fin s m e more => roundFin f r sat s m e more draw

/-- Whether a value is a NaN. -/
def FVal.isNaN : FVal → Bool
  | .nan .. => true | _ => false
/-- Whether a value is a signalling NaN. -/
def FVal.isSig : FVal → Bool
  | .nan _ g _ => g | _ => false
/-- Whether a value is an infinity. -/
def FVal.isInf : FVal → Bool
  | .inf _ => true | _ => false
/-- Whether a value is finite. -/
def FVal.isFin : FVal → Bool
  | .fin .. => true | _ => false
/-- Whether a value is a zero. -/
def FVal.isZero : FVal → Bool
  | .fin _ 0 _ false => true | _ => false
/-- The sign of a value. -/
def FVal.sign : FVal → Bool
  | .nan s _ _ => s | .inf s => s | .fin s _ _ _ => s
/-- A value with another sign. -/
def FVal.setSign (v : FVal) (t : Bool) : FVal :=
  match v with
  | .nan _ g p => .nan t g p | .inf _ => .inf t | .fin _ m e r => .fin t m e r
/-- Negation acts on the sign bit alone (R64). -/
def FVal.neg (v : FVal) : FVal := v.setSign (!v.sign)
/-- A NaN made quiet (R15). -/
def FVal.quiet : FVal → FVal
  | .nan s _ p => .nan s false (p % 2 ^ 51 + 2 ^ 51) | v => v
/-- A value × 2^k, exactly. -/
def FVal.scale (v : FVal) (k : Int) : FVal :=
  match v with
  | .fin s m e r => .fin s m (e + k) r | v => v
/-- The first NaN of a list, quieted, or a default. -/
def firstNaN (vs : List FVal) (d : FVal) : FVal :=
  match vs.find? FVal.isNaN with
  | some v => v.quiet
  | none => d

/-- The signed integer m × 2^(e − e0) of a finite value, for e0 ≤ e. -/
def fixedAt (e0 : Int) (v : FVal) : Int :=
  match v with
  | .fin s m e _ => (if s then -1 else 1) * ((m * 2 ^ (e - e0).toNat : Nat) : Int)
  | _ => 0

/-- The exponent of a finite value; a zero takes a given one. -/
def expOf (d : Int) : FVal → Int
  | .fin _ 0 _ _ => d | .fin _ _ e _ => e | _ => d

/-- The value of a fixed-point integer z × 2^e0; zeroSign is the sign a zero takes. -/
def ofFixed (z : Int) (e0 : Int) (zeroSign : Bool) : FVal :=
  if z = 0 then .fin zeroSign 0 e0 false else .fin (z < 0) z.natAbs e0 false

/-- An exact sum (R191): zeros of the same sign keep it, any other exact zero is +0, or −0 under RDN. -/
def fadd (r : Rnd) (x y : FVal) : FVal :=
  match x, y with
  | .nan .., _ | _, .nan .. => firstNaN [x, y] defaultNaN
  | .inf s, .inf t => if s = t then .inf s else defaultNaN
  | .inf s, _ => .inf s
  | _, .inf t => .inf t
  | .fin s _ _ _, .fin t _ _ _ =>
    let e0 := min (expOf (expOf 0 y) x) (expOf (expOf 0 x) y)
    ofFixed (fixedAt e0 x + fixedAt e0 y) e0 (if s = t then s else r = .rdn)

/-- An exact product (R191). -/
def fmul (x y : FVal) : FVal :=
  match x, y with
  | .nan .., _ | _, .nan .. => firstNaN [x, y] defaultNaN
  | .inf s, .inf t => .inf (s != t)
  | .inf s, .fin t m _ _ => if m = 0 then defaultNaN else .inf (s != t)
  | .fin s m _ _, .inf t => if m = 0 then defaultNaN else .inf (s != t)
  | .fin s m e _, .fin t n f _ => .fin (s != t) (m * n) (e + f) false

/-- An exact a × b + c: the first NaN input in a, b, c order, else the default NaN (R15). -/
def ffma (r : Rnd) (a b c : FVal) : FVal :=
  if a.isNaN || b.isNaN || c.isNaN then firstNaN [a, b, c] defaultNaN else fadd r (fmul a b) c

/-- A quotient to 2^−200 relative, with what is left below as more (R191, R214). -/
def fdiv (x y : FVal) : FVal :=
  match x, y with
  | .nan .., _ | _, .nan .. => firstNaN [x, y] defaultNaN
  | .inf _, .inf _ => defaultNaN
  | .inf s, .fin t _ _ _ => .inf (s != t)
  | .fin s _ _ _, .inf t => .fin (s != t) 0 0 false
  | .fin s m e _, .fin t n f _ =>
    if n = 0 then (if m = 0 then defaultNaN else .inf (s != t))
    else .fin (s != t) (m * 2 ^ 200 / n) (e - f - 200) (m * 2 ^ 200 % n ≠ 0)

/-- The integer square root of n, by one bit at a time over fuel bits. -/
def isqrt (n : Nat) : Nat → Nat → Nat
  | 0, acc => acc
  | b + 1, acc => if (acc + 2 ^ b) * (acc + 2 ^ b) ≤ n then isqrt n b (acc + 2 ^ b) else isqrt n b acc

/-- A square root with what is left below as more (R214). A zero keeps its sign; a negative value gives the
default NaN. -/
def fsqrt (x : FVal) : FVal :=
  match x with
  | .nan .. => x.quiet
  | .inf s => if s then defaultNaN else .inf false
  | .fin s m e _ =>
    if m = 0 then .fin s 0 0 false
    else if s then defaultNaN
    else
      let odd := e % 2 ≠ 0
      let m2 := (if odd then 2 * m else m) * 2 ^ 200
      let e2 := (if odd then e - 1 else e) / 2 - 100
      let q := isqrt m2 (Nat.log2 m2 / 2 + 1) 0
      .fin false q e2 (q * q ≠ m2)

/-- The order of two values that are not NaN: zeros are equal. -/
def fcmp (x y : FVal) : Ordering :=
  match x, y with
  | .inf s, .inf t => if s = t then .eq else if s then .lt else .gt
  | .inf s, _ => if s then .lt else .gt
  | _, .inf t => if t then .gt else .lt
  | _, _ =>
    let e0 := min (expOf (expOf 0 y) x) (expOf (expOf 0 x) y)
    compare (fixedAt e0 x) (fixedAt e0 y)

/-- The value rounded to an integral value in a mode, as a signed integer (R18, R29). -/
def toIntegral (r : Rnd) (v : FVal) (draw : Nat) : Int :=
  match v with
  | .fin s m e more =>
    let n := if 0 ≤ e then m * 2 ^ e.toNat else (roundShift r s m (-e).toNat more draw).1
    if s then -(n : Int) else n
  | _ => 0

/-- The largest integer not above a finite value. -/
def ffloor (v : FVal) : Int :=
  match v with
  | .fin s m e more =>
    if 0 ≤ e then (if s then -((m * 2 ^ e.toNat : Nat) : Int) else ((m * 2 ^ e.toNat : Nat) : Int))
    else (let n := (roundShift .rdn s m (-e).toNat more 0).1; if s then -(n : Int) else n)
  | _ => 0

/-- The value of an integer. -/
def ofInt (z : Int) : FVal := .fin (z < 0) z.natAbs 0 false

/-- Whether a code of a format is subnormal and nonzero. -/
def isSubnormal (f : Fmt) (code : Nat) : Bool :=
  code / 2 ^ f.mant % 2 ^ f.exp = 0 && code % 2 ^ f.mant ≠ 0

/-- The formats whose subnormals FTZ flushes (R17). -/
def ftzFmt (f : Fmt) : Bool := f = .fp32 || f = .fp16 || f = .bf16

/-- A source code as an arithmetic instruction reads it: under FTZ a subnormal reads as zero of its sign (R17). -/
def readFp (f : Fmt) (ftz : Bool) (code : Nat) : FVal :=
  let v := decodeFp f code
  if ftz && ftzFmt f && isSubnormal f code then .fin v.sign 0 0 false else v

/-- What an instruction does to a value under its MOD prefix (R62, R64). -/
structure FpMod where
  sat : Bool
  clamp : Bool
  nega : Bool
  negb : Bool
  absa : Bool
  absb : Bool
  scale : Int
  rnd : Rnd
  ftz : Bool
  deriving DecidableEq, Repr

/-- The sticky events of R395, bits 0 to 4. -/
structure Events where
  inv : Bool := false
  dz : Bool := false
  ovf : Bool := false
  unf : Bool := false
  isat : Bool := false
  deriving DecidableEq, Repr

/-- Either's events. -/
def Events.or (a b : Events) : Events :=
  ⟨a.inv || b.inv, a.dz || b.dz, a.ovf || b.ovf, a.unf || b.unf, a.isat || b.isat⟩

/-- The births of R35 that arithmetic and conversions give. -/
structure Births where
  nanf : Bool := false
  inff : Bool := false
  nsat : Bool := false
  iinv : Bool := false
  bsat : Bool := false
  deriving DecidableEq, Repr

/-- Either's births. -/
def Births.or (a b : Births) : Births :=
  ⟨a.nanf || b.nanf, a.inff || b.inff, a.nsat || b.nsat, a.iinv || b.iinv, a.bsat || b.bsat⟩

/-- A finished result: its code, events and births. -/
structure FpOut where
  code : Nat
  ev : Events
  born : Births
  deriving DecidableEq, Repr

/-- Operand a after ABSA and NEGA (R64). -/
def modA (md : FpMod) (x : FVal) : FVal :=
  let x := if md.absa then x.setSign false else x
  if md.nega then x.neg else x

/-- Operand b after ABSB and NEGB (R64). -/
def modB (md : FpMod) (y : FVal) : FVal :=
  let y := if md.absb then y.setSign false else y
  if md.negb then y.neg else y

/-- CLAMP (R64): a NaN, −0 and every negative value give +0, a value above 1 gives 1.0. -/
def clamp01 (f : Fmt) (code : Nat) : Nat :=
  let one := f.bias * 2 ^ f.mant
  match decodeFp f code with
  | .nan .. => 0
  | .inf s => if s then 0 else one
  | .fin s .. => if s then 0 else if code > one then one else code

/-- The common end of R64 after the exact operation: scale, one rounding, FTZ (R17), then CLAMP or SAT, with the
events of R192 and the births of R35 judged on the final value. The inputs decide births; narrow says whether
the result is narrowed, in which case a saturation is an NSAT birth (R16). SAT of an infinity is no overflow event, since
the exact result was not finite (R192; log entry 14). -/
def finishFp (f : Fmt) (md : FpMod) (narrow flush : Bool) (ins : List FVal) (e : FVal) (draw : Nat) : FpOut :=
  let e := e.scale md.scale
  let r := roundTo f md.rnd (md.sat && !md.clamp) e draw
  let flushed := flush && ftzFmt f && isSubnormal f r.code
  let c1 := if flushed then f.withSign e.sign 0 else r.code
  let v1 := decodeFp f c1
  let c2 := if md.clamp then clamp01 f c1 else c1
  let v2 := decodeFp f c2
  let anyNaN := ins.any FVal.isNaN
  { code := c2
    ev := { inv := ins.any FVal.isSig || (v1.isNaN && !anyNaN) || (md.clamp && v1.isNaN)
            ovf := r.ovr
            unf := r.under || flushed }
    born := { nanf := v2.isNaN && !anyNaN
              inff := v2.isInf && ins.all FVal.isFin
              nsat := narrow && r.satur && !md.clamp } }

/-- The reflected polynomial step of CRC-32C on one bit (R27). -/
def crcBit (c : Nat) : Nat := if c % 2 = 1 then (c / 2).xor 0x82F63B78 else c / 2

/-- CRC-32C state after one byte. -/
def crcByte (c : Nat) (b : Byte) : Nat :=
  let c := c.xor b.toNat
  crcBit (crcBit (crcBit (crcBit (crcBit (crcBit (crcBit (crcBit c)))))))

/-- CRC-32C of bytes in ascending address order (R27). -/
def crc32c (bs : List Byte) : Nat := (bs.foldl crcByte 0xFFFFFFFF).xor 0xFFFFFFFF

/-- One step of the dice generator (R19). -/
def diceStep (x : Word) : Word :=
  let x := x ^^^ (x <<< 13)
  let x := x ^^^ (x >>> 17)
  x ^^^ (x <<< 5)

/-- The seed of a dice generator for a lane index (R19). -/
def diceSeed (seed : Word) (lane : Nat) : Word :=
  let x := seed ^^^ (BitVec.ofNat 32 (lane * 0x9E3779B1))
  if x = 0#32 then 1#32 else x

end Sys2Proof.Machine
end

