-- ==== Sys2Proof/Config.lean ====
section
/-! DEFINITION. What an implementation fixes and the free values the manual leaves open (log entry 2): opaque
constants without a body, applied to operands or to the counter the state advances, so that no proof can see
what they are. -/

namespace Sys2Proof.Config

/-- A choice among alternatives that the manual leaves undefined: lane order of conflicting accesses (R93, R163,
R166), victims of L1, L2 and translation caches (R88, R112, R155), a placement or route. -/
opaque choice : Nat → Nat

/-- The value of a core's cycle counter (R74), by core and by the model's clock. -/
opaque cycle : Nat → Nat → BitVec 64

/-- The index of the overflow-pool vector a line takes (R42). -/
opaque vindex : Nat → Nat

/-- The error of an approximate function's last bits, within the bound of R212: by function and operand. -/
opaque ulpError : Nat → Nat → Int

/-- Whether a public key's RSA-3072 signature over a SHA-256 digest holds (R448); the padding is the implementation's. -/
opaque rsaSigned : List Byte → BitVec 256 → Nat → Bool

/-- A field of an SPDM answer whose content the manual leaves to the standard (R460). -/
opaque spdmAnswer : Nat → Nat

/-- A tick count of the launch time record (R443), by field and clock. -/
opaque ticks : Nat → Nat → Nat

/-- A word of another device's memory, by the counter and the address; its high bits are the word's tag. -/
opaque remoteWord : Nat → Nat → BitVec 64

/-- The words of section k of a team's image after its header (R362, R365), whose contents the manual does not lay out: by
the kernel header's GROUPS, WIDTH, REGS, SCALARS, SPLITS, SPILL, LS, AB, WB and CB. A section is below 1 MiB: no store or
register file of a core is larger. -/
opaque sectionWords : Nat → List Nat → BitVec 18

/-- A word of an image or dump that the manual does not lay out, by its identifier and place. -/
opaque imageWord : Nat → Nat → BitVec 32

/-- The identifier of the code object at a base address (R34, R415); the manual does not say what gives it. -/
opaque codeObject : BitVec 64 → BitVec 32

/-- The largest team image a partition may hold, in bytes (R355). -/
opaque smax : Nat → BitVec 32

/-- The credits of a virtual channel of a Florix port (R285). -/
opaque vcCredits : Nat

/-- Another open value, by the counter. -/
opaque freeValue : Nat → BitVec 64

end Sys2Proof.Config
end

