-- ==== Sys2Proof/Machine/State.lean ====
section
/-! DEFINITION. The state of the SQN-192 as plain data: the device and its host interface, memory and the base
dies, contexts, rings and launches, teams with their stores and engines, groups with their registers, splits, and
the model's own plain data that says which agent moves next. Every field names the rule that gives it. A field's
value at reset is the default written beside it. Where the spec states no reset value the default is the model's
choice (log entry 3). -/

namespace Sys2Proof.Machine

/-! ## Splits (R318 to R322) -/

/-- A deferral entry (R320): lanes, the PC they continue at, the rejoin mark, and whether they have arrived. -/
structure DefEntry where
  lanes : DWord := 0#64
  pc : DWord := 0#64
  mark : Nat := 0
  arr : Bool := false
  deriving DecidableEq, Repr

/-- The STATE field of a split entry (R319). -/
inductive SplitState where
  | ready | deferred | waiting | parked
  deriving DecidableEq, Repr

/-- What a PARKED split awaits (R322, R399). walk: a translation walk; fault: a fault record in service (R115);
engine: room in the team queue or a counter; bar, batch, counters: BARWAIT, WAITB, WAITN; monitor and recheck:
WAITC or LOCK on a monitor or re-read every 4,096 cycles (R101, R106); lock: a lock's FIFO; regroup: REGROUP;
grid: GRIDBAR; coll: COLL; trap: a held trap; ats: a host translation (R114). -/
inductive Park where
  | none | walk | fault | engine | bar | batch | counters | monitor | recheck | lock | regroup | grid | coll
  | trap | ats
  deriving DecidableEq, Repr

/-- A split entry (R319) with its whole deferral stack, top first (R320), its prefix latch (R66) and, when it is
PARKED, what it awaits and the state it returns to; granted says that what it awaited has been given to it (a
generation of the grid barrier), so that its word completes when it runs again; record is the layout record that another
device has returned for its copy instruction (R132); parkWord is the word that it was executing when a translation last held it up,
none where the word itself was not fetched (R401). The top four deferral entries are the in-entry stack; the
rest lie in the group's spill area. -/
structure Split where
  tid : Nat := 0
  gi : Nat := 0
  rank : Nat := 0
  id : BitVec 6 := 0#6
  pc : DWord := 0#64
  lset : DWord := 0#64
  amask : DWord := 0#64
  ba : DWord := 0#64
  br : Bool := false
  slices : BitVec 16 := 0#16
  st : SplitState := .ready
  prev : SplitState := .ready
  park : Park := .none
  parkKey : Nat := 0
  granted : Bool := false
  wm : Nat := 0
  stack : List DefEntry := []
  imm : Word := 0#32
  mod : Word := 0#32
  hint : Word := 0#32
  brBits : List Bool := []
  record : Option (List Cell) := none
  parkWord : Option Word := none
  deriving DecidableEq, Repr

/-! ## Groups (R172, R315, R321, R395 to R401) -/

/-- A trap cause waiting to be delivered, with the values the trap registers will take (R399 to R401); wordPc is the PC of its
word where %tpc is not (R411). -/
structure Trap where
  cause : BitVec 8 := 0#8
  pc : DWord := 0#64
  mask : DWord := 0#64
  info0 : Word := 0#32
  info1 : Word := 0#32
  info2 : Word := 0#32
  info3 : Word := 0#32
  escKind : Nat := 0
  wordPc : Option DWord := none
  deriving DecidableEq, Repr

/-- HS of a running handler (R400). -/
structure Handler where
  rank : Nat
  amask : DWord
  br : Bool
  ba : DWord
  imm : Word
  mod : Word
  hint : Word
  entryPc : DWord
  deriving DecidableEq, Repr

/-- A held trap and the rank of the split that holds it (R399). -/
structure HeldTrap where
  rank : Nat
  trap : Trap
  deriving DecidableEq, Repr

/-- The REGROUP participant states (R337). -/
inductive RegroupState where
  | running | arrived | migrating
  deriving DecidableEq, Repr

/-- A batch of a group's commands (R144): its number and its commands not yet complete. -/
structure Batch where
  num : Nat
  open_ : List Nat
  deriving DecidableEq, Repr

/-- Where a shadow group lies in its leader's scheduler (R426). -/
structure Place where
  slot : Nat
  pos : Nat
  entries : List Nat
  deriving DecidableEq, Repr

/-- A group with every register it owns (R172), what its scalars and its rule register held before the present cycle while
words of one cycle are carried out (R49, R68), its scheduler, group slot, first slice position and reserved split
entries (R316, R318), and the place of its shadow (R426). Register maps are keyed by register × 64 + lane and list only
cells that are not 0 tagged UNMARKED. -/
structure Group where
  tid : Nat := 0
  gi : Nat := 0
  vregs : List (Nat × Cell) := []
  sregs : List (Nat × Cell) := []
  sold : Option (List (Nat × Cell)) := none
  preds : List (Nat × DWord) := []
  dice : List (Nat × Word) := []
  orig : List (Nat × Word) := []
  lstat : List (Nat × Word) := []
  rule : BitVec 3 := 0#3
  ruleOld : Option (BitVec 3) := none
  rmask : BitVec 8 := 0#8
  tcause : Word := 0#32
  tpc : DWord := 0#64
  tmask : DWord := 0#64
  tinfo0 : Word := 0#32
  tinfo1 : Word := 0#32
  tinfo2 : Word := 0#32
  tinfo3 : Word := 0#32
  hs : Option Handler := none
  held : List HeldTrap := []
  joins : List (List Nat) := List.replicate 16 []
  loads : Nat := 0
  stores : Nat := 0
  copies : Nat := 0
  typed : Nat := 0
  regroup : RegroupState := .running
  bc : Nat := 0
  pending : List Nat := []
  batches : List Batch := []
  batchFail : Bool := false
  collOrd : Nat := 0
  gridArrived : Bool := false
  exited : Bool := false
  scheduler : Nat := 0
  slot : Nat := 0
  pos : Nat := 0
  entries : List Nat := []
  twin : Option Place := none
  packets : Nat := 0
  syncDue : Option Nat := none
  deriving DecidableEq, Repr

/-! ## Teams and their units -/

/-- A guard slot (R145). -/
inductive Guard where
  | unresolved | true_ | false_
  deriving DecidableEq, Repr

/-- A barrier register (R139). -/
structure Barrier where
  phase : Bool := false
  err : Bool := false
  lerr : Bool := false
  e : Bool := false
  ann : Bool := false
  exp : Nat := 0
  arr : Nat := 0
  bal : Int := 0
  deriving DecidableEq, Repr

/-- The kinds of engine command (R131). -/
inductive CmdKind where
  | copy | gather | scatter | fill
  deriving DecidableEq, Repr

/-- Bytes to be written at a destination address, each with the tags of the words that supply it (R130), and a birth's capture
tag or a fixed tag of them all. -/
structure Piece where
  addr : Int
  bytes : List Byte
  tags : List (List Tag)
  born : Option Tag := none
  fixed : Option Tag := none
  deriving DecidableEq, Repr

/-- A word that another device has returned to an engine or a sequencer for a chunk. -/
structure Heard where
  part : Nat
  dev : Nat
  pa : Nat
  cell : Cell
  deriving DecidableEq, Repr

/-- An engine command (R124 to R137): its sequence number, issuing group, direction, the record it read, the PC and
own tag of its instruction, its coordinates, index list and count (R134), fill pattern, barrier, guard, the bytes it
announces, its chunks and those delivered, the engine it is on and its place in the order in which commands came there, the
seed of its generator, the capture tags of its births, and whether a translation fault parks it. begun holds the chunks whose
requests are partly issued, with how many, out those whose requests have all issued, sent those whose writes to other devices
await their acknowledgements, heard what other devices have returned, and edge the bytes written so far in destination words
that other chunks supply too (R130, R136). -/
structure Cmd where
  csn : Nat := 0
  gi : Nat := 0
  kind : CmdKind := .copy
  store : Bool := false
  record : List Byte := []
  pc : DWord := 0#64
  coords : List Int := []
  idxBase : Nat := 0
  count : Nat := 1
  fill : Nat := 0
  bar : Nat := 0
  guard : Option Nat := none
  tag : Tag := 0#16
  total : Nat := 0
  chunks : Nat := 0
  done : List Nat := []
  onEngine : Option Nat := none
  seat : Nat := 0
  begun : List (Nat × Nat) := []
  out : List Nat := []
  sent : List Nat := []
  heard : List Heard := []
  edge : List Piece := []
  dice : Word := 1#32
  capNsat : Option Tag := none
  capBsat : Option Tag := none
  parked : Bool := false
  deriving DecidableEq, Repr

/-- An arrival held at the barrier logic (R146): its group and barrier, its guard, whether it arrives on a FALSE guard
too (ARRIVEX), its bytes and whether it sets ANN. -/
structure HeldArrival where
  gi : Nat
  bar : Nat
  guard : Option Nat
  always : Bool
  bytes : Nat
  ann : Bool
  deriving DecidableEq, Repr

/-- The sequencer states of R245. -/
inductive SeqState where
  | idle | running | parked | faulted
  deriving DecidableEq, Repr

/-- What a parked sequencer awaits (R245): a barrier phase, a guard, a reservation entry, its own posted
operations (MARRIVE), or a translation. -/
inductive SeqPark where
  | none | bar (b : Nat) (q : Bool) | guard (g : Nat) | entry | drain | walk
  deriving DecidableEq, Repr

/-- A weight binding (R232): a WB tile descriptor and the B operand descriptor of a format block. -/
structure Binding where
  tile : DWord
  bd : List Byte
  deriving DecidableEq, Repr

/-- A posted operation of the matrix stream (R248) with what it read at issue. -/
inductive MatOp where
  | mldw (b : Binding)
  | mswap
  | mma (m : Nat) (ta tc : DWord) (fmt : List Byte) (act : Binding) (tr : Nat) (nz : Bool) (rowA rowC : Nat)
  | mzero (t : DWord)
  | mdrain (rows : Nat) (td tc : DWord) (fmt : List Byte) (z : Bool) (rowC rowD : Nat)
  deriving DecidableEq, Repr

/-- A reservation-table entry (R248): the operation, its stream PC and word, the logical planes as they stand after
its posting (R232), whether the arbiter has granted it, and when it was posted. -/
structure Posted where
  op : MatOp
  pc : DWord
  word : Word
  shadow : Option Binding := none
  active : Option Binding := none
  granted : Bool := false
  age : Nat := 0
  deriving DecidableEq, Repr

/-- A gather of COLL executions (R296). -/
structure Gather where
  num : Nat
  word : Word
  handle : Cell
  marked : List Nat
  gi : Nat
  pc : DWord
  deriving DecidableEq, Repr

/-- A check region of a SHADOW launch (R429): a CB row range, as the offset of its first row, its pitch in bytes and
its rows, and a hidden checksum per column. -/
structure Region where
  off : Nat
  pitch : Nat
  rows : Nat
  sums : List FVal
  deriving DecidableEq, Repr

/-- The weights in the physical planes of a quad's engine, with the team they belong to (R231, R232). They affect
timing only. -/
structure Planes where
  active : Option (Nat × Binding) := none
  shadow : Option (Nat × Binding) := none
  deriving DecidableEq, Repr

/-- What a word of LS held before the latest plain store to it, the split that stored, whether that split has released since,
and the splits that have acquired after that (R371, R373; the model's own, log entry 19). -/
structure Before where
  old : Cell
  writer : Nat × Nat × Nat
  released : Bool := false
  seers : List (Nat × Nat × Nat) := []
  deriving DecidableEq, Repr

/-- A team resident on a core (R4, R153). parkedAt is the model's clock when the team came to be parked for the grid rule
(R359). lsOld holds the words of LS whose older value another split may still read. repost holds the operations of a restored
team that have yet to be posted again (R262, R366). seqSkip says that the stream skips to its next non-prefix word (R259). LS
holds tagged words; AB, WB and CB hold words with a tag per 64-byte granule (R41). -/
structure Team where
  tid : Nat := 0
  launch : Nat := 0
  ordinal : Nat := 0
  core : Nat := 0
  rank : Nat := 0
  cluster : Nat := 0
  ls : List (Nat × Cell) := []
  lsOld : List (Nat × Before) := []
  ab : List (Nat × Word) := []
  abTags : List (Nat × Tag) := []
  wb : List (Nat × Word) := []
  wbTags : List (Nat × Tag) := []
  cb : List (Nat × Word) := []
  cbTags : List (Nat × Tag) := []
  cbDice : List (Nat × Word) := []
  bars : List (Nat × Barrier) := []
  guards : List (Nat × Guard) := []
  tiles : List (Nat × DWord) := []
  mregs : List (Nat × Word) := []
  seqState : SeqState := .idle
  seqPark : SeqPark := .none
  seqPc : DWord := 0#64
  seqImm : Word := 0#32
  seqMod : Word := 0#32
  seqHint : Word := 0#32
  seqFault : Option Trap := none
  seqSkip : Bool := false
  shadow : Option Binding := none
  active : Option Binding := none
  posted : List Posted := []
  repost : List Posted := []
  csn : Nat := 0
  queue : List Cmd := []
  running : List Cmd := []
  heldArr : List HeldArrival := []
  engErr : Word := 0#32
  zeroBlocks : Nat := 0
  spills : Nat := 0
  satBlocks : Nat := 0
  gathers : List Gather := []
  regions : List Region := []
  unchecked : Nat := 0
  sideEffect : Bool := false
  retWords : Nat := 0
  stopping : Bool := false
  retired : Bool := false
  deadline : Option Nat := none
  drain : Bool := false
  missed : Bool := false
  parkedAt : Option Nat := none
  deriving DecidableEq, Repr

/-! ## Memory and the base dies (R85 to R120, R155) -/

/-- A line-tag entry (R42): uniform, or a vector of sixteen word tags with its VINDEX. -/
structure LineTag where
  vec : Bool := false
  tag : Tag := zeroInit
  vindex : Nat := 0
  words : List Tag := []
  deriving DecidableEq, Repr

/-- A word of a core's L1 (R155). unreg says that an owned word is not registered with its home yet: the store that wrote it
awaits its acknowledgement (R375). -/
structure L1Word where
  valid : Bool := false
  owned : Bool := false
  unreg : Bool := false
  val : Word := 0#32
  tag : Tag := 0#16
  deriving DecidableEq, Repr

/-- Who waits on a lock or a monitor: a split, or a ring (R106, R348). -/
inductive Waiter where
  | split (tid gi rank : Nat)
  | ring (r : Nat)
  deriving DecidableEq, Repr

/-- A queue-lock (R99): its word's physical address, holder identity and FIFO; stage names the launch whose staged copy of the word
it is (R421). -/
structure Lock where
  pa : Nat
  ctx : Nat
  ordinal : Nat
  gi : Nat
  launch : Nat
  waiters : List Waiter
  stage : Option Nat := none
  deriving DecidableEq, Repr

/-- A condition monitor (R106). -/
structure Monitor where
  pa : Nat
  cond : Nat
  isSigned : Bool
  value : Word
  waiter : Waiter
  deriving DecidableEq, Repr

/-- A staged line (R118): its launch and its sixteen tagged words. -/
structure Staged where
  launch : Nat
  line : Nat
  words : List Cell
  deriving DecidableEq, Repr

/-- A cached translation (R112): the core that holds it (or the shared cache of a die), context, virtual 64 KiB
page and leaf entry with its level. -/
structure Tlb where
  core : Option Nat
  die : Nat
  ctx : Nat
  page : Nat
  leaf : DWord
  level : Nat
  deriving DecidableEq, Repr

/-- Who asked for a translation (REQ of R117); a ring, a launch that completes and a context's other device accesses are
REQ 4 (R464). -/
inductive Requester where
  | split (tid gi rank : Nat)
  | stream (tid : Nat)
  | engine (tid csn : Nat)
  | coll (c : Nat)
  | ring (r : Nat)
  | launch (l : Nat)
  | device (ctx : Nat)
  deriving DecidableEq, Repr

/-- An outstanding walk (R112): context, 64 KiB page, the first faulting address, the access kind (1 read, 2
write, 3 fetch) and its requester with the lanes concerned. -/
structure Walk where
  id : Nat
  ctx : Nat
  page : Nat
  va : DWord
  kind : Nat
  who : Requester
  lanes : DWord
  core : Nat
  deriving DecidableEq, Repr

/-- A requester that waits on a fault record: its lanes on the page, and its first address there. -/
structure Ask where
  who : Requester
  lanes : DWord
  va : DWord
  deriving DecidableEq, Repr

/-- A fault record in a die's ring (R117), with REQ of the requester it was written for, the cause an unserviceable fault delivers and the requesters that
wait on it. -/
structure FaultRec where
  id : Nat
  die : Nat
  seq : Nat
  ctx : Nat
  va : DWord
  kind : Nat
  level : Nat
  lanes : DWord
  unit_ : Nat
  req : Nat
  cause : BitVec 8
  asks : List Ask
  deriving DecidableEq, Repr

/-- Where an in-flight operation's result goes (R89, R90, R209). -/
inductive FlightKind where
  | load | store | xform
  deriving DecidableEq, Repr

/-- A lane of an operation whose words a remote home returns (R287): the lane (64 for a scalar), its first register
code, how many words it takes, the width code and the byte in the first word, and what its tags need: the effective
rule, the own site, the destination's old tags, whether the page is HOSTSHARED (R43), and whether the register takes the own site
whatever the word carries (R48). -/
structure Fill where
  lane : Nat
  reg : Nat
  words : Nat
  w : Nat
  off : Nat
  rule : Nat
  site : Tag
  olds : List Tag
  host : Bool := false
  owned : Bool := false
  deriving DecidableEq, Repr

/-- An effect of the present word that a watchpoint may match (R440): a register cell, a global access, an access
of a local store in a core's team, or a capture record; with its lane, 64 standing for the whole split. -/
inductive Fx where
  | reg (code lane : Nat) (tag : Tag)
  | glob (lane : Nat) (va : DWord) (size : Nat) (wr : Bool)
  | ls (lane off size : Nat) (wr : Bool)
  | ab (lane off size : Nat) (wr : Bool)
  | cb (lane row : Nat) (wr : Bool)
  | memTag (lane addr : Nat) (tag : Tag)
  | cap (lane cause : Nat)
  deriving DecidableEq, Repr

/-- An issued operation whose reply or acknowledgement has not returned: its request number, the split, the
register cells it will write, the sticky bits it will record, and the counter it holds (R89, R169). isRemote says
the reply comes from a Florix peer, fills what its words are for, acquire that it completes an acquire, inval
that this is one at CLU scope or wider. again holds what a load dropped by a save reads anew, lane by lane, and replay
says that it was dropped (R364, R366). status says that its reply will record events (R97), unreg names the core's words it
registers with their homes when it is acknowledged (R375), blocks the 16-byte blocks that a droppable load reads (R371),
chans the request numbers it holds at its core's port, by slice (R89), word the instruction word (R401), and fx the accesses that a
watchpoint judges when the load completes (R440). -/
structure Flight where
  id : Nat
  kind : FlightKind
  tid : Nat
  gi : Nat
  rank : Nat
  pc : DWord
  scalars : List (Nat × Cell)
  cells : List (Nat × Cell)
  events : List (Nat × Word)
  regs : List Nat
  counter : Option Nat
  isRemote : Bool
  acquire : Bool
  inval : Bool := false
  fills : List Fill := []
  again : List (Fill × DWord) := []
  replay : Bool := false
  status : Bool := false
  unreg : List (Nat × Nat) := []
  blocks : List Nat := []
  core : Nat := 0
  chans : List (Nat × Nat) := []
  word : Word := 0#32
  fx : List Fx := []
  deriving DecidableEq, Repr

/-- The shadow of a group (R426, R427): its own registers, predicates, generators, status and trap registers in g, whose other
fields are the leading group's; A and the bracket of its splits by rank; and its own transform operations in flight. -/
structure Shadow where
  tid : Nat
  gi : Nat
  g : Group
  masks : List (Nat × DWord × DWord × Bool)
  xforms : List Flight := []
  deriving DecidableEq, Repr

/-- Pending ATS and PRI requests (R114): host page and the requester that waits, with its context, core, address and
lanes. -/
structure AtsReq where
  page : Nat
  pri : Bool
  who : Requester
  ctx : Nat
  core : Nat
  va : DWord
  lanes : DWord
  deriving DecidableEq, Repr

/-- A write, or a read, of an engine, a sequencer or the device itself on another device whose answer has not come (R287): its
number, context and requester, what it goes to, and the engine chunk or collective step it belongs to. -/
structure Post where
  id : Nat
  ctx : Nat
  who : Requester
  read : Bool := false
  dev : Nat
  pa : Nat
  part : Nat := 0
  deriving DecidableEq, Repr

/-- Memory, tags, caches, translation and what is in flight. portWait names, by core, the split whose request awaits a request
number at the core's port (R89); rechecks the words that cores read again for want of a monitor (R101, R106). ats lists the
host pages in each die's ATS cache (R114). uncorr and soft are the granules of DRAM with an error that is beyond correction or
that reads correct (R44, R92); writeBacks counts the lines that the L2 slices have written back, which regulators are charged
with (R122). -/
structure Mem where
  bytes : List Host.Cell := []
  tags : List (Nat × LineTag) := []
  hostMem : List Host.Cell := []
  uncorr : List Nat := []
  soft : List Nat := []
  writeBacks : Nat := 0
  l2 : List (Nat × Bool) := []
  l1 : List (Nat × L1Word) := []
  mixedCnt : List (Nat × Nat) := []
  poolUsed : List (Nat × Nat) := []
  eccCorr : List (Nat × Nat) := []
  eccUncorr : List (Nat × Nat) := []
  stageExhaust : List (Nat × Nat) := []
  locks : List Lock := []
  monitors : List Monitor := []
  staged : List Staged := []
  tlb : List Tlb := []
  ats : List (Nat × Nat) := []
  atsReqs : List AtsReq := []
  walks : List Walk := []
  faults : List FaultRec := []
  flights : List Flight := []
  posts : List Post := []
  portWait : List (Nat × Nat × Nat × Nat) := []
  rechecks : List Monitor := []
  faultSeq : List (Nat × Nat) := []
  deriving DecidableEq, Repr

/-! ## Contexts, rings, launches (R345 to R366) -/

/-- A fatal fault of a context (R410): cause, second cause, trap registers and where it arose. -/
structure CtxFault where
  cause : BitVec 8
  cause2 : BitVec 8 := 0#8
  trap : Trap := {}
  launch : Nat := 0
  team : Option Nat := none
  gi : Option Nat := none
  splitId : Option Nat := none
  noEntry : Bool := false
  stream : Bool := false
  served : Bool := false
  deriving DecidableEq, Repr

/-- A context descriptor (R345) with Keeper's own lengths, fault state and counters. dumpFull says that the dump area takes no
further dump (R412), dumpStop that a write of the present dump cannot be made (R464); oldRegs holds the regulator words of the
units that use others than REGL and REGD until their next window (R454). -/
structure Ctx where
  num : Nat := 0
  root : DWord := 0#64
  wrap : Bool := false
  capring : DWord := 0#64
  capseq : Nat := 0
  lostcap : Nat := 0
  gen : Nat := 0
  regl : DWord := 0#64
  regd : DWord := 0#64
  save : DWord := 0#64
  saveLen : Nat := 0
  dump : DWord := 0#64
  dumpLen : Nat := 0
  dumpPos : Nat := 0
  dumpSeq : Nat := 0
  dumpFull : Bool := false
  dumpStop : Bool := false
  trace : DWord := 0#64
  gseq : Nat := 0
  fault : Option CtxFault := none
  secondary : List CtxFault := []
  dumped : Bool := false
  misses : Nat := 0
  nonReplay : Nat := 0
  unchecked : Nat := 0
  checkpointing : Bool := false
  oldRegs : List (Nat × DWord × DWord) := []
  deriving DecidableEq, Repr

/-- A ring (R346, R349). mapped orders the mappings; begun holds its launches that have begun and are not complete, last
the latest LAUNCH or NODE. -/
structure Ring where
  idx : Nat := 0
  ctx : Nat := 0
  base : DWord := 0#64
  logn : Nat := 4
  cls : Nat := 1
  tail : Word := 0#32
  head : Word := 0#32
  slot : Option Nat := none
  blocked : Bool := false
  faulted : Bool := false
  pinned : Bool := false
  mapped : Nat := 0
  begun : List Nat := []
  last : Option Nat := none
  deriving DecidableEq, Repr

/-- A kernel header (R351). -/
structure Header where
  cb : Nat := 0
  wb : Nat := 0
  ab : Nat := 0
  ls : Nat := 0
  spill : Nat := 0
  capture : BitVec 16 := 0#16
  rule : BitVec 3 := 0#3
  splits : Nat := 1
  scalars : Nat := 8
  regs : Nat := 8
  groups : Nat := 1
  width : Nat := 8
  trap : Option Nat := none
  entry : Nat := 0
  deriving DecidableEq, Repr

/-- A launch (R347 to R353): descriptor, header, node fields and progress. begun says that a team of it has been
placed, age orders the dispatcher's service (R356), starved that its next team has waited 65,536 cycles, gridRule that
the grid rule has made room for that team (R359), released that a contract released it, recDead that its completion
record or CWORD cannot be written (R464), recDone that its record is written and CWORD is still to come (R353). status, cause and tcause go to the record (R353). -/
structure Launch where
  id : Nat := 0
  ctx : Nat := 0
  ring : Option Nat := none
  cls : Nat := 1
  rt : Bool := false
  contract : Option Nat := none
  code : DWord := 0#64
  codeObj : Word := 0#32
  args : DWord := 0#64
  seed : Word := 0#32
  ftz : Bool := false
  unifTrap : Bool := false
  shadow : Bool := false
  coop : Bool := false
  gx : Nat := 1
  gy : Nat := 1
  gz : Nat := 1
  cw : Nat := 1
  ch : Nat := 1
  hint : Nat := 0
  hdr : Header := {}
  node : Bool := false
  replayable : Bool := false
  budget : Nat := 0
  outs : List (Nat × Nat) := []
  crec : DWord := 0#64
  cword : DWord := 0#64
  cval : Word := 0#32
  undisp : List Nat := []
  savedTeams : List Nat := []
  saves : Nat := 0
  replays : Nat := 0
  teamsDone : Nat := 0
  rollback : Option Trap := none
  gridGen : Nat := 0
  starved : Bool := false
  gridRule : Bool := false
  begun : Bool := false
  age : Nat := 0
  released : Bool := false
  complete : Bool := false
  recDead : Bool := false
  recDone : Bool := false
  status : Nat := 0
  cause : Nat := 0
  tcause : Nat := 0
  deriving DecidableEq, Repr

/-- A pre-emption image (R365): its header fields, its address in the save area unless it came from a drive, and the team,
groups and splits it holds, with the loads that the save dropped. -/
structure Image where
  id : Nat
  ctx : Nat
  gen : Nat
  flags : Nat
  len : Nat
  base : Option DWord
  team : Team
  groups : List Group
  splits : List Split
  flights : List Flight
  deriving DecidableEq, Repr

/-- A contract (R354). released: a release that no launch has taken yet; pending: a release that waits for the running
launch or for a pin; running: the released launch; gone: the contract ends with that launch (R455). -/
structure Contract where
  num : Nat
  ring : Nat
  p : Nat
  c : Nat
  d : Nat
  part : Nat
  overrun : Nat := 0
  miss : Nat := 0
  overlap : Nat := 0
  releaseAt : Nat := 0
  released : Bool := false
  pending : Bool := false
  running : Option Nat := none
  gone : Bool := false
  deriving DecidableEq, Repr

/-! ## Collectives (R290 to R307) -/

/-- The states of R302. -/
inductive CollState where
  | queued | handshake | running | done | failed
  deriving DecidableEq, Repr

/-- A communicator (R290, R292). -/
structure Comm where
  handle : Nat
  ctx : Nat
  nmem : Nat
  rank : Nat
  cls : Nat
  logc : Nat
  seqr : Nat
  key : DWord
  members : List Nat
  seq : Nat := 0
  births : Nat := 0
  errw : Word := 0#32
  failure : Bool := false
  activeSlot : Bool := false
  used : Nat := 0
  deriving DecidableEq, Repr

/-- A submitted collective (R296 to R305): got holds the cells of this device's SRC under its own rank and the cells
received from the other members, steps counts the chunk steps over SRC, wrote how many elements of DST have been written, by the
rank that sent them, or under 0 for a reduction; since is when the next step began to wait, now the step whose requests are
partly issued with how many, parked whether a translation holds it back, passed the members known to have passed HANDSHAKE, heard
the words of SRC that other devices have returned, and edge the bytes written so far in DST words that other steps supply too
(R130). -/
structure Coll where
  id : Nat
  handle : Nat
  seq : Nat
  tid : Nat
  launch : Nat
  ordinal : Nat
  ctx : Nat
  word : Word
  root : Nat
  bar : Nat
  map : List Byte
  tag : Tag
  st : CollState := .queued
  sigs : List (Nat × Nat) := []
  got : List (Nat × List Cell) := []
  steps : Nat := 0
  wrote : List (Nat × Nat) := []
  since : Nat := 0
  now : Option (Nat × Nat) := none
  parked : Bool := false
  passed : List Nat := []
  heard : List Heard := []
  edge : List Piece := []
  credits : List (Nat × Nat) := []
  deriving DecidableEq, Repr

/-! ## The device (R446 to R461) -/

/-- A watchpoint (R439). -/
structure Watch where
  ctl : DWord := 0x000C000000000000#64
  lo : DWord := 0#64
  hi : DWord := 0#64
  deriving DecidableEq, Repr

/-- A checkpoint on a drive (R430, R431): where it lies, its manifest and images in bytes, and what those stand for. -/
structure Checkpoint where
  drive : Nat
  nsid : Nat
  lba : Nat
  ctx : Nat
  gen : Nat
  manifest : List Byte
  blobs : List (List Byte)
  images : List Image
  ranges : List (Nat × Nat)
  data : List (Nat × Cell)
  undisp : List (Nat × List Nat)
  launches : List Launch
  deriving DecidableEq, Repr

/-- A firmware image with the public key and the RSA-3072 signature that come with it (R448). -/
structure Firmware where
  body : List Byte
  key : List Byte
  sig : Nat
  deriving DecidableEq, Repr

/-- A checkpoint or restore that waits for a drive (R457); came holds the manifest and images that the drive has returned. -/
structure NvmeOp where
  restore : Bool
  ckpt : Checkpoint
  came : Option (List Byte) := none
  deriving DecidableEq, Repr

/-- What a Florix flit carries (R285): a remote access or its answer with its address, words and tags (R287, R289), or a
collective's signature, abort, chunk payload or chunk credit (R302 to R305). -/
inductive Flit where
  | access (dev : Nat) (kind : Nat) (pa : Nat) (words : List Cell)
  | signature (dev : Nat) (key : DWord) (seq : Nat) (v : Nat)
  | abort (dev : Nat) (key : DWord) (seq : Nat)
  | payload (dev : Nat) (key : DWord) (seq : Nat) (words : List Cell)
  | credit (dev : Nat) (key : DWord) (seq : Nat)
  deriving DecidableEq, Repr

/-- What an SPDM answer says that the manual gives (R460). -/
inductive SpdmField where
  | version (major minor : Nat)
  | hashSha256
  | signRsassa3072
  deriving DecidableEq, Repr

/-- A message the device sends: MSI-X vector 0 (R452), an SPDM answer with the fields that the manual gives, the rest of it and its measurement
blocks (R460), a flit on a virtual
channel of a Florix port (R285), a PCI Express AtomicOp (R94), an ATS or PRI request (R114), a report to the driver (R423). -/
inductive Msg where
  | msix (v : Nat)
  | spdm (request : Nat) (given : List SpdmField) (answer : Nat) (blocks : List (BitVec 256))
  | link (port vc : Nat) (f : Flit)
  | atomicOp (pa : Nat) (op : Nat)
  | ats (page : Nat) (pri : Bool)
  | rollback (ctx : Nat) (kind : Nat) (address : Nat)
  | hostData (bytes : List Byte)
  deriving DecidableEq, Repr

/-- The device-level registers and Keeper's own tables. flits counts, by port and virtual channel, the flits whose credit has
not come back, and waiting holds those that await one (R285); used counts the lines of each unit and context in the present
window (R122, R123); fencing names the cores, and with true the quads, that Keeper is fencing and whose teams still leave them
(R3, R432); served names the communicator that each sequencer has served last in each class (R304); corrRun counts the
corrected errors of Keeper's present window (R461). keyHashes and revoked are the fuses, bootPart the NVMe boot partition
(none where it fails), romSlot the ROM's fallback slot, firmware the images that bring-up has verified (R448); spoiled says
that the host has changed the request of the command that Keeper works on, going that Keeper has begun that command (R452).
strikes holds the places, by core, store and location, and quadStrikes the quads whose units an uncorrectable error has struck
before, sramCorr the corrected errors of each core's stores in the window (R432). -/
structure Dev where
  keyHashes : List (BitVec 256) := [0#256, 0#256, 0#256, 0#256]
  revoked : BitVec 4 := 0#4
  bootPart : Option (List Firmware) := some []
  romSlot : List Firmware := []
  firmware : List Firmware := []
  ready : Bool := false
  err : Bool := false
  ecode : Nat := 0
  step : Nat := 1
  featGen : Nat := 0
  stage : Nat := 1024
  caps : BitVec 5 := 0x1F#5
  enable : BitVec 5 := 0#5
  enableWritten : Bool := false
  replace : Bool := false
  corr : Nat := 0
  corrRun : Nat := 0
  request : List (Nat × Byte) := []
  response : List (Nat × Byte) := []
  busy : Bool := false
  done : Bool := false
  result : Nat := 0
  spoiled : Bool := false
  going : Bool := false
  fencedCores : List Nat := []
  fencedQuads : List Nat := []
  fencing : List (Nat × Bool) := []
  strikes : List (Nat × Nat × Nat) := []
  quadStrikes : List Nat := []
  sramCorr : List (Nat × Nat) := []
  portsDown : List Nat := []
  retraining : List Nat := []
  retries : List (Nat × Nat) := []
  routes : List (Nat × List Nat) := []
  devNum : Nat := 0
  partitions : List (Nat × BitVec 192) := []
  watches : List (Nat × Watch) := []
  checkpoints : List Checkpoint := []
  nvme : Option NvmeOp := none
  outbox : List Msg := []
  flits : List (Nat × Nat) := []
  waiting : List Msg := []
  buckets : List (Nat × Int) := []
  used : List (Nat × Nat) := []
  served : List (Nat × Nat) := []
  planes : List (Nat × Planes) := []
  deriving DecidableEq, Repr

/-! ## Who moves next (the model's own plain data, log entry 1) -/

/-- What the outside world, or the choice the spec leaves open, supplies with an event (spec/95). -/
structure EvArg where
  a : Nat := 0
  b : Nat := 0
  c : Nat := 0
  d : Nat := 0
  yes : Bool := false
  v : DWord := 0#64
  words : List Cell := []
  bytes : List Byte := []
  nums : List Nat := []
  nums2 : List Nat := []
  nums3 : List Nat := []
  entries : List (Nat × DWord) := []
  data : List (Nat × List Cell) := []
  deriving DecidableEq, Repr

/-- What an error strikes (R419): a granule of DRAM, a granule of a line that a launch has staged, a sector of an L2 slice, or a
word of a core's L1. -/
inductive Struck where
  | dram (gr : Nat)
  | staged (launch gr : Nat)
  | sector (sec : Nat)
  | l1 (core pa : Nat)
  deriving DecidableEq, Repr

/-- One turn: an event, a word of a split, words of a group's splits and replies to them in one cycle (R68, R317), or a word of a
matrix stream; or what no row of the opcode table stands for and the outside brings about: an error, correctable or not, in DRAM, a staged
line, L2 or L1 (R44, R92, R419), a register cell of a shadowed group or of its shadow that comes to hold a wrong value (R427), or a credit that comes back
on a virtual channel of a Florix port (R285). -/
inductive Turn where
  | damage (hit : Struck) (soft : Bool)
  | upset (shadow : Bool) (tid gi code lane : Nat) (v : Word)
  | credit (port vc : Nat)
  | event (i : Instr) (arg : EvArg)
  | split (tid gi rank : Nat)
  | cycle (tid gi : Nat) (ranks replies : List Nat)
  | stream (tid : Nat)
  deriving DecidableEq, Repr

/-- Who is executing the present word. -/
inductive Cursor where
  | nobody
  | split (tid gi rank : Nat)
  | stream (tid : Nat)
  deriving DecidableEq, Repr

/-- A device access for a context that met a translation fault (R464): context, address, access kind, level and
cause. -/
structure DevFail where
  ctx : Nat
  va : DWord
  kind : Nat
  level : Nat
  cause : BitVec 8
  deriving DecidableEq, Repr

/-- The machine. fx holds the effects of the word that runs. devFail is set while a word runs whose capture or trace packet
meets a translation fault. -/
structure State where
  dev : Dev := {}
  mem : Mem := {}
  ctxs : List Ctx := []
  rings : List Ring := []
  launches : List Launch := []
  contracts : List Contract := []
  comms : List Comm := []
  colls : List Coll := []
  images : List Image := []
  teams : List Team := []
  groups : List Group := []
  splits : List Split := []
  shadows : List Shadow := []
  cur : Cursor := .nobody
  arg : EvArg := {}
  agenda : List Turn := []
  clock : Nat := 0
  fresh : Nat := 0
  nextId : Nat := 0
  fx : List Fx := []
  devFail : Option DevFail := none
  deriving DecidableEq, Repr

/-- Why a step can stop. -/
inductive Fault where
  /-- Raised by an instruction word that is executed while no split and no stream has the turn. Safe: the step
  never executes a word without one. -/
  | noAgent
  deriving DecidableEq, Repr

/-- Why a step has no meaning. -/
inductive Refusal where
  /-- Raised by an arm of exec whose instruction has no meaning yet. Safe. -/
  | notModelled (mnemonic : String)
  deriving DecidableEq, Repr

/-- The machine at power-good (R446, R447, R449): STEP 1, nothing resident, memory zero with ZEROINIT tags. Every
field takes the default written beside it. -/
def State.reset : State := {}

end Sys2Proof.Machine
end

