-- ==== Sys2Proof/Machine/Access.lean ====
section
/-! DEFINITION. Finding and updating the parts of the state, register access, operand-independent helpers over
groups and splits, and free values. -/

namespace Sys2Proof.Machine

/-- The cause codes of R413 that the machine raises. -/
abbrev Cause := BitVec 8

def findTeam (s : State) (tid : Nat) : Option Team := s.teams.find? fun t => t.tid = tid
def findGroup (s : State) (tid gi : Nat) : Option Group := s.groups.find? fun g => g.tid = tid && g.gi = gi
def findSplit (s : State) (tid gi rank : Nat) : Option Split :=
  s.splits.find? fun x => x.tid = tid && x.gi = gi && x.rank = rank
def findLaunch (s : State) (id : Nat) : Option Launch := s.launches.find? fun l => l.id = id
def findCtx (s : State) (n : Nat) : Option Ctx := s.ctxs.find? fun c => c.num = n
def findRing (s : State) (r : Nat) : Option Ring := s.rings.find? fun q => q.idx = r
def findComm (s : State) (h : Nat) : Option Comm := s.comms.find? fun c => c.handle = h
def findColl (s : State) (c : Nat) : Option Coll := s.colls.find? fun q => q.id = c
def findContract (s : State) (n : Nat) : Option Contract := s.contracts.find? fun c => c.num = n

def updTeam (s : State) (tid : Nat) (f : Team → Team) : State :=
  { s with teams := updBy (fun t => t.tid = tid) f s.teams }
def updGroup (s : State) (tid gi : Nat) (f : Group → Group) : State :=
  { s with groups := updBy (fun g => g.tid = tid && g.gi = gi) f s.groups }
def updSplit (s : State) (tid gi rank : Nat) (f : Split → Split) : State :=
  { s with splits := updBy (fun x => x.tid = tid && x.gi = gi && x.rank = rank) f s.splits }
def updLaunch (s : State) (id : Nat) (f : Launch → Launch) : State :=
  { s with launches := updBy (fun l => l.id = id) f s.launches }
def updCtx (s : State) (n : Nat) (f : Ctx → Ctx) : State :=
  { s with ctxs := updBy (fun c => c.num = n) f s.ctxs }
def updRing (s : State) (r : Nat) (f : Ring → Ring) : State :=
  { s with rings := updBy (fun q => q.idx = r) f s.rings }
def updComm (s : State) (h : Nat) (f : Comm → Comm) : State :=
  { s with comms := updBy (fun c => c.handle = h) f s.comms }
def updColl (s : State) (c : Nat) (f : Coll → Coll) : State :=
  { s with colls := updBy (fun q => q.id = c) f s.colls }
def updContract (s : State) (n : Nat) (f : Contract → Contract) : State :=
  { s with contracts := updBy (fun c => c.num = n) f s.contracts }
def updMem (s : State) (f : Mem → Mem) : State := { s with mem := f s.mem }
def updDev (s : State) (f : Dev → Dev) : State := { s with dev := f s.dev }
def sendMsg (s : State) (m : Msg) : State := updDev s fun d => { d with outbox := d.outbox ++ [m] }

/-- The next free identifier and the state with it taken. -/
def takeId (s : State) : Nat × State := (s.nextId, { s with nextId := s.nextId + 1 })

/-- A free choice below n (log entry 2). -/
def freeChoice (s : State) (n : Nat) : Nat × State :=
  (if n = 0 then 0 else Config.choice s.fresh % n, { s with fresh := s.fresh + 1 })

/-! ## Florix links (R285, R286) -/

/-- The port on which a request to a 4 KiB granule of another device leaves (R286). -/
def portOf (s : State) (dev granule : Nat) : Nat :=
  let r := mapGet [] s.dev.routes dev
  r.getD (granule % r.length) 0

/-- The virtual channel of a flit (R285); cls is a payload's communicator class. -/
def flitVc (cls : Nat) : Flit → Nat
  | .access _ kind _ _ => if kind = 8 || kind = 9 then 1 else 0
  | .payload .. => 2 + cls
  | _ => 6

/-- Whether a flit of a virtual channel of a port waits for a credit (R285). -/
def vcWaits (s : State) (port vc : Nat) : Bool :=
  s.dev.waiting.any fun m => match m with | .link p v _ => p = port && v = vc | _ => false

/-- A flit leaves on a virtual channel of a port, or waits there behind the others of that channel for a credit (R285). -/
def sendFlit (s : State) (port vc : Nat) (f : Flit) : State :=
  let k := port * 8 + vc
  if !vcWaits s port vc && mapGet 0 s.dev.flits k < Config.vcCredits then
    updDev s fun d => { d with outbox := d.outbox ++ [.link port vc f], flits := mapSet 0 d.flits k (mapGet 0 d.flits k + 1) }
  else updDev s fun d => { d with waiting := d.waiting ++ [.link port vc f] }

/-- A credit comes back on a virtual channel of a port: the oldest flit that waits there leaves (R285). -/
def linkCredit (s : State) (port vc : Nat) : State :=
  let k := port * 8 + vc
  match s.dev.waiting.find? fun m => match m with | .link p v _ => p = port && v = vc | _ => false with
  | some m => updDev s fun d => { d with outbox := d.outbox ++ [m], waiting := d.waiting.erase m }
  | none => updDev s fun d => { d with flits := mapSet 0 d.flits k (mapGet 0 d.flits k - 1) }

/-- A remote access, or the answer to one, sent on the port of its granule (R286, R287). -/
def sendAccess (s : State) (dev kind pa : Nat) (ws : List Cell) : State :=
  let f := Flit.access dev kind pa ws
  sendFlit s (portOf s dev (pa / 4096)) (flitVc 0 f) f

/-- A collective's flit sent on a port of the free choice among those that lead to its device (R286). -/
def sendColl (s : State) (dev cls : Nat) (f : Flit) : State :=
  let r := mapGet [] s.dev.routes dev
  let (k, s) := freeChoice s r.length
  sendFlit s (r.getD k 0) (flitVc cls f) f

/-- A write of words (kind 1) or of a byte (kind 2) to another device whose acknowledgement its requester awaits (R287). -/
def postWrite (s : State) (ctx : Nat) (who : Requester) (part dev kind pa : Nat) (ws : List Cell) : State :=
  let (id, s) := takeId s
  updMem (sendAccess s dev kind pa ws) fun m =>
    { m with posts := m.posts ++ [{ id := id, ctx := ctx, who := who, dev := dev, pa := pa, part := part }] }

/-- The flits that carry cells to a member of a communicator: one for each 64-byte line, of n cells (R285). -/
def payloadFlits (d : Nat) (key : DWord) (seq n : Nat) (ws : List Cell) : List Flit :=
  (chunksOf n ws.length ws).map (Flit.payload d key seq)

/-- A read of n words of another device whose reply its requester awaits (R287). -/
def postRead (s : State) (ctx : Nat) (who : Requester) (part dev pa n : Nat) : State :=
  let (id, s) := takeId s
  updMem (sendAccess s dev 0 pa (List.replicate n (0#32, 0#16))) fun m =>
    { m with posts := m.posts ++ [{ id := id, ctx := ctx, who := who, read := true, dev := dev, pa := pa, part := part }] }

/-! ## Executing agents -/

/-- What an executing split sees: its launch, team, group and itself. -/
structure Ex where
  lch : Launch
  tm : Team
  g : Group
  x : Split
  deriving DecidableEq, Repr

/-- The parts a split belongs to. -/
def exAt (s : State) (tid gi rank : Nat) : Option Ex :=
  match findTeam s tid with
  | none => none
  | some t =>
    match findLaunch s t.launch, findGroup s tid gi, findSplit s tid gi rank with
    | some l, some g, some x => some ⟨l, t, g, x⟩
    | _, _, _ => none

/-- The executing split. -/
def exOf (s : State) : Option Ex :=
  match s.cur with
  | .split tid gi rank => exAt s tid gi rank
  | _ => none

/-- Group width (R315). -/
def Ex.width (e : Ex) : Nat := e.lch.hdr.width
/-- The active lanes, ascending. -/
def Ex.lanes (e : Ex) : List Nat := lanesOf e.width e.x.amask
/-- The lowest active lane (R463). -/
def Ex.low (e : Ex) : Option Nat := e.lanes.head?
/-- The team's groups in the launch (R74). -/
def Ex.ngroups (e : Ex) : Nat := e.lch.hdr.groups
/-- The grid-linear group ordinal (R315). -/
def groupOrdinal (l : Launch) (t : Team) (gi : Nat) : Nat := t.ordinal * l.hdr.groups + gi

/-- The group's splits that hold an entry. -/
def splitsOf (s : State) (tid gi : Nat) : List Split := s.splits.filter fun x => x.tid = tid && x.gi = gi
/-- The team's groups that have not exited. -/
def liveGroups (s : State) (tid : Nat) : List Group :=
  s.groups.filter fun g => g.tid = tid && !g.exited

def setGroup (s : State) (e : Ex) (f : Group → Group) : State := updGroup s e.x.tid e.x.gi f
def setSplit (s : State) (e : Ex) (f : Split → Split) : State := updSplit s e.x.tid e.x.gi e.x.rank f
def setTeam (s : State) (e : Ex) (f : Team → Team) : State := updTeam s e.x.tid f

/-! ## Slices (R316, R319) -/

/-- The slices that hold a lane of a mask. -/
def sliceMask (m : DWord) : BitVec 16 :=
  BitVec.ofNat 16 (((upTo 16).filter fun k => bits m.toNat (4 * k + 3) (4 * k) ≠ 0).foldl (fun n k => n + 2 ^ k) 0)
/-- The lanes of a split with those of its deferral entries. -/
def allLanes (x : Split) : DWord := x.stack.foldl (fun m en => m ||| en.lanes) x.lset
/-- SL of every split of a group formed anew (R319): a split with neither lanes nor entries holds every slice that no
other split holds. -/
def reslice (s : State) (tid gi width : Nat) : State :=
  let mine := splitsOf s tid gi
  let used := mine.foldl (fun (m : BitVec 16) x => m ||| sliceMask (allLanes x)) 0#16
  let sl := fun (x : Split) =>
    if allLanes x = 0#64 && x.stack = [] then sliceMask (fullMask width) &&& ~~~used else sliceMask (allLanes x)
  { s with splits := updBy (fun x => x.tid = tid && x.gi = gi) (fun x => { x with slices := sl x }) s.splits }

/-! ## Registers (R172) -/

/-- V(d,i) with T(d,i). -/
def vreg (g : Group) (r i : Nat) : Cell := mapGet (0#32, 0#16) g.vregs (r * 64 + i)
/-- S(k) with its tag, as a word of the present cycle reads it (R68). -/
def sreg (g : Group) (k : Nat) : Cell := mapGet (0#32, 0#16) (g.sold.getD g.sregs) k
/-- P(k) over the lanes: p0 is true everywhere (R172). -/
def pred (g : Group) (k : Nat) : DWord := if k = 0 then BitVec.allOnes 64 else mapGet 0#64 g.preds k
/-- P(k,i). -/
def predBit (g : Group) (k i : Nat) : Bool := (pred g k).getLsbD i
/-- The lane's dice state (R19). -/
def diceOf (g : Group) (i : Nat) : Word := mapGet 0#32 g.dice i
/-- The lane's sticky status (R395). -/
def lstatOf (g : Group) (i : Nat) : Word := mapGet 0#32 g.lstat i

/-- Writes of vector cells, keyed by register × 64 + lane. -/
def writeCells (g : Group) (ws : List (Nat × Cell)) : Group :=
  { g with vregs := mapSetMany (0#32, 0#16) g.vregs ws }
/-- Writes of scalar cells. -/
def writeScalars (g : Group) (ws : List (Nat × Cell)) : Group :=
  { g with sregs := mapSetMany (0#32, 0#16) g.sregs ws }
/-- Lanes of predicate p written with the lanes of v under a mask; p0 takes no write (R172). -/
def writePred (g : Group) (p : Nat) (m v : DWord) : Group :=
  if p = 0 then g
  else { g with preds := mapSet 0#64 g.preds p ((mapGet 0#64 g.preds p &&& ~~~m) ||| (v &&& m)) }
/-- Dice states written. -/
def writeDice (g : Group) (ws : List (Nat × Word)) : Group :=
  { g with dice := mapSetMany 0#32 g.dice ws }
/-- Sticky events recorded: each bit sets its UNREP bit in the same step (R396). -/
def recordBits (g : Group) (ws : List (Nat × Word)) : Group :=
  { g with lstat := ws.foldl (fun (m : List (Nat × Word)) (e : Nat × Word) =>
      mapSet 0#32 m e.1 (mapGet 0#32 m e.1 ||| e.2 ||| (e.2 <<< (8 : Nat)))) g.lstat }

/-! ## Local stores (R41, R152, R153) -/

/-- The four local stores. -/
inductive Store where
  | ls | ab | wb | cb
  deriving DecidableEq, Repr

/-- The size of a team's allocation (R351). -/
def storeSize (h : Header) : Store → Nat
  | .ls => h.ls | .ab => h.ab | .wb => h.wb | .cb => h.cb

/-- The bounds cause of a store (R153). -/
def boundsCause : Store → Cause
  | .ls => 0x26#8 | .ab => 0x27#8 | .wb => 0x28#8 | .cb => 0x29#8

/-- The word w of a store with its tag; AB, WB and CB read with their granule's tag (R161). -/
def storeWord (t : Team) (k : Store) (w : Nat) : Cell :=
  match k with
  | .ls => mapGet (0#32, 0#16) t.ls w
  | .ab => (mapGet 0#32 t.ab w, mapGet 0#16 t.abTags (w / 16))
  | .wb => (mapGet 0#32 t.wb w, mapGet 0#16 t.wbTags (w / 16))
  | .cb => (mapGet 0#32 t.cb w, mapGet 0#16 t.cbTags (w / 16))

/-- The granule tag of a store (R41). -/
def granTag (t : Team) (k : Store) (gr : Nat) : Tag :=
  match k with
  | .ls => 0#16
  | .ab => mapGet 0#16 t.abTags gr | .wb => mapGet 0#16 t.wbTags gr | .cb => mapGet 0#16 t.cbTags gr

/-- Summarise (R41). -/
def summarise (l : List Tag) : Tag :=
  if l.contains poison then poison
  else
    match l.find? fun t => t.getLsbD 15 with
    | some t => t
    | none => l.headD 0#16

/-- A granule tag written. -/
def setGranTag (t : Team) (k : Store) (gr : Nat) (v : Tag) : Team :=
  match k with
  | .ls => t
  | .ab => { t with abTags := mapSet 0#16 t.abTags gr v }
  | .wb => { t with wbTags := mapSet 0#16 t.wbTags gr v }
  | .cb => { t with cbTags := mapSet 0#16 t.cbTags gr v }

/-- Words of a store written with their data only. -/
def setStoreData (t : Team) (k : Store) (ws : List (Nat × Word)) : Team :=
  match k with
  | .ls =>
    { t with
      ls := ws.foldl (fun m e => mapSet (0#32, 0#16) m e.1 (e.2, (mapGet (0#32, 0#16) m e.1).2)) t.ls
      lsOld := t.lsOld.filter fun b => !(ws.any fun e => e.1 = b.1) }
  | .ab => { t with ab := mapSetMany 0#32 t.ab ws }
  | .wb => { t with wb := mapSetMany 0#32 t.wb ws }
  | .cb => { t with cb := mapSetMany 0#32 t.cb ws }

/-- Words of a store written with their tags. In AB, WB and CB a granule takes Summarise over the written words'
tags, followed by its old tag when the write covers it in part (R41). -/
def setStoreWords (t : Team) (k : Store) (ws : List (Nat × Cell)) : Team :=
  match k with
  | .ls => { t with ls := mapSetMany (0#32, 0#16) t.ls ws, lsOld := t.lsOld.filter fun b => !(ws.any fun e => e.1 = b.1) }
  | _ =>
    let grans := (ws.map fun e => e.1 / 16).dedup
    let t1 := setStoreData t k (ws.map fun e => (e.1, e.2.1))
    grans.foldl (fun u gr =>
      let mine := sortBy (fun e : Nat × Cell => e.1) (ws.filter fun e => e.1 / 16 = gr)
      let tags := mine.map fun e => e.2.2
      let all := (mine.map fun e => e.1).dedup.length = 16
      setGranTag u k gr (summarise (if all then tags else tags ++ [granTag t k gr]))) t1

/-! ## Waking (R322) -/

/-- A split becomes ready again from PARKED, in the state it held before. -/
def unpark (x : Split) : Split := { x with st := x.prev, park := .none, parkKey := 0 }

/-- A split parks, keeping its PC and its latch (R115, R322). -/
def parkAs (p : Park) (key : Nat) (x : Split) : Split :=
  { x with st := .parked, prev := if x.st = .parked then x.prev else x.st, park := p, parkKey := key }

end Sys2Proof.Machine
end

