-- ==== Sys2Proof/Machine/Memory.lean ====
section
/-! DEFINITION. Physical memory and its homes: the address map (R85, R86), bytes and line tags (R42, R91), poison
(R44), L1 with owned words and recall (R155, R374, R375), staged lines (R118 to R120) and condition monitors
(R106). -/

namespace Sys2Proof.Machine

/-- Memory is a list of (address, byte) pairs; an address it does not list reads as 0 (R449). -/
abbrev Memory := List Host.Cell

/-- The canonical form of memory: addresses strictly rising, no byte listed that is 0. -/
def memoryWf (m : Memory) : Bool := mapWf (0#8) m

/-- One byte of memory. -/
def readByte (m : Memory) (a : Nat) : Byte := mapGet 0#8 m a
/-- One byte written. -/
def writeByte (m : Memory) (a : Nat) (b : Byte) : Memory := mapSet 0#8 m a b
/-- n bytes from a, lowest first. -/
def readBytes (m : Memory) (a n : Nat) : List Byte := (upTo n).map fun k => readByte m (a + k)
/-- Bytes written from a upward. -/
def writeBytes (m : Memory) (a : Nat) : List Byte → Memory
  | [] => m
  | b :: bs => writeBytes (writeByte m a b) (a + 1) bs
/-- A little-endian number of n bytes (R9). -/
def readNum (m : Memory) (a n : Nat) : Nat := numOf (readBytes m a n)

/-! ## The address map -/

/-- The HBM4E data region (R85), less the staging range. -/
def inHbm (stage pa : Nat) : Bool := pa < 0x00EE00000000 - 16 * stage * 1048576
/-- The LPDDR-6 data region (R85). -/
def inLpddr (pa : Nat) : Bool := 0x010000000000 ≤ pa && pa < 0x02DC00000000
/-- Whether a physical address lies in a region of R85. -/
def inRegion (s : State) (pa : Nat) : Bool := inHbm s.dev.stage pa || inLpddr pa

/-- The stack of an HBM4E address (R86); the LPDDR-6 controllers count as 16 (R92). -/
def stackOf (pa : Nat) : Nat :=
  if inLpddr pa then 16
  else
    let g := pa / 4096
    ((bits g 3 0).xor (bits g 12 9)).xor (bits g 20 17)

/-- The row of an HBM4E address within its channel (R86). -/
def rowOf (pa : Nat) : Nat := bits (pa / 4096) 27 9
/-- The byte of an HBM4E address within its channel (R86). -/
def localOf (pa : Nat) : Nat := rowOf pa * 4096 + pa % 4096

/-- The channel of an HBM4E address (R86). -/
def channelOf (pa : Nat) : Nat :=
  let g := pa / 4096
  ((bits g 8 4).xor (bits g 17 13)).xor (bits g 26 22)

/-- A slice's number, by stack and channel. -/
def sliceOf (pa : Nat) : Nat := stackOf pa * 32 + channelOf pa

/-- A counter that saturates at 2^32 − 1, incremented (R92). -/
def bump (m : List (Nat × Nat)) (k n : Nat) : List (Nat × Nat) :=
  mapSet 0 m k (min 0xFFFFFFFF (mapGet 0 m k + n))

/-! ## Line tags (R42) -/

/-- The tag of word w of a line. -/
def lineWordTag (l : LineTag) (w : Nat) : Tag := if l.vec then l.words.getD w 0#16 else l.tag
/-- The line's sixteen tags. -/
def lineTags (l : LineTag) : List Tag := (upTo 16).map (lineWordTag l)
/-- The tag of the word at a physical address. -/
def memTag (m : Mem) (pa : Nat) : Tag := lineWordTag (mapGet {} m.tags (pa / 64)) (pa / 4 % 16)

/-- The pool of tag vectors of a stack, or of the LPDDR-6 controllers (R42, R85). -/
def poolSize (stack : Nat) : Nat := if stack = 16 then 536870912 else 16777216

/-- A line takes sixteen tags: uniform, in a vector, or, without a free vector, uniform MIXED or POISON (R42). -/
def setLine (m : Mem) (line fresh : Nat) (ts : List Tag) : Mem :=
  let old := mapGet {} m.tags line
  let st := stackOf (line * 64)
  let freed := if old.vec then { m with poolUsed := mapSet 0 m.poolUsed st (mapGet 0 m.poolUsed st - 1) } else m
  let t0 := ts.headD 0#16
  if ts.all (fun t => t = t0) then { freed with tags := mapSet {} m.tags line { tag := t0 } }
  else if old.vec then { m with tags := mapSet {} m.tags line { old with words := ts } }
  else if mapGet 0 m.poolUsed st < poolSize st then
    { m with
      poolUsed := bump m.poolUsed st 1
      tags := mapSet {} m.tags line
        { vec := true, tag := 0#16, vindex := Config.vindex fresh % poolSize st, words := ts } }
  else if ts.contains poison then { m with tags := mapSet {} m.tags line { tag := poison } }
  else { m with mixedCnt := bump m.mixedCnt st 1, tags := mapSet {} m.tags line { tag := mixed } }

/-- Word tags of one line written by one request. A line that is uniform MIXED keeps that tag in every word until a write
makes it uniform with another; only POISON is recorded in it before that (R42, log entry 15). -/
def setWordTags (s : State) (line : Nat) (ws : List (Nat × Tag)) : State :=
  let old := mapGet {} s.mem.tags line
  let ts := ws.foldl (fun (l : List Tag) (e : Nat × Tag) => l.set e.1 e.2) (lineTags old)
  let t0 := ts.headD 0#16
  if !old.vec && old.tag = mixed && !(ts.all fun t => t = t0) then
    if ts.contains poison then
      { s with mem := setLine s.mem line s.fresh (ts.map fun t => if t = poison then poison else mixed), fresh := s.fresh + 1 }
    else s
  else { s with mem := setLine s.mem line s.fresh ts, fresh := s.fresh + 1 }

/-! ## Residency in L2, and poison (R44, R88, R91) -/

/-- A sector leaves its slice: a dirty one is written back, which writes its granule's ECC anew (R88, R94). -/
def dropSector (s : State) (sec : Nat) : State :=
  let dirty := s.mem.l2.any fun e => e.1 = sec && e.2
  updMem s fun m =>
    { m with l2 := m.l2.filter fun e => e.1 ≠ sec
             uncorr := if dirty then m.uncorr.filter fun g => g ≠ sec else m.uncorr
             soft := if dirty then m.soft.filter fun g => g ≠ sec else m.soft
             writeBacks := if dirty then m.writeBacks + 1 else m.writeBacks }

/-- A line leaves its slice: one write-back where either sector is dirty (R88). -/
def dropLine2 (s : State) (line : Nat) : State :=
  let n := if s.mem.l2.any fun e => e.1 / 2 = line && e.2 then 1 else 0
  updMem (dropSector (dropSector s (2 * line)) (2 * line + 1)) fun m => { m with writeBacks := s.mem.writeBacks + n }

/-- The set of a slice that a line lies in: its line number within the channel, modulo 1,024 (R88, log entry 16). -/
def l2Set (pa : Nat) : Nat := sliceOf pa * 1024 + localOf pa / 64 % 1024

/-- A sector becomes resident in its slice, in the line of its set that holds the other sector or in a free one; a set of
sixteen lines gives up one of the free choice (R88). -/
def touchL2 (s : State) (pa : Nat) (dirty : Bool) : State :=
  if inLpddr pa then s
  else
    let sec := pa / 32
    if s.mem.l2.any fun e => e.1 = sec then
      updMem s fun m => { m with l2 := updBy (fun e => e.1 = sec) (fun e => (e.1, e.2 || dirty)) m.l2 }
    else
      let lines := ((s.mem.l2.filter fun e => l2Set (e.1 * 32) = l2Set pa).map fun e => e.1 / 2).dedup
      if lines.contains (sec / 2) || lines.length < 16 then updMem s fun m => { m with l2 := (sec, dirty) :: m.l2 }
      else
        let (k, s) := freeChoice s lines.length
        let s := dropLine2 s (lines.getD k 0)
        updMem s fun m => { m with l2 := (sec, dirty) :: m.l2 }

/-- Whether a granule has to come from DRAM: it lies in no L2 slice. -/
def fromDram (m : Mem) (gr : Nat) : Bool := !(m.l2.any fun e => e.1 = gr)

/-- A granule read on its way from DRAM: one that cannot be corrected becomes 0 tagged POISON (R44), one that can be is
counted as corrected (R92, R461). -/
def findPoison (s : State) (pa : Nat) : State :=
  let gr := pa / 32
  if s.mem.uncorr.contains gr && fromDram s.mem gr then
    let s := updMem s fun m =>
      { m with uncorr := m.uncorr.filter fun g => g ≠ gr
               soft := m.soft.filter fun g => g ≠ gr
               eccUncorr := bump m.eccUncorr (stackOf pa) 1
               bytes := writeBytes m.bytes (gr * 32) (List.replicate 32 0#8) }
    setWordTags s (gr / 2) ((upTo 8).map fun w => (gr % 2 * 8 + w, poison))
  else if s.mem.soft.contains gr && fromDram s.mem gr then
    let s := updMem s fun m => { m with eccCorr := bump m.eccCorr (stackOf pa) 1 }
    updDev s fun d => { d with corrRun := min 0xFFFFFFFF (d.corrRun + 1) }
  else s

/-- A granule about to be written whole, which needs no read (R91): in the LPDDR-6 region, which has no L2, the write is in
DRAM at once and its ECC is new. -/
def coverGran (s : State) (pa : Nat) : State :=
  if inLpddr pa then
    updMem s fun m => { m with uncorr := m.uncorr.filter fun g => g ≠ pa / 32, soft := m.soft.filter fun g => g ≠ pa / 32 }
  else s

/-! ## Words at their home -/

/-- The word at a home with its tag; a granule that DRAM holds beyond correction reads as 0 tagged POISON (R44). -/
def homeCell (m : Mem) (pa : Nat) : Cell :=
  if m.uncorr.contains (pa / 32) && fromDram m (pa / 32) then (0#32, poison)
  else (BitVec.ofNat 32 (readNum m.bytes (pa / 4 * 4) 4), memTag m pa)

/-- Words of one line written at their home by one request, data and tags together (R41, R42, R88): a granule that the write
covers in part is merged with what is read of it (R91). -/
def putLine (s : State) (line : Nat) (ws : List (Nat × Cell)) : State :=
  let grans := (ws.map fun w => w.1 / 8).dedup
  let s := grans.foldl (fun s g =>
    let pa := line * 64 + 32 * g
    let whole := ((ws.filter fun w => w.1 / 8 = g).map fun w => w.1).dedup.length = 8
    touchL2 (if whole then coverGran s pa else findPoison s pa) pa true) s
  let s := updMem s fun m =>
    { m with bytes := ws.foldl (fun b w => writeBytes b (line * 64 + 4 * w.1) (bytesOf 4 w.2.1.toNat)) m.bytes }
  setWordTags s line (ws.map fun w => (w.1, w.2.2))

/-- One word written at its home (R41). -/
def putHome (s : State) (pa : Nat) (c : Cell) : State := putLine s (pa / 64) [(pa / 4 % 16, c)]

/-! ## Condition monitors (R106) -/

/-- A condition of R59 between a word and a value. -/
def condHolds (cond : Nat) (isSigned : Bool) (w v : Word) : Bool :=
  match cond with
  | 0 => w = v
  | 1 => w ≠ v
  | 2 => if isSigned then w.toInt < v.toInt else w.toNat < v.toNat
  | 3 => if isSigned then w.toInt ≤ v.toInt else w.toNat ≤ v.toNat
  | 4 => if isSigned then w.toInt > v.toInt else w.toNat > v.toNat
  | 5 => if isSigned then w.toInt ≥ v.toInt else w.toNat ≥ v.toNat
  | _ => false

/-- A waiter made ready: a split resumes at its word and runs it again, a ring is no longer blocked. -/
def wake (s : State) (w : Waiter) : State :=
  match w with
  | .split tid gi rank => updSplit s tid gi rank unpark
  | .ring r => updRing s r fun q => { q with blocked := false }

/-- The monitors on a word evaluated after a write to it (R106). -/
def evalMonitors (s : State) (pa : Nat) : State :=
  let w := (homeCell s.mem pa).1
  let hit := s.mem.monitors.filter fun m => m.pa = pa / 4 * 4 && condHolds m.cond m.isSigned w m.value
  let s := updMem s fun m =>
    { m with monitors := m.monitors.filter fun q =>
        !(q.pa = pa / 4 * 4 && condHolds q.cond q.isSigned w q.value) }
  hit.foldl (fun s m => wake s m.waiter) s

/-! ## L1 (R155) -/

/-- The key of a word of a core's L1. -/
def l1Key (core pa : Nat) : Nat := core * 2 ^ 48 + pa / 4
/-- A word of a core's L1. -/
def l1Get (m : Mem) (core pa : Nat) : L1Word := mapGet {} m.l1 (l1Key core pa)
/-- A word of a core's L1 written. -/
def l1Set (m : Mem) (core pa : Nat) (w : L1Word) : Mem := { m with l1 := mapSet {} m.l1 (l1Key core pa) w }

/-- The cores that hold a word as owned and have registered it with its home (R375). -/
def ownersOf (m : Mem) (pa : Nat) : List Nat :=
  (m.l1.filter fun e => e.1 % 2 ^ 48 = pa / 4 && e.2.owned && !e.2.unreg).map fun e => e.1 / 2 ^ 48

/-- The owned words of a line in a core's L1, by word index; only registered ones where a test asks. -/
def ownedWords (m : Mem) (core line : Nat) (all : Bool) : List (Nat × Cell) :=
  (upTo 16).filterMap fun w =>
    let x := l1Get m core (line * 64 + 4 * w)
    if x.owned && (all || !x.unreg) then some (w, (x.val, x.tag)) else none

/-- Words of a core's L1 dropped. -/
def dropWords (m : Mem) (core line : Nat) (ws : List Nat) : Mem :=
  ws.foldl (fun m w => l1Set m core (line * 64 + 4 * w) {}) m

/-- A word recalled from every core that has registered it as owned, into its home, with the other registered words of its
line there (R88, R375). -/
def recallWord (s : State) (pa : Nat) : State :=
  (ownersOf s.mem pa).foldl (fun s c =>
    let ws := ownedWords s.mem c (pa / 64) false
    updMem (putLine s (pa / 64) ws) fun m => dropWords m c (pa / 64) (ws.map fun w => w.1)) s

/-- The home's single copy of a word, after recall (R374). -/
def homeRead (s : State) (pa : Nat) : Cell × State :=
  let s := touchL2 (findPoison (recallWord s pa) pa) pa false
  (homeCell s.mem pa, s)

/-- A word written at its home by an agent that holds no L1 copy: recall, write, monitors (R94, R106). -/
def homeWrite (s : State) (pa : Nat) (c : Cell) : State := evalMonitors (putHome (recallWord s pa) pa c) pa

/-- Words of one line written at their home by one request: recall, one write, monitors (R42, R106). -/
def homeWriteLine (s : State) (line : Nat) (ws : List (Nat × Cell)) : State :=
  let s := putLine (ws.foldl (fun s w => recallWord s (line * 64 + 4 * w.1)) s) line ws
  ws.foldl (fun s w => evalMonitors s (line * 64 + 4 * w.1)) s

/-- Words at physical addresses written at their homes, a line at a time in their order. -/
def homeWriteMany (s : State) (ws : List (Nat × Cell)) : State :=
  ((ws.map fun w => w.1 / 64).dedup).foldl (fun s line =>
    homeWriteLine s line ((ws.filter fun w => w.1 / 64 = line).map fun w => (w.1 / 4 % 16, w.2))) s

/-- A core's copy of a word that another write has overtaken at the home is dropped where it is not owned. -/
def dropCopy (s : State) (core pa : Nat) : State :=
  if (l1Get s.mem core pa).owned then s else updMem s fun m => l1Set m core pa {}

/-- The copies of a line that any core's L1 holds without owning them are dropped. -/
def dropCopies (s : State) (line : Nat) : State :=
  updMem s fun m => { m with l1 := m.l1.filter fun e => !(e.1 % 2 ^ 48 / 16 = line && !e.2.owned) }

/-- One owned word of a core becomes registered with its home: other owners are recalled, and a monitored word is recalled at
once and evaluated (R106, R155, R375). -/
def registerOne (core : Nat) (s : State) (pa : Nat) : State :=
  let x := l1Get s.mem core pa
  if x.owned && x.unreg then
    let s := recallWord s pa
    let s := updMem s fun m => l1Set m core pa { x with unreg := false }
    if s.mem.monitors.any fun q => q.pa = pa / 4 * 4 then evalMonitors (recallWord s pa) pa else s
  else s

/-- The owned words of a core's 32-byte granule become registered with their home, all of them: the link keeps the order of one
requester's writes to one granule (R90). -/
def registerWord (s : State) (core pa : Nat) : State :=
  ((upTo 8).map fun w => pa / 32 * 32 + 4 * w).foldl (registerOne core) s

/-- The owned words of a line of a core's L1 written back to their home; they stay as non-owned copies (R155, R168). -/
def writeBack (s : State) (core line : Nat) : State :=
  let s := registerWord (registerWord s core (line * 64)) core (line * 64 + 32)
  let ws := ownedWords s.mem core line true
  if ws = [] then s
  else
    updMem (putLine s line ws) fun m =>
      ws.foldl (fun m w => l1Set m core (line * 64 + 4 * w.1) { valid := true, val := w.2.1, tag := w.2.2 }) m

/-- Room made in a core's L1 set for a line: a full set of eight lines gives up one of the free choice, whose
owned words are written back (R155). -/
def l1Room (s : State) (core pa : Nat) : State :=
  let line := pa / 64
  let mine := (s.mem.l1.filter fun e => e.1 / 2 ^ 48 = core && e.1 % 2 ^ 48 / 16 % 256 = line % 256)
  let lines := (mine.map fun e => e.1 % 2 ^ 48 / 16).dedup
  if lines.contains line || lines.length < 8 then s
  else
    let (k, s) := freeChoice s lines.length
    let victim := lines.getD k 0
    updMem (writeBack s core victim) fun m => dropWords m core victim (upTo 16)

/-- The words of a line that a core's L1 lacks, fetched from their home behind the core's own earlier stores to their granules
(R90, R155, R167). -/
def l1Fetch (s : State) (core pa : Nat) : State :=
  let s := l1Room s core pa
  (upTo 16).foldl (fun s w =>
    let a := pa / 64 * 64 + 4 * w
    if (l1Get s.mem core a).valid then s
    else
      let (c, s) := homeRead (registerWord s core a) a
      updMem s fun m => l1Set m core a { valid := true, val := c.1, tag := c.2 }) s

/-- A plain load of a word through a core's L1: a valid copy answers, a miss fetches the line (R155, R374). -/
def l1Read (s : State) (core pa : Nat) : Cell × State :=
  let x := l1Get s.mem core pa
  if x.valid then ((x.val, x.tag), s)
  else
    let s := l1Fetch s core pa
    let x := l1Get s.mem core pa
    ((x.val, x.tag), s)

/-- A store of a word into a core's L1 as owned (R155). Where late is set it is registered with its home only when the store
is acknowledged, and agents of other cores do not see it before that (R371, R375). -/
def l1Write (s : State) (core pa : Nat) (late : Bool) (c : Cell) : State :=
  let x := l1Get s.mem core pa
  let s := l1Room s core pa
  let s := updMem s fun m => l1Set m core pa
    { valid := true, owned := true, unreg := !(x.owned && !x.unreg), val := c.1, tag := c.2 }
  if late then s else registerWord s core pa

/-- The word a sub-word store merges with: the core's own owned copy, else the home's (R91, R164). -/
def mergeBase (s : State) (core pa : Nat) : Cell × State :=
  let x := l1Get s.mem core pa
  if x.owned then ((x.val, x.tag), s) else homeRead (registerWord s core pa) pa

/-- An acquire at CLU scope or wider drops every non-owned word of the core's L1 (R375). -/
def acquireL1 (s : State) (core : Nat) : State :=
  updMem s fun m => { m with l1 := m.l1.filter fun e => !(e.1 / 2 ^ 48 = core && !e.2.owned) }

/-- The copies of a line that a core's L1 holds are dropped (R136). -/
def dropLine (s : State) (core line : Nat) : State :=
  updMem s fun m => { m with l1 := m.l1.filter fun e => !(e.1 / 2 ^ 48 = core && e.1 % 2 ^ 48 / 16 = line && !e.2.owned) }

/-- The lines of a core's L1 that hold a word. -/
def l1Lines (m : Mem) (core : Nat) : List Nat :=
  ((m.l1.filter fun e => e.1 / 2 ^ 48 = core).map fun e => e.1 % 2 ^ 48 / 16).dedup

/-- The lines of a core's L1 that a test selects: owned words written back where clean is set, non-owned ones dropped where
inval is set (R168). -/
def cleanL1 (s : State) (core : Nat) (sel : Nat → Bool) (inval clean : Bool) : State :=
  ((l1Lines s.mem core).filter sel).foldl (fun s line =>
    let s := if clean then writeBack s core line else s
    if inval then dropLine s core line else s) s

/-! ## Staging (R118 to R120) -/

/-- Whether an address lies in a node's declared outputs. -/
def inOuts (l : Launch) (va : Nat) : Bool := l.outs.any fun o => o.1 ≤ va && va < o.1 + o.2

/-- A launch's staged copy of a line. -/
def stagedLine (m : Mem) (launch line : Nat) : Option Staged :=
  m.staged.find? fun g => g.launch = launch && g.line = line

/-- Whether the pool of a stack has room for n further lines (R120). A staged line of an LPDDR-6 page lies in a pool of
STAGE MiB of its own, counted as stack 16 (DESIGN CHOICE, log entry 17: the spec gives pools to the base dies alone). -/
def poolRoom (s : State) (stack n : Nat) : Bool :=
  (s.mem.staged.filter fun g => stackOf (g.line * 64) = stack).length + n ≤ s.dev.stage * 16384

/-- The first stack whose pool has no room for the new lines that a write stages there (R120). -/
def poolFull (s : State) (lines : List Nat) : Option Nat :=
  (upTo 17).find? fun st =>
    let n := (lines.filter fun l => stackOf (l * 64) = st).length
    n ≠ 0 && !poolRoom s st n

/-- The line copied into the pool on its first staged write (R118). -/
def stageLine (s : State) (launch line : Nat) : State :=
  match stagedLine s.mem launch line with
  | some _ => s
  | none =>
    let (ws, s) := (upTo 16).foldl (fun (acc : List Cell × State) w =>
      let (c, s) := homeRead acc.2 (line * 64 + 4 * w)
      (acc.1 ++ [c], s)) ([], s)
    updMem s fun m => { m with staged := m.staged ++ [⟨launch, line, ws⟩] }

/-- A word of a staged line. -/
def stagedWord (s : State) (launch pa : Nat) : Option Cell :=
  (stagedLine s.mem launch (pa / 64)).map fun g => g.words.getD (pa / 4 % 16) (0#32, 0#16)

/-- A word of a staged line written; monitors of the node's own groups are evaluated on it (R421). -/
def stagedWrite (s : State) (launch pa : Nat) (c : Cell) : State :=
  let s := stageLine s launch (pa / 64)
  let put := fun (g : Staged) => { g with words := g.words.set (pa / 4 % 16) c }
  let s := updMem s fun m =>
    { m with staged := updBy (fun g => g.launch = launch && g.line = pa / 64) put m.staged }
  let own := fun (q : Monitor) =>
    q.pa = pa / 4 * 4 && condHolds q.cond q.isSigned c.1 q.value &&
      (match q.waiter with
       | .split tid _ _ => (match findTeam s tid with | some t => t.launch = launch | none => false)
       | .ring _ => false)
  let hit := s.mem.monitors.filter own
  let s := updMem s fun m => { m with monitors := m.monitors.filter fun q => !own q }
  hit.foldl (fun s m => wake s m.waiter) s

/-- The locks on words that a launch staged become locks on the words at their homes when these are published (R119, R120). A lock
that another agent held on such a word, which R118 calls a data race, gives way, and its waiters wait behind the launch's own
(DESIGN CHOICE, log entry 40). -/
def publishLocks (m : Mem) (launch : Nat) : Mem :=
  let mine := m.locks.filter fun q => q.stage = some launch
  let beaten := fun (q : Lock) => q.stage.isNone && mine.any fun r => r.pa = q.pa
  let join := fun (r : Lock) =>
    { r with stage := none, waiters := r.waiters ++ ((m.locks.filter fun q => beaten q && q.pa = r.pa).flatMap fun q => q.waiters) }
  { m with locks := (m.locks.filter fun q => q.stage ≠ some launch && !beaten q) ++ mine.map join }

/-- Every staged line of a launch published to its home, a line at a time (R119, R120), and the locks on its words with it. Copies
of it in any L1 that are not owned go, so that no agent of the launch reads an older word than it wrote. -/
def publish (s : State) (launch : Nat) : State :=
  let mine := s.mem.staged.filter fun g => g.launch = launch
  let s := mine.foldl (fun s g => dropCopies (homeWriteLine s g.line (g.words.zipIdx.map fun c => (c.2, c.1))) g.line) s
  updMem s fun m => publishLocks { m with staged := m.staged.filter fun g => g.launch ≠ launch } launch

/-- Every staged line of a launch discarded (R422). -/
def discardStaged (s : State) (launch : Nat) : State :=
  updMem s fun m => { m with staged := m.staged.filter fun g => g.launch ≠ launch }

/-- A node becomes non-replayable: its staged lines are published, the context counts it (R120, R421). -/
def unreplay (s : State) (launch : Nat) : State :=
  match findLaunch s launch with
  | none => s
  | some l =>
    if l.node && l.replayable then
      let s := publish s launch
      let s := updLaunch s launch fun l => { l with replayable := false }
      updCtx s l.ctx fun c => { c with nonReplay := c.nonReplay + 1 }
    else s

end Sys2Proof.Machine
end

