-- ==== Sys2Proof/Machine/Translate.lean ====
section
/-! DEFINITION. Virtual addresses (R108), page-table walks (R109 to R111), translation caches (R112), fault
records (R115, R117), and the checking of all lanes of an access before any lane performs (R116, R160). -/

namespace Sys2Proof.Machine

/-- Canonical form: bits 63 to 57 equal bit 56 (R108). -/
def canonical (va : DWord) : Bool := va.toNat / 2 ^ 56 = 0 || va.toNat / 2 ^ 56 = 255

/-- The word a read at the home answers, without moving an owned copy (R374). -/
def peekCell (m : Mem) (pa : Nat) : Cell :=
  match ownersOf m pa with
  | c :: _ => let w := l1Get m c pa; (w.val, w.tag)
  | [] => homeCell m pa

/-- A 64-bit table entry read at its home (R109). -/
def readPte (m : Mem) (pa : Nat) : Nat := (peekCell m pa).1.toNat + 2 ^ 32 * (peekCell m (pa + 4)).1.toNat

/-- What a walk finds. -/
inductive WalkRes where
  | leaf (e : DWord) (level : Nat)
  | fail (cause : Cause) (level : Nat)
  deriving DecidableEq, Repr

def pageFault : Cause := 0x21#8
def pagePerm : Cause := 0x22#8
def pteFormat : Cause := 0x23#8
def paHole : Cause := 0x24#8
def addrMisalign : Cause := 0x25#8
def vaCanon : Cause := 0x20#8

def leafTier (e : Nat) : Nat := bits e 8 7
def leafFrame (e : Nat) : Nat := bits e 47 16 * 65536
def leafDev (e : Nat) : Nat := bits e 57 48
def leafBit (e k : Nat) : Bool := bits e k k = 1

/-- Whether a leaf at a level is well formed (R110, R111). -/
def leafOk (stage e level : Nat) : Bool :=
  bits e 63 58 = 0 && bits e 15 12 = 0 && bits e 6 5 = 0 &&
  (leafTier e = 3 || leafDev e = 0) &&
  (level ≠ 1 || bits e 29 16 = 0) && (level ≠ 2 || bits e 20 16 = 0) &&
  (leafTier e ≠ 0 || inHbm stage (leafFrame e)) && (leafTier e ≠ 1 || inLpddr (leafFrame e)) &&
  (!leafBit e 9 || leafTier e = 0)

/-- The size of the table a pointer at a level names (R108). -/
def tableSize (level : Nat) : Nat := if level = 2 then 256 else 4096

/-- Whether a pointer entry is well formed and its table lies wholly in the data regions (R109, R111). -/
def pointerOk (stage e level : Nat) : Bool :=
  let next := bits e 47 8 * 256
  let last := next + tableSize level - 1
  bits e 63 48 = 0 && bits e 7 5 = 0 && bits e 3 1 = 0 &&
  (level = 2 || next % 4096 = 0) &&
  ((inHbm stage next && inHbm stage last) || (inLpddr next && inLpddr last))

/-- The walk from a table at a level, over at most fuel levels (R108 to R111). -/
def walkFrom (m : Mem) (stage : Nat) (va : Nat) : Nat → Nat → Nat → WalkRes
  | 0, _, level => .fail pteFormat level
  | fuel + 1, table, level =>
    let ix :=
      if level = 0 then bits va 56 39 else if level = 1 then bits va 38 30
      else if level = 2 then bits va 29 21 else bits va 20 16
    let e := readPte m (table + 8 * ix)
    if e % 2 = 0 then .fail pageFault level
    else if leafBit e 4 then
      if level ≠ 0 && leafOk stage e level then .leaf (BitVec.ofNat 64 e) level else .fail pteFormat level
    else if level = 3 then .fail pteFormat level
    else if pointerOk stage e level then walkFrom m stage va fuel (bits e 47 8 * 256) (level + 1)
    else .fail pteFormat level

/-- The physical addresses of the entries that the walk reads (R109). -/
def walkPtes (m : Mem) (stage : Nat) (va : Nat) : Nat → Nat → Nat → List Nat
  | 0, _, _ => []
  | fuel + 1, table, level =>
    let ix :=
      if level = 0 then bits va 56 39 else if level = 1 then bits va 38 30
      else if level = 2 then bits va 29 21 else bits va 20 16
    let a := table + 8 * ix
    let e := readPte m a
    if e % 2 = 1 && !leafBit e 4 && level ≠ 3 && pointerOk stage e level then
      a :: walkPtes m stage va fuel (bits e 47 8 * 256) (level + 1)
    else [a]

/-- The entries of a walk read at their homes: owned words are recalled, sectors become resident, and errors are found
(R44, R88, R109). -/
def touchWalk (s : State) (root va : DWord) : State :=
  (walkPtes s.mem s.dev.stage va.toNat 4 root.toNat 0).foldl (fun s a => (homeRead (homeRead s a).2 (a + 4)).2) s

/-- The walk of an address under a root table. -/
def walkVa (s : State) (root va : DWord) : WalkRes := walkFrom s.mem s.dev.stage va.toNat 4 root.toNat 0

/-- Where an access goes: physical address, tier, device, and the page's modes (R110). -/
structure Target where
  pa : Nat
  tier : Nat
  dev : Nat
  memside : Bool
  staged : Bool
  hostShared : Bool
  deriving DecidableEq, Repr

/-- The target of an address under a leaf (R108, R110). -/
def targetOf (e level va : Nat) : Target :=
  let off := if level = 1 then va % 2 ^ 30 else if level = 2 then va % 2 ^ 21 else va % 2 ^ 16
  ⟨leafFrame e + off, leafTier e, leafDev e, leafBit e 9, leafBit e 10, leafBit e 11⟩

/-- Whether a leaf allows an access: 1 read, 2 write, 3 fetch (R110); kind 0 asks for no permission. -/
def leafAllows (e kind : Nat) : Bool :=
  kind = 0 || if kind = 1 then leafBit e 1 else if kind = 2 then leafBit e 2 else leafBit e 3

/-- What a translation answers. -/
inductive TrRes where
  | ok (t : Target)
  | miss
  | fault (cause : Cause) (level : Nat)
  | ats (page : Nat)
  | bad (cause : Cause)
  deriving DecidableEq, Repr

/-- A target reached: outside every region of R85 it is a hole; a host page needs its entry in the ATS cache of the requester's
die (R114); a remote device needs a route (R288). -/
def reach (s : State) (die : Nat) (t : Target) : TrRes :=
  if t.tier = 2 then (if s.mem.ats.contains (die, t.pa / 65536) then .ok t else .ats (t.pa / 65536))
  else if t.tier = 3 && t.dev ≠ s.dev.devNum then
    (if mapGet [] s.dev.routes t.dev = [] then .bad 0xA7#8 else .ok t)
  else if inRegion s t.pa then .ok t
  else .bad paHole

/-- The die of a core (log entry 5). -/
def dieOf (core : Nat) : Nat := core / 48
/-- The quad of a core: a 2 × 2 block of its die's 8 × 6 mesh (R1, log entry 5). -/
def quadOf (core : Nat) : Nat := core / 48 * 12 + core % 48 / 8 / 2 * 4 + core % 48 % 8 / 2

/-- Translation by the caches of a core and its die (R112). -/
def translate (s : State) (core ctx : Nat) (va : DWord) (kind : Nat) : TrRes :=
  let page := va.toNat / 65536
  match s.mem.tlb.find? fun t => t.ctx = ctx && t.page = page &&
      (t.core = some core || (t.core = none && t.die = dieOf core)) with
  | none => .miss
  | some t =>
    if leafAllows t.leaf.toNat kind then reach s (dieOf core) (targetOf t.leaf.toNat t.level va.toNat)
    else .fault pagePerm t.level

/-- Translation by the shared cache of a die, for its engines and sequencers (R112). -/
def translateDie (s : State) (die ctx : Nat) (va : DWord) (kind : Nat) : TrRes :=
  if !canonical va then .bad vaCanon
  else
    match s.mem.tlb.find? fun t => t.ctx = ctx && t.page = va.toNat / 65536 && t.core = none && t.die = die with
    | none => .miss
    | some t =>
      if leafAllows t.leaf.toNat kind then reach s die (targetOf t.leaf.toNat t.level va.toNat) else .fault pagePerm t.level

/-- Translation by a walk on the spot, for the device's own accesses (R464; DESIGN CHOICE, log entry 18). -/
def translateNow (s : State) (die ctx : Nat) (va : DWord) (kind : Nat) : TrRes :=
  if !canonical va then .bad vaCanon
  else
    match findCtx s ctx with
    | none => .fault pageFault 0
    | some c =>
      match walkVa s c.root va with
      | .fail cause level => .fault cause level
      | .leaf e level =>
        if leafAllows e.toNat kind then reach s die (targetOf e.toNat level va.toNat) else .fault pagePerm level

/-- The outstanding misses of a die: one for each context and page (R112). -/
def missesOf (m : Mem) (die : Nat) : List (Nat × Nat) :=
  ((m.walks.filter fun w => dieOf w.core = die).map fun w => (w.ctx, w.page)).dedup

/-- Whether a miss of a context and page finds a slot of its die: its own walk, or one of the 2,048 (R112). -/
def missSlot (m : Mem) (die ctx page : Nat) : Bool :=
  (missesOf m die).contains (ctx, page) || (missesOf m die).length < 2048

/-- Whether all the misses of an access, by page, find slots of its die together (R112). -/
def missRoom (m : Mem) (die ctx : Nat) (pages : List Nat) : Bool :=
  let news := pages.dedup.filter fun p => !(missesOf m die).contains (ctx, p)
  news = [] || (missesOf m die).length + news.length ≤ 2048

/-- A walk asked for (R112): walks of one context and page are one. -/
def addWalk (s : State) (ctx core : Nat) (va : DWord) (kind : Nat) (who : Requester) (lanes : DWord) : State :=
  let page := va.toNat / 65536
  if s.mem.walks.any fun w => w.ctx = ctx && w.page = page && w.who = who then s
  else
    let (id, s) := takeId s
    updMem s fun m => { m with walks := m.walks ++ [⟨id, ctx, page, va, kind, who, lanes, core⟩] }

/-- The KIND of a fault record (R117). -/
def recKind (cause : Cause) (kind : Nat) : Nat :=
  if kind = 5 then 5 else if cause = pageFault then 0 else if cause = pteFormat then 4 else kind

/-- REQ of a requester (R117). -/
def reqCode : Requester → Nat
  | .split .. => 0
  | .stream _ => 1
  | .engine .. => 2
  | .coll _ => 3
  | .ring _ | .launch _ | .device _ => 4

/-- A fault record written in the die's ring, or an identical pending one of that ring joined (R115). Answers the record's
identifier. -/
def addFault (s : State) (ctx core : Nat) (va : DWord) (kind level unit : Nat) (cause : Cause) (who : Requester)
    (lanes : DWord) : Nat × State :=
  match s.mem.faults.find? fun f => f.die = dieOf core && f.ctx = ctx && f.va.toNat / 65536 = va.toNat / 65536 &&
      f.cause = cause && f.kind = recKind cause kind with
  | some f =>
    (f.id, updMem s fun m =>
      { m with faults := updBy (fun q => q.id = f.id)
                (fun q => { q with asks := if q.asks.any fun a => a.who = who then q.asks else q.asks ++ [⟨who, lanes, va⟩] })
                m.faults })
  | none =>
    let die := dieOf core
    let (id, s) := takeId s
    let seq := mapGet 0 s.mem.faultSeq die
    (id, updMem s fun m =>
      { m with faultSeq := mapSet 0 m.faultSeq die (seq + 1)
               faults := m.faults ++
                 [⟨id, die, seq, ctx, va, recKind cause kind, level, lanes, unit, reqCode who, cause, [⟨who, lanes, va⟩]⟩] })

/-- A host translation asked for on a die (R114): the device sends one request for a page, and a requester that comes later
waits with the others at the stage, ATS or PRI, that the page's request has reached. -/
def addAts (s : State) (ctx core : Nat) (va : DWord) (page : Nat) (who : Requester) (lanes : DWord) : State :=
  let same := fun (q : AtsReq) => q.page = page && dieOf q.core = dieOf core
  if s.mem.atsReqs.any fun q => same q && q.who = who then s
  else
    match s.mem.atsReqs.find? same with
    | some q => updMem s fun m => { m with atsReqs := m.atsReqs ++ [⟨page, q.pri, who, ctx, core, va, lanes⟩] }
    | none => updMem (sendMsg s (.ats page false)) fun m =>
        { m with atsReqs := m.atsReqs ++ [⟨page, false, who, ctx, core, va, lanes⟩] }

/-- What the checking of all lanes of an access answers. -/
inductive Plan where
  | go (ts : List (Nat × Target))
  | trap (cause : Cause) (lanes : List (Nat × DWord))
  | wait (s : State)
  | stall
  deriving DecidableEq, Repr

/-- The lanes whose translation answers a precise cause. -/
def badLanes (c : Cause) (rs : List (Nat × DWord × TrRes)) : List (Nat × DWord) :=
  (rs.filter fun r => r.2.2 = .bad c).map fun r => (r.1, r.2.1)

/-- All lanes of an access checked in the order of R160: canonical form, alignment, translation. A miss or a
translation fault parks the split (R112, R115), a miss without a free slot stalls it; a hole or a missing route is precise. whole, where given, is the
mask that a scalar access stands for. -/
def planAccess (s : State) (e : Ex) (kind size : Nat) (whole : Option DWord) (accs : List (Nat × DWord)) : Plan :=
  let nc := accs.filter fun a => !canonical a.2
  let ma := accs.filter fun a => a.2.toNat % size ≠ 0
  if nc ≠ [] then .trap vaCanon nc
  else if ma ≠ [] then .trap addrMisalign ma
  else
    let ctx := e.lch.ctx
    let core := e.tm.core
    let rs := accs.map fun a => (a.1, a.2, translate s core ctx a.2 kind)
    let who := Requester.split e.x.tid e.x.gi e.x.rank
    let misses := rs.filter fun r => r.2.2 = .miss
    let faults := rs.filter fun r => match r.2.2 with | .fault .. => true | _ => false
    let atss := rs.filter fun r => match r.2.2 with | .ats _ => true | _ => false
    let lanesAt := fun (va : DWord) => whole.getD <| maskOf ((rs.filter fun r => r.2.1.toNat / 65536 = va.toNat / 65536).map fun r => r.1)
    if !missRoom s.mem (dieOf core) ctx (misses.map fun r => r.2.1.toNat / 65536) then .stall
    else if misses ≠ [] || faults ≠ [] then
      let s := misses.foldl (fun s r => addWalk s ctx core r.2.1 kind who (lanesAt r.2.1)) s
      let s := faults.foldl (fun s r =>
        match r.2.2 with
        | .fault c l => (addFault s ctx core r.2.1 kind l core c who (lanesAt r.2.1)).2
        | _ => s) s
      .wait (setSplit s e (parkAs (if faults = [] then .walk else .fault) 0))
    else if atss ≠ [] then
      let s := atss.foldl (fun s r => match r.2.2 with | .ats p => addAts s ctx core r.2.1 p who (lanesAt r.2.1) | _ => s) s
      .wait (setSplit s e (parkAs .ats 0))
    else if badLanes paHole rs ≠ [] then .trap paHole (badLanes paHole rs)
    else if badLanes 0xA7#8 rs ≠ [] then .trap 0xA7#8 (badLanes 0xA7#8 rs)
    else .go (rs.filterMap fun r => match r.2.2 with | .ok t => some (r.1, t) | _ => none)

/-! ## The device's own accesses for a context (R464) -/

/-- How a device access ends. -/
inductive DevRes (α : Type) where
  | ok (a : α)
  | wait (f : DevFail)
  | dead (cause : Cause)
  deriving DecidableEq, Repr

/-- The core whose die's ATS cache and fault ring serve the device's own accesses (R464; DESIGN CHOICE, log entry 18). -/
def deviceCore : Nat := 0

/-- A device access that meets a translation fault waits: Keeper gets a fault record with REQ 4, or the host is asked
(R464). -/
def deviceWaitFor (s : State) (core : Nat) (f : DevFail) (who : Requester) : State :=
  if f.kind = 5 then
    match translateNow s (dieOf deviceCore) f.ctx f.va 1, translateNow s (dieOf deviceCore) f.ctx f.va 2 with
    | .ats p, _ => addAts s f.ctx deviceCore f.va p who 0#64
    | _, .ats p => addAts s f.ctx deviceCore f.va p who 0#64
    | _, _ => s
  else (addFault s f.ctx core f.va f.kind f.level core f.cause who 0#64).2

/-- The same for a capture, a trace packet, a save or a dump. -/
def deviceWait (s : State) (core : Nat) (f : DevFail) : State := deviceWaitFor s core f (.device f.ctx)

/-- Where a device access for a context goes (R464). -/
def devTarget (s : State) (ctx : Nat) (va : DWord) (kind : Nat) : DevRes Target :=
  match translateNow s (dieOf deviceCore) ctx va kind with
  | .ok t => .ok t
  | .fault c l => .wait ⟨ctx, va, kind, l, c⟩
  | .ats _ => .wait ⟨ctx, va, 5, 3, pageFault⟩
  | .miss => .dead pageFault
  | .bad c => .dead c

/-- The words that n words from an address upward go to. -/
def devTargets (s : State) (ctx : Nat) (va : DWord) (kind : Nat) : Nat → DevRes (List Target)
  | 0 => .ok []
  | n + 1 =>
    match devTarget s ctx va kind with
    | .ok t =>
      (match devTargets s ctx (va + 4#64) kind n with
       | .ok ts => .ok (t :: ts)
       | .wait f => .wait f
       | .dead c => .dead c)
    | .wait f => .wait f
    | .dead c => .dead c

/-- Whether a target is on another device (R287). -/
def isRemote (s : State) (t : Target) : Bool := t.tier = 3 && t.dev ≠ s.dev.devNum

/-- The word at a target as the device reads it at SYS scope, at the word's home; a HOSTSHARED page reads HOST (R43). -/
def devCellAt (s : State) (t : Target) : Cell :=
  let c : Cell :=
    if t.tier = 2 then (BitVec.ofNat 32 (readNum s.mem.hostMem (t.pa / 4 * 4) 4), hostTag)
    else if isRemote s t then
      (let v := Config.remoteWord s.fresh (t.pa / 4)
       (v.extractLsb' 0 32, v.extractLsb' 32 16))
    else peekCell s.mem t.pa
  if t.hostShared then (c.1, hostTag) else c

/-- The word of a virtual address as the device reads it for a context. -/
def devReadCell (s : State) (ctx : Nat) (va : DWord) : DevRes Cell :=
  match devTarget s ctx va 1 with
  | .ok t => .ok (devCellAt s t)
  | .wait f => .wait f
  | .dead c => .dead c

/-- Words read from a 4-byte-aligned virtual address upward. -/
def devRead (s : State) (ctx : Nat) (va : DWord) (n : Nat) : DevRes (List Cell) :=
  match devTargets s ctx va 1 n with
  | .ok ts => .ok (ts.map (devCellAt s))
  | .wait f => .wait f
  | .dead c => .dead c

/-- n bytes as the device reads them for a context, from a virtual address upward. -/
def devReadCells (s : State) (ctx : Nat) (va : DWord) (n : Nat) : DevRes (List Cell) :=
  let off := va.toNat % 4
  devRead s ctx (va - BitVec.ofNat 64 off) ((off + n + 3) / 4)

/-- What a device access does at the homes it passes (R44, R88, R109): the walks read their entries, and the words read become
resident. -/
def devTouch (s : State) (ctx : Nat) (va : DWord) (kind n : Nat) : State :=
  match findCtx s ctx with
  | none => s
  | some c =>
    match devTargets s ctx va kind n with
    | .ok ts =>
      let pages := ((upTo n).map fun k => (va + BitVec.ofNat 64 (4 * k)).toNat / 65536).dedup
      let s1 := pages.foldl (fun s p => touchWalk s c.root (BitVec.ofNat 64 (p * 65536))) s
      if kind = 1 then
        ts.foldl (fun s t => if t.tier = 2 || isRemote s t then s else (homeRead s t.pa).2) s1
      else s1
    | _ => s

/-- The bytes of a list of cells, little-endian. -/
def cellBytes (cs : List Cell) : List Byte := cs.flatMap fun c => bytesOf 4 c.1.toNat

/-- The words of a list of bytes. -/
def wordsOf (bs : List Byte) : List Word := (chunksOf 4 bs.length bs).map fun b => BitVec.ofNat 32 (numOf b)

/-- Words that the device writes at targets, tagged UNMARKED (R33, R353, R464): those of this device a line at a time at their
homes, those of the host at once, those of another device as messages whose acknowledgements are awaited (R287). -/
def putTargets (s : State) (ctx : Nat) (ws : List (Target × Word)) : State :=
  let s := ws.foldl (fun s w =>
    if w.1.tier = 2 then
      updMem s fun m => { m with hostMem := writeBytes m.hostMem (w.1.pa / 4 * 4) (bytesOf 4 w.2.toNat) }
    else if isRemote s w.1 then postWrite s ctx (.device ctx) 0 w.1.dev 1 w.1.pa [(w.2, unmarked)]
    else s) s
  homeWriteMany s ((ws.filter fun w => w.1.tier ≠ 2 && !isRemote s w.1).map fun w => (w.1.pa / 4 * 4, (w.2, unmarked)))

/-- Words the device writes for a context from an address upward. -/
def devWrite (s : State) (ctx : Nat) (va : DWord) (ws : List Word) : DevRes State :=
  match devTargets s ctx va 2 ws.length with
  | .ok ts => .ok (putTargets (devTouch s ctx va 2 ws.length) ctx (ts.zip ws))
  | .wait f => .wait f
  | .dead c => .dead c

/-- A word of a record that keeps its value and, where it has one, takes the tag UNMARKED (R353, R443). -/
def devKeepWord (s : State) (ctx : Nat) (va : DWord) : DevRes State :=
  match devTarget s ctx va 2 with
  | .ok t =>
    if t.tier = 2 || isRemote s t then .ok s
    else .ok (homeWrite s t.pa ((peekCell s.mem t.pa).1, unmarked))
  | .wait f => .wait f
  | .dead c => .dead c

end Sys2Proof.Machine
end

