-- ==== Sys2Proof/Machine/Ops.lean ====
section
/-! DEFINITION. The named operations the meanings share: site tags and Produce (R31, R37, R38), capture records
(R33 to R36), trace packets (R434 to R438), context faults (R410), taking a trap (R399 to R401) and returning from
one (R403). -/

namespace Sys2Proof.Machine

/-! ## Tags -/

/-- The site tag of a word at pc in a launch's code object, for a grid-linear group ordinal (R30, R31). -/
def siteTag (l : Launch) (pc : DWord) (ordinal : Nat) : Tag :=
  BitVec.ofNat 16 ((pc - l.code).toNat / 4 % 2048 * 16 + ordinal % 16)

/-- The own site tag of a split's present word (R31). -/
def own (e : Ex) : Tag := siteTag e.lch e.x.pc (groupOrdinal e.lch e.tm e.g.gi)

/-- The effective tag rule (R37): MOD TRULE, else the group's rule register, else 0 for the class default. -/
def ruleOf (e : Ex) : Nat :=
  let m := bits e.x.mod.toNat 9 7
  if m ≠ 0 then m else (e.g.ruleOld.getD e.g.rule).toNat

/-- The class defaults of R39. -/
inductive TagClass where
  | produce | carryA
  deriving DecidableEq, Repr

/-- What a tag rule gives: a tag, or a capture to be made. -/
inductive TagRes where
  | tag (t : Tag)
  | birth
  deriving DecidableEq, Repr

/-- Produce (R38): the first POISON, else the first capture or special tag, else a birth, else the own tag. -/
def produce (srcs : List Tag) (own : Tag) (born : Bool) : TagRes :=
  if srcs.contains poison then .tag poison
  else
    match srcs.find? fun t => t.getLsbD 15 with
    | some t => .tag t
    | none => if born then .birth else .tag own

/-- Produce without a birth. -/
def produceTag (srcs : List Tag) (own : Tag) : Tag :=
  match produce srcs own false with
  | .tag t => t
  | .birth => own

/-- The tag an effective rule gives (R37, R38): srcs are the sources in a, b, c order, ta and tb the tags of
operands a and b (UNMARKED where there is none), old the destination's tag. POISON in a source gives POISON under
every rule. -/
def applyRule (rule : Nat) (cls : TagClass) (own : Tag) (srcs : List Tag) (ta tb old : Tag) (born : Bool) : TagRes :=
  if srcs.contains poison then .tag poison
  else
    match rule with
    | 1 => produce srcs own born
    | 2 => .tag ta
    | 3 => .tag tb
    | 4 => .tag old
    | 5 => .tag own
    | _ =>
      match cls with
      | .produce => produce srcs own born
      | .carryA => .tag ta

/-- The tag a rule gives where no birth can arise. -/
def ruleTag (rule : Nat) (cls : TagClass) (own : Tag) (srcs : List Tag) (ta tb old : Tag) : Tag :=
  match applyRule rule cls own srcs ta tb old false with
  | .tag t => t
  | .birth => own

/-! ## Device writes from within an instruction -/

/-- A context fault raised (R410): the first stands, later ones become secondary headers (R412). -/
def raiseCtx (s : State) (ctx : Nat) (f : CtxFault) : State :=
  updCtx s ctx fun c =>
    match c.fault with
    | none => { c with fault := some f }
    | some _ => { c with secondary := c.secondary ++ [f] }

/-- The team whose word is being executed. -/
def curTeam (s : State) : Option Nat :=
  match s.cur with
  | .split tid _ _ => some tid
  | .stream tid => some tid
  | .nobody => none

/-- The fault of a device access that cannot be made: its address, and the team for which it was made (R401, R411, R464). -/
def accessFault (s : State) (tid : Option Nat) (c : Cause) (va : DWord) : CtxFault :=
  let t := tid.bind (findTeam s)
  { cause := c, trap := { cause := c, info0 := loWord va, info1 := hiWord va }
    launch := (t.map fun t => t.launch).getD 0, team := t.map fun t => t.ordinal }

/-- A device write of a context from within a step: it lands, waits for Keeper, or is a context fault (R464). -/
def ctxWrite (s : State) (ctx : Nat) (va : DWord) (ws : List Word) : State :=
  match devWrite s ctx va ws with
  | .ok s => s
  | .wait f => { s with devFail := some f }
  | .dead c => raiseCtx s ctx (accessFault s (curTeam s) c va)

/-! ## Capture records (R33 to R36) -/

/-- The fields of a capture record that its maker supplies (R34). -/
structure CapRec where
  cause : Nat
  lane : Nat := 0xFF
  share : Nat := 1
  split : Nat := 0xFF
  group : Nat := 0
  team : Nat := 0
  launch : Nat := 0
  code : DWord := 0#64
  pc : DWord := 0#64
  site : Tag := 0#16
  result : Word := 0#32
  opa : Word := 0#32
  opb : Word := 0#32
  opc : Word := 0#32
  taga : Tag := 0#16
  tagb : Tag := 0#16
  tagc : Tag := 0#16
  flags : Nat := 0
  w0 : Word := 0#32
  w1 : Word := 0#32
  deriving DecidableEq, Repr

/-- The sixteen words of a capture record (R34), with the identifier of the code object. -/
def capWords (obj : Word) (r : CapRec) (seq : Nat) (wrapped : Bool) : List Word :=
  [BitVec.ofNat 32 seq, BitVec.ofNat 32 (seq / 2 ^ 32), loWord r.pc, hiWord r.pc, obj,
   BitVec.ofNat 32 r.launch,
   BitVec.ofNat 32 (r.team % 65536 + r.group % 256 * 2 ^ 16 + r.split % 256 * 2 ^ 24),
   BitVec.ofNat 32 (r.cause + r.lane % 256 * 2 ^ 8 +
     (r.flags + (if wrapped then 32 else 0) + r.share % 256 * 2 ^ 8) % 65536 * 2 ^ 16),
   r.opa, r.opb, r.opc,
   BitVec.ofNat 32 (r.taga.toNat + r.tagb.toNat * 65536), BitVec.ofNat 32 (r.tagc.toNat + r.site.toNat * 65536),
   r.result, r.w0, r.w1]

/-- The identifier of a launch's code object (R34; log entry 6). -/
def codeObjOf (s : State) (launch : Nat) : Word := ((findLaunch s launch).map fun l => l.codeObj).getD 0#32

/-- Whether a context has a capture ring (R33). -/
def hasRing (s : State) (ctx : Nat) : Bool :=
  match findCtx s ctx with
  | some c => c.capring ≠ 0#64
  | none => false

/-- A record written into the context's ring (R33): its tag, LOST when a ring in STOP mode is full. -/
def capture (s : State) (ctx : Nat) (r : CapRec) : Tag × State :=
  match findCtx s ctx with
  | none => (lostTag, s)
  | some c =>
    if !c.wrap && c.capseq ≥ 32512 then
      (lostTag, updCtx s ctx fun c => { c with lostcap := min 0xFFFFFFFF (c.lostcap + 1) })
    else
      let idx := c.capseq % 32512
      let s1 := ctxWrite s ctx (c.capring + BitVec.ofNat 64 (64 * idx)) (capWords (codeObjOf s r.launch) r c.capseq (c.capseq ≥ 32512))
      let s2 := updCtx s1 ctx fun c => { c with capseq := c.capseq + 1 }
      (BitVec.ofNat 16 (0x8000 + idx), { s2 with fx := s2.fx ++ [.cap r.lane r.cause] })

/-- Whether a launch's capture mask enables a cause (R35). -/
def causeOn (l : Launch) (k : Nat) : Bool := l.hdr.capture.getLsbD k

/-! ## Trace (R434 to R438) -/

/-- A packet written into a context's trace ring; WCOUNT is incremented only once it is there (R434, R435). -/
def putPacket (s : State) (ctx type : Nat) (split group team : Nat) (payload : List Byte) : State :=
  match findCtx s ctx with
  | none => s
  | some c =>
    if c.trace = 0#64 then s
    else
      match devRead s ctx c.trace 6 with
      | .wait f => { s with devFail := some f }
      | .dead d => raiseCtx s ctx (accessFault s (curTeam s) d c.trace)
      | .ok cs =>
        let s := devTouch s ctx c.trace 1 6
        let w := fun k => (cs.getD k (0#32, 0#16)).1.toNat
        let wrap := w 0 % 2 = 1
        let size := bits (w 1) 7 0
        let mask := bits (w 1) 31 16
        let wcount := w 2 + 2 ^ 32 * w 3
        let dropped := w 4 + 2 ^ 32 * w 5
        if !(BitVec.ofNat 16 mask).getLsbD type then s
        else if !wrap && wcount ≥ 2 ^ size then
          let d := min (2 ^ 64 - 1) (dropped + 1)
          ctxWrite s ctx (c.trace + 16#64) [BitVec.ofNat 32 d, BitVec.ofNat 32 (d / 2 ^ 32)]
        else
          let head := type * 2 ^ 28 + split % 64 * 2 ^ 22 + group % 32 * 2 ^ 17 + team % 65536
          let words := BitVec.ofNat 32 head :: wordsOf ((payload ++ List.replicate 28 0#8).take 28)
          let at_ := c.trace + BitVec.ofNat 64 (64 + 32 * (wcount % 2 ^ size))
          match devWrite s ctx at_ words with
          | .ok s => ctxWrite s ctx (c.trace + 8#64) [BitVec.ofNat 32 (wcount + 1), BitVec.ofNat 32 ((wcount + 1) / 2 ^ 32)]
          | .wait f => { s with devFail := some f }
          | .dead d => raiseCtx s ctx (accessFault s (curTeam s) d at_)

/-- A BRANCH packet of a split's waiting branch bits (R437). -/
def flushBranch (s : State) (e : Ex) : State :=
  match findSplit s e.x.tid e.x.gi e.x.rank with
  | none => s
  | some x =>
    if x.brBits = [] then s
    else
      let m := ((x.brBits.zipIdx).filter fun b => b.1).foldl (fun n b => n + 2 ^ b.2) 0
      let s := putPacket s e.lch.ctx 1 x.id.toNat x.gi e.tm.ordinal
        (List.replicate 0 0#8 ++ bytesOf 8 m ++ bytesOf 1 x.brBits.length)
      let s := updGroup s x.tid x.gi fun g => { g with packets := g.packets + 1 }
      updSplit s x.tid x.gi x.rank fun y => { y with brBits := [] }

/-- A packet of a group's split, after that split's branch bits (R437); the group's packets are counted for its
periodic SYNC. -/
def trace (s : State) (e : Ex) (type : Nat) (payload : List Byte) : State :=
  match findCtx s e.lch.ctx with
  | none => s
  | some c =>
    if c.trace = 0#64 then s
    else
      let s := flushBranch s e
      let s := putPacket s e.lch.ctx type e.x.id.toNat e.x.gi e.tm.ordinal payload
      updGroup s e.x.tid e.x.gi fun g => { g with packets := g.packets + 1 }

/-- One conditional branch recorded for the trace (R437). -/
def branchBit (s : State) (e : Ex) (taken : Bool) : State :=
  match findCtx s e.lch.ctx with
  | none => s
  | some c => if c.trace = 0#64 then s else setSplit s e fun x => { x with brBits := x.brBits ++ [taken] }

/-- A MASK packet (R437): the new L and A, and the deferral entry pushed (1), popped (2) or swapped (3). -/
def maskPacket (s : State) (e : Ex) (op : Nat) (en : DefEntry) : State :=
  match findSplit s e.x.tid e.x.gi e.x.rank with
  | none => s
  | some x =>
    let desc := if op = 0 then 0 else
      op * 2 ^ 30 + (if en.arr then 2 ^ 29 else 0) + en.mark * 2 ^ 25 + (en.pc - e.lch.code).toNat / 4 % 2 ^ 25
    trace s e 4 (bytesOf 8 x.lset.toNat ++ bytesOf 8 x.amask.toNat ++
      bytesOf 8 (if op = 0 then 0 else en.lanes.toNat) ++ bytesOf 4 desc)

/-- The branch bits of every split of a group, written before the group's SYNC (R437). -/
def flushGroup (s : State) (tid gi : Nat) : State :=
  (sortBy (fun x : Split => x.id.toNat) (splitsOf s tid gi)).foldl (fun s x =>
    match exAt s tid gi x.rank with
    | some e => flushBranch s e
    | none => s) s

/-- A SYNC packet, after the branch bits of its group's splits (R437, R438): it takes the context's next GSEQ. -/
def syncPacket (s : State) (e : Ex) (reason wp : Nat) : State :=
  match findCtx s e.lch.ctx with
  | none => s
  | some c =>
    if c.trace = 0#64 then s
    else
      let s := trace (flushGroup s e.x.tid e.x.gi) e 7 (bytesOf 8 (Config.cycle e.tm.core s.clock).toNat ++ bytesOf 8 c.gseq ++
        bytesOf 4 (e.x.pc - e.lch.code).toNat ++ bytesOf 1 reason ++ bytesOf 1 wp ++ bytesOf 2 e.tm.core)
      let s := updCtx s e.lch.ctx fun c => { c with gseq := c.gseq + 1 }
      setGroup s e fun g => { g with packets := 0, syncDue := none }

/-! ## Taking a trap and returning from one -/

def trapNest : Cause := 0x67#8
def poisonEscape : Cause := 0xB1#8
def arithReport : Cause := 0x40#8

/-- The causes that never reach a split (R413, delivery K). -/
def isK (c : Cause) : Bool := [0x67#8, 0xA8#8, 0xB1#8, 0xB2#8, 0xB3#8, 0xB4#8].contains c

/-- Where a fault arose, as the dump record has it (R411). -/
def faultAt (e : Ex) (c c2 : Cause) (t : Trap) : CtxFault :=
  { cause := c, cause2 := c2, trap := t, launch := e.lch.id, team := some e.tm.ordinal, gi := some e.g.gi
    splitId := some e.x.id.toNat }

/-- A K cause: inside a replayable node it asks for a rollback, the first cause standing (R408, R422); anywhere
else it is a context fault (R410). -/
def takeK (s : State) (e : Ex) (t : Trap) : State :=
  match findLaunch s e.lch.id with
  | none => s
  | some l =>
    if l.node && l.replayable then
      updLaunch s l.id fun l => { l with rollback := some (l.rollback.getD t) }
    else raiseCtx s l.ctx (faultAt e t.cause 0#8 t)

/-- Entry into the handler (R400): HS takes the split's rank, mask, bracket, latch and %tpc; the trap registers
are filled; %tinfo0 of an ARITH_REPORT is formed here, before its clearing of the reported UNREP bits; the latch is emptied, A becomes L, the bracket
closes, and the split continues at CODE + TRAP. -/
def enterTrap (s : State) (e : Ex) (off : Nat) (t : Trap) : State :=
  match findSplit s e.x.tid e.x.gi e.x.rank with
  | none => s
  | some x =>
    let seen := fun (g : Group) => (lanesOf 64 t.mask).foldl (fun (n : Nat) i =>
      n.lor ((bits (lstatOf g i).toNat 15 8).land g.rmask.toNat)) 0
    let fill := fun (g : Group) =>
      { g with
        hs := some ⟨x.rank, x.amask, x.br, x.ba, x.imm, x.mod, x.hint, t.pc⟩
        tcause := BitVec.ofNat 32 t.cause.toNat
        tpc := t.pc, tmask := t.mask
        tinfo0 := if t.cause = arithReport then BitVec.ofNat 32 (seen g) else t.info0, tinfo1 := t.info1, tinfo2 := t.info2, tinfo3 := t.info3
        lstat :=
          if t.cause = arithReport then
            (lanesOf 64 t.mask).foldl (fun (m : List (Nat × Word)) (i : Nat) =>
              mapSet 0#32 m i (mapGet 0#32 m i &&& ~~~(BitVec.ofNat 32 (g.rmask.toNat * 256)))) g.lstat
          else g.lstat }
    let s := updGroup s x.tid x.gi fill
    let s := updSplit s x.tid x.gi x.rank fun x =>
      { x with imm := 0#32, mod := 0#32, hint := 0#32, amask := x.lset, br := false
               pc := e.lch.code + BitVec.ofNat 64 off, st := .ready, park := .none, parkKey := 0 }
    let s := trace s e 2 (bytesOf 8 t.pc.toNat ++ bytesOf 1 2 ++ bytesOf 1 t.cause.toNat)
    if x.amask = x.lset then s else maskPacket s e 0 {}

/-- A cause delivered to a split (R399): a context fault without a trap entry, TRAP_NEST inside the handler, held
while another split runs the handler, else entry at once. A cause that is found while the team stops for a save is held ahead of
the others (R409). -/
def deliverTrap (s : State) (e : Ex) (t : Trap) : State :=
  if isK t.cause then takeK s e t
  else
    match e.lch.hdr.trap, findGroup s e.x.tid e.x.gi with
    | none, _ => raiseCtx s e.lch.ctx { faultAt e t.cause 0#8 t with noEntry := true }
    | some _, none => s
    | some off, some g =>
      match g.hs with
      | none => enterTrap s e off t
      | some h =>
        if h.rank = e.x.rank then raiseCtx s e.lch.ctx (faultAt e trapNest t.cause t)
        else
          let s := setGroup s e fun g => { g with held := if e.tm.stopping then ⟨e.x.rank, t⟩ :: g.held else g.held ++ [⟨e.x.rank, t⟩] }
          setSplit s e (parkAs .trap 0)

/-- The oldest held trap of a group enters once no handler runs (R399, R403). -/
def enterHeld (s : State) (tid gi : Nat) : State :=
  match findGroup s tid gi with
  | none => s
  | some g =>
    match g.hs, g.held with
    | none, h :: hs =>
      let s := updGroup s tid gi fun g => { g with held := hs }
      (match exAt s tid gi h.rank with
       | some e => (match e.lch.hdr.trap with | some off => enterTrap s e off h.trap | none => s)
       | none => s)
    | _, _ => s

/-- The return from a handler (R403): A, the bracket and, where %tpc is what entry wrote, the latch come back;
the split continues at %tpc, and the oldest held trap enters. -/
def returnTrap (s : State) (e : Ex) (h : Handler) : State :=
  let same := e.g.tpc = h.entryPc
  let s := setSplit s e fun x =>
    { x with amask := h.amask &&& x.lset, br := h.br, ba := h.ba, pc := e.g.tpc
             imm := if same then h.imm else 0#32, mod := if same then h.mod else 0#32
             hint := if same then h.hint else 0#32 }
  let s := setGroup s e fun g => { g with hs := none }
  let s := trace s e 2 (bytesOf 8 e.g.tpc.toNat ++ bytesOf 1 3)
  let s := if e.x.amask = h.amask &&& e.x.lset then s else maskPacket s e 0 {}
  enterHeld s e.x.tid e.x.gi

end Sys2Proof.Machine
end

