-- ==== Sys2Proof/Machine/Operands.lean ====
section
/-! DEFINITION. The operand space (R54 to R58), prefix acceptance (R60 to R63, R67) and the one authority on
encoding faults in the order of R72, and the reading of source operands in every type of R55 and R56. -/

namespace Sys2Proof.Machine

def illOpcode : Cause := 0x01#8
def illStream : Cause := 0x02#8
def illPrefix : Cause := 0x03#8
def illOperand : Cause := 0x04#8
def illField : Cause := 0x05#8
def privCause : Cause := 0x06#8
def regBounds : Cause := 0x07#8

/-! ## Register codes (R54, R57, R58) -/

def isV (c : Nat) : Bool := c < 0xC0
def isS (c : Nat) : Bool := 0xC0 ≤ c && c < 0xF0
def isReg (c : Nat) : Bool := c < 0xF0
def evenV (c : Nat) : Bool := c < 0xC0 && c % 2 = 0
def evenS (c : Nat) : Bool := isS c && c % 2 = 0
/-- An even vector or scalar pair. -/
def evenReg (c : Nat) : Bool := c < 0xF0 && c % 2 = 0
/-- A 32-bit source of a floating-point or packed instruction. -/
def srcF (c : Nat) : Bool := c ≤ 0xF8
/-- A 32-bit integer source: 0xF3 has no integer pattern (R55). -/
def srcI (c : Nat) : Bool := c ≤ 0xF8 && c ≠ 0xF3
/-- A source of a scalar-class instruction (R176). -/
def srcS (c : Nat) : Bool := isS c || [0xF0, 0xF1, 0xF2, 0xF4, 0xF6, 0xF8].contains c
/-- A 64-bit floating-point source (R56, R190). -/
def srcF64 (c : Nat) : Bool := evenReg c || (0xF0 ≤ c && c ≤ 0xF8 && c ≠ 0xF7)
/-- A 64-bit integer source. -/
def srcI64 (c : Nat) : Bool := srcF64 c && c ≠ 0xF3

/-! ## What a word accepts -/

/-- How a word takes an IMM prefix (R60, R61): not at all; as the high half of imm16; as a memory offset; only
with imm24 = 0; or only when a source field holds 0xF8. -/
inductive ImmUse where
  | none | fw | fm | zero | src
  deriving DecidableEq, Repr

/-- What the checks of R72 need to know of a word: its IMM use, its source fields, the MOD bits it accepts,
whether MOD fields hold codes it allows, whether its operand codes and its other fields are legal, whether it is
privileged here, the registers it names with their counts, and further registers it may read, which it awaits (R68). -/
structure Shape where
  imm : ImmUse := .none
  srcs : List Nat := []
  mods : Nat := 0
  modOk : Bool := true
  opOk : Bool := true
  fieldOk : Bool := true
  priv : Bool := false
  regs : List (Nat × Nat) := []
  more : List (Nat × Nat) := []
  deriving DecidableEq, Repr

/-- MOD payload masks of R62 and R63. -/
def mSat : Nat := 0x800000
def mClamp : Nat := 0x400000
def mA : Nat := 0x280000
def mB : Nat := 0x140000
def mScale : Nat := 0x03E000
def mRnd : Nat := 0x001C00
def mTrule : Nat := 0x000380
def mGuard : Nat := 0x000078
def mScope : Nat := 0x000007

/-- The RND code of a MOD word. -/
def modRnd (m : Word) : Nat := bits m.toNat 12 10

/-- The registers a source field names. -/
def regsAt (c n : Nat) : List (Nat × Nat) := if c < 0xF0 then [(c, n)] else []

def shapeVI (d a b : Nat) : Shape :=
  { imm := .src, srcs := [a, b], mods := mTrule, opOk := isV d && srcI a && srcI b
    regs := (d, 1) :: regsAt a 1 ++ regsAt b 1 }
def shapeSI (d a b : Nat) : Shape :=
  { imm := .src, srcs := [a, b], mods := mTrule, opOk := isS d && srcS a && srcS b
    regs := (d, 1) :: regsAt a 1 ++ regsAt b 1 }
def shapeFp (mod : Word) (mods d : Nat) (dn : Nat) (ss : List (Nat × Bool)) (sn : Nat) : Shape :=
  { imm := .src, srcs := ss.map fun s => s.1, mods := mods, modOk := modRnd mod ≠ 6
    opOk := isV d && (dn = 1 || d % 2 = 0) && ss.all fun s => s.2
    regs := (d, dn) :: ss.flatMap fun s => regsAt s.1 sn }
def mFp : Nat := mSat + mClamp + mA + mB + mScale + mRnd + mTrule
def mFp1 : Nat := mSat + mClamp + mA + mScale + mRnd + mTrule
def mDot : Nat := mSat + mClamp + mScale + mTrule
def mXf : Nat := mSat + mClamp + mA + mTrule

/-- A compare's shape (R59). -/
def shapeCmp (isInt : Bool) (mods c m p a b n : Nat) (ok : Bool) : Shape :=
  { imm := .src, srcs := [a, b], mods := mods, opOk := p ≠ 0 && ok, fieldOk := m ≠ 3 && (!isInt || c < 6)
    regs := regsAt a n ++ regsAt b n }

/-- Registers a memory width moves (R52). -/
def widthRegs (w : Nat) : Nat := if w = 5 then 2 else if w = 6 then 4 else 1
/-- Bytes a memory width moves (R52). -/
def widthSize (w : Nat) : Nat :=
  match w with
  | 0 => 1 | 1 => 1 | 2 => 2 | 3 => 2 | 4 => 4 | 5 => 8 | _ => 16
/-- Store width codes (R52). -/
def storeWidth (w : Nat) : Bool := [0, 2, 4, 5, 6].contains w

/-- A load or store (R158): whether d may be a vector and a scalar, the address kind (2: global pair, 1: one
register), and the widths it takes. -/
def shapeMem (mods d a w : Nat) (dOk aOk wOk : Bool) (an : Nat) : Shape :=
  let n := if wOk then widthRegs w else 1
  { imm := .fm, mods := mods, opOk := dOk && aOk && d % n = 0, fieldOk := wOk
    regs := [(d, n), (a, an)] }

/-- An ATOM (R95). -/
def shapeAtom (isF isCas : Bool) (d a w b : Nat) : Shape :=
  let n := if w = 1 then 2 else 1
  let bOk :=
    if isCas then isReg b && b % (2 * n) = 0
    else if w = 1 then (if isF then srcF64 b else srcI64 b) else (if isF then srcF b else srcI b)
  { imm := .src, srcs := [b], mods := mTrule + mScope
    opOk := (d = 0xF0 || (isV d && d % n = 0)) && isReg (2 * a) && bOk
    regs := regsAt d n ++ [(2 * a, 2)] ++ regsAt b (if isCas then 2 * n else n) }

/-- A copy instruction (R131). How many registers its coordinates or indexes take is in its record: it awaits the most that a
record can name, five from c (R127, R132). -/
def shapeCopy (c r : Nat) : Shape :=
  { mods := mGuard, opOk := isReg c && r < 24, regs := [(0xC0 + 2 * r, 2), (c, 1)] }

/-- A type code of R185 with a 64-bit type. -/
def is64 (t : Nat) : Bool := t = 2 || t = 3 || t = 9
/-- A floating-point type code of R185. -/
def isFpType (t : Nat) : Bool := 8 ≤ t && t ≤ 0xB

def shapeCvti (mod : Word) (d a s t : Nat) : Shape :=
  let intInt := s < 8 && t < 8
  let banned := if intInt then mClamp + mScale + mRnd else if t < 8 then mClamp else 0
  { imm := .src, srcs := [a], mods := mFp1 - banned, modOk := modRnd mod ≠ 6
    opOk := isV d && (!is64 t || d % 2 = 0) &&
      (if is64 s then (if s = 9 then srcF64 a else srcI64 a) else if isFpType s then srcF a else srcI a)
    fieldOk := s < 12 && t < 12 && !(isFpType s && isFpType t)
    regs := (d, if is64 t then 2 else 1) :: regsAt a (if is64 s then 2 else 1) }

def shapeFcvt (mod : Word) (dbl : Bool) (d a s t : Nat) : Shape :=
  let narrow := fun (k : Nat) => k = 8 || k = 0xA || k = 0xB
  { imm := .src, srcs := [a], mods := mFp1, modOk := modRnd mod ≠ 6
    opOk := isV d && (t ≠ 9 || d % 2 = 0) && (if s = 9 then srcF64 a else srcF a)
    fieldOk := if dbl then (s = 9 && narrow t) || (t = 9 && narrow s) else narrow s && narrow t && s ≠ t
    regs := (d, if t = 9 then 2 else 1) :: regsAt a (if s = 9 then 2 else 1) }

def shapeUnpk (mod : Word) (d a f k : Nat) : Shape :=
  { imm := .src, srcs := [a], mods := mFp1, modOk := modRnd mod ≠ 6
    opOk := isV d && (if f = 5 then srcI a else srcF a)
    fieldOk := f < 6 && k < (if f < 2 then 2 else if f = 4 then 8 else 4)
    regs := (d, 1) :: regsAt a 1 }

/-- The per-lane special registers (R74). -/
def srPerLane (n : Nat) : Bool := [0x00, 0x01, 0x0D, 0x17].contains n
/-- The 64-bit special registers (R74). -/
def sr64 (n : Nat) : Bool := [0x0E, 0x0F, 0x11, 0x12].contains n

def shapeMfsr (d n : Nat) : Shape :=
  { opOk := isReg d && !(srPerLane n && isS d) && !(sr64 n && d % 2 ≠ 0)
    fieldOk := n < 0x18 || n ≥ 0x80, priv := n ≥ 0x80, regs := regsAt d (if sr64 n then 2 else 1) }
def shapeMtsr (inHandler : Bool) (n a : Nat) : Shape :=
  { imm := .src, srcs := [a], opOk := if n = 0x11 || n = 0x12 then srcI64 a else srcI a
    fieldOk := n = 0x0D || n = 0x11 || n = 0x12 || n ≥ 0x80
    priv := n ≥ 0x80 || ((n = 0x11 || n = 0x12) && !inHandler)
    regs := regsAt a (if n = 0x11 || n = 0x12 then 2 else 1) }

def shapeColl (o t h r y : Nat) : Shape :=
  let fp := y = 2 || y = 3 || y = 4 || y = 5
  { opOk := h < 48, regs := [(0xC0 + h, 1)]
    fieldOk := r ≠ 7 && !(r = 0 && (o = 2 || o = 3 || o = 4)) && !(r ≠ 0 && !(o = 2 || o = 3 || o = 4)) &&
      !((r = 4 || r = 5 || r = 6) && fp) && !(o = 0 && (t ≠ 0 || r ≠ 0 || y ≠ 0)) }

/-- A matrix pass or any stream word without operands of its own. -/
def shapeNone : Shape := {}

/-- What a word accepts, given the group's width, the latched MOD word and whether the split runs its group's
handler. -/
def shape (width : Nat) (mod : Word) (inHandler : Bool) (i : Instr) : Shape :=
  match i with
  | .imm _ => {} | .mod .. => {} | .hint .. => {}
  | .nop => {} | .trap .. => {} | .bkpt _ => {} | .rfe => {}
  | .mfsr d s => shapeMfsr d.toNat s.toNat
  | .mtsr s a => shapeMtsr inHandler s.toNat a.toNat
  | .br _ => {} | .bru .. => {} | .brd .. => {} | .brz .. => {}
  | .jmpi a => { opOk := evenReg a.toNat, regs := regsAt a.toNat 2 }
  | .call c _ => { opOk := evenReg c.toNat, regs := regsAt c.toNat 2 }
  | .ret a => { opOk := evenReg a.toNat, regs := regsAt a.toNat 2 }
  | .rejoin _ => {} | .yield => {} | .yieldD => {} | .exit => {}
  | .regroup _ n _ => { fieldOk := n.toNat ≤ 192, regs := if n.toNat = 0 then [] else [(0, n.toNat)] }
  | .msav d => { opOk := evenS d.toNat, regs := regsAt d.toNat 2 }
  | .mres a => { opOk := evenS a.toNat, regs := regsAt a.toNat 2 }
  | .mand .. => {} | .enall => {} | .enres => {}
  | .sadd d a b | .ssub d a b | .smul d a b | .smulhu d a b | .sand d a b | .sor d a b | .sxor d a b
  | .sshl d a b | .sshr d a b | .ssra d a b | .smin d a b | .smax d a b | .sminu d a b | .smaxu d a b
  | .sbfe d a b | .sdivu d a b | .sremu d a b => shapeSI d.toNat a.toNat b.toNat
  | .spopc d a | .sffs d a =>
    { imm := .src, srcs := [a.toNat], mods := mTrule, opOk := isS d.toNat && srcS a.toNat
      regs := (d.toNat, 1) :: regsAt a.toNat 1 }
  | .smovi d _ | .saddi d _ => { imm := .fw, mods := mTrule, opOk := isS d.toNat, regs := [(d.toNat, 1)] }
  | .smovhi d _ => { imm := .zero, mods := mTrule, opOk := isS d.toNat, regs := [(d.toNat, 1)] }
  | .vmovi d _ => { imm := .fw, mods := mTrule, opOk := isV d.toNat, regs := [(d.toNat, 1)] }
  | .vmovhi d _ => { imm := .zero, mods := mTrule, opOk := isV d.toNat, regs := [(d.toNat, 1)] }
  | .scmp c m p a b => shapeCmp true 0 c.toNat m.toNat p.toNat a.toNat b.toNat 1 (srcS a.toNat && srcS b.toNat)
  | .saddw d a b =>
    { imm := .src, srcs := [a.toNat, b.toNat], mods := mTrule, opOk := evenS d.toNat && evenS a.toNat && srcS b.toNat
      regs := [(d.toNat, 2), (a.toNat, 2)] ++ regsAt b.toNat 1 }
  | .vadd d a b | .vsub d a b | .vmul d a b | .vmulhi d a b | .vmulhu d a b | .vmad d a b | .vand d a b
  | .vor d a b | .vxor d a b | .vshl d a b | .vshr d a b | .vsra d a b | .vmin d a b | .vmax d a b
  | .vminu d a b | .vmaxu d a b | .vabsd d a b | .vadds d a b | .vsubs d a b | .vbfe d a b | .vbfi d a b
  -- VSEL reads the constants 0xF1 to 0xF4 as 32-bit integers (DESIGN CHOICE, log entry 52).
  | .vprmt d a b | .vselPk _ d a b | .crc32c d a b => shapeVI d.toNat a.toNat b.toNat
  | .vpopc d a | .vclz d a | .vbrev d a | .vmov d a =>
    { imm := .src, srcs := [a.toNat], mods := mTrule, opOk := isV d.toNat && srcI a.toNat
      regs := (d.toNat, 1) :: regsAt a.toNat 1 }
  | .vcmp c m p a b | .vcmpu c m p a b =>
    shapeCmp true 0 c.toNat m.toNat p.toNat a.toNat b.toNat 1 (srcI a.toNat && srcI b.toNat)
  | .vcvti d a s t => shapeCvti mod d.toNat a.toNat s.toNat t.toNat
  | .vaddw d a b =>
    { imm := .src, srcs := [a.toNat, b.toNat], mods := mTrule, opOk := evenV d.toNat && evenReg a.toNat && srcI b.toNat
      regs := (d.toNat, 2) :: regsAt a.toNat 2 ++ regsAt b.toNat 1 }
  | .fadd d a b | .fsub d a b | .fmul d a b | .ffma d a b | .fmin d a b | .fmax d a b | .badd2 d a b
  | .bmul2 d a b | .bfma2 d a b | .hadd2 d a b | .hmul2 d a b | .hfma2 d a b =>
    shapeFp mod mFp d.toNat 1 [(a.toNat, srcF a.toNat), (b.toNat, srcF b.toNat)] 1
  | .fcmp c m p a b =>
    shapeCmp false (mA + mB) c.toNat m.toNat p.toNat a.toNat b.toNat 1 (srcF a.toNat && srcF b.toNat)
  | .fclass d a => shapeFp mod mTrule d.toNat 1 [(a.toNat, srcF a.toNat)] 1
  | .fscaleb d a b => shapeFp mod mFp1 d.toNat 1 [(a.toNat, srcF a.toNat), (b.toNat, srcI b.toNat)] 1
  | .ffrac d a | .frnd d a => shapeFp mod mFp1 d.toNat 1 [(a.toNat, srcF a.toNat)] 1
  | .fcvt d a s t => shapeFcvt mod false d.toNat a.toNat s.toNat t.toNat
  | .dadd d a b | .dsub d a b | .dmul d a b | .dfma d a b =>
    shapeFp mod mFp d.toNat 2 [(a.toNat, srcF64 a.toNat), (b.toNat, srcF64 b.toNat)] 2
  | .dcmp c m p a b =>
    shapeCmp false (mA + mB) c.toNat m.toNat p.toNat a.toNat b.toNat 2 (srcF64 a.toNat && srcF64 b.toNat)
  | .dcvt d a s t => shapeFcvt mod true d.toNat a.toNat s.toNat t.toNat
  | .vdot2Bf d a b | .vdot4E4 d a b | .vdot4E5 d a b | .vdot8F4 d a b | .vdot2H d a b =>
    shapeFp mod mDot d.toNat 1 [(a.toNat, srcF a.toNat), (b.toNat, srcF b.toNat)] 1
  | .vdot4I8 d a b =>
    shapeFp mod (mSat + mTrule) d.toNat 1 [(a.toNat, srcI a.toNat), (b.toNat, srcI b.toNat)] 1
  | .cvtpkBf d a b | .cvtpkH d a b | .cvt8E4l d a b | .cvt8E4h d a b | .cvt8E5l d a b | .cvt8E5h d a b =>
    shapeFp mod mFp1 d.toNat 1 [(a.toNat, srcF a.toNat), (b.toNat, srcF b.toNat)] 1
  | .unpk d a f s => shapeUnpk mod d.toNat a.toNat f.toNat s.toNat
  | .dice d => { mods := mTrule, opOk := isV d.toNat, regs := [(d.toNat, 1)] }
  | .shfl d a b | .shflx d a b | .shflu d a b | .shfld d a b | .swapp d a b =>
    { imm := .src, srcs := [a.toNat, b.toNat], mods := mTrule, opOk := isV d.toNat && isV a.toNat && srcI b.toNat
      regs := [(d.toNat, 1), (a.toNat, 1)] ++ regsAt b.toNat 1 }
  | .vote d k _ _ =>
    { mods := mTrule, opOk := isReg d.toNat && (k.toNat ≠ 2 || d.toNat % 2 = 0), fieldOk := k.toNat ≠ 3
      regs := regsAt d.toNat (if k.toNat = 2 then 2 else 1) }
  | .redux d a r =>
    { imm := .src, srcs := [a.toNat], mods := mTrule, opOk := isReg d.toNat && isV a.toNat, fieldOk := r.toNat ≤ 10
      regs := regsAt d.toNat 1 ++ regsAt a.toNat 1 }
  | .scan d a r _ =>
    { imm := .src, srcs := [a.toNat], mods := mTrule, opOk := isV d.toNat && isV a.toNat, fieldOk := r.toNat ≤ 10
      regs := [(d.toNat, 1), (a.toNat, 1)] }
  | .sint d a | .cost d a | .exp2 d a | .log2 d a | .rcp d a | .rsq d a | .tanh d a =>
    shapeFp mod mXf d.toNat 1 [(a.toNat, srcF a.toNat)] 1
  | .sqrt d a => shapeFp mod (mXf + mRnd) d.toNat 1 [(a.toNat, srcF a.toNat)] 1
  | .divf d a b => shapeFp mod (mXf + mRnd) d.toNat 1 [(a.toNat, srcF a.toNat), (b.toNat, srcF b.toNat)] 1
  | .ddiv d a b => shapeFp mod (mXf + mRnd) d.toNat 2 [(a.toNat, srcF64 a.toNat), (b.toNat, srcF64 b.toNat)] 2
  | .dsqrt d a => shapeFp mod (mXf + mRnd) d.toNat 2 [(a.toNat, srcF64 a.toNat)] 2
  | .qpack d a _ _ =>
    { imm := .src, srcs := [a.toNat], mods := mXf + mRnd, modOk := [0, 5, 6].contains (modRnd mod), opOk := evenV d.toNat && isV a.toNat
      fieldOk := 32 ≤ width, regs := [(d.toNat, 2), (a.toNat, 1)] }
  | .qunpk d a _ =>
    { imm := .src, srcs := [a.toNat], mods := mSat + mClamp + mTrule, opOk := isV d.toNat && evenV a.toNat, fieldOk := 32 ≤ width
      regs := [(d.toNat, 1), (a.toNat, 2)] }
  | .bscale d a _ _ =>
    { mods := mTrule, opOk := isV d.toNat && isV a.toNat, fieldOk := 32 ≤ width
      regs := [(d.toNat, 1), (a.toNat, 1)] }
  | .ldg d a w _ =>
    shapeMem (mTrule + mScope) d.toNat a.toNat w.toNat (isV d.toNat) (evenReg a.toNat) (w.toNat ≠ 7) 2
  | .stg d a w _ =>
    shapeMem (mTrule + mScope) d.toNat a.toNat w.toNat (isReg d.toNat) (evenReg a.toNat) (storeWidth w.toNat) 2
  | .ldl d a w _ | .ldc d a w _ | .lda d a w _ =>
    shapeMem mTrule d.toNat a.toNat w.toNat (isV d.toNat) (isReg a.toNat) (w.toNat ≠ 7) 1
  | .stl d a w _ | .stc d a w _ | .sta d a w _ =>
    shapeMem mTrule d.toNat a.toNat w.toNat (isReg d.toNat) (isReg a.toNat) (storeWidth w.toNat) 1
  | .ldk d a w _ =>
    shapeMem mTrule d.toNat a.toNat w.toNat (isV d.toNat) (isReg a.toNat) ([4, 5, 6].contains w.toNat) 1
  | .ldu d a w _ => shapeMem mTrule d.toNat a.toNat w.toNat (isS d.toNat) (evenS a.toNat) (w.toNat ≠ 7) 2
  | .ldul d a w _ => shapeMem mTrule d.toNat a.toNat w.toNat (isS d.toNat) (isS a.toNat) (w.toNat ≠ 7) 1
  | .ldacq d a w _ =>
    shapeMem (mTrule + mScope) d.toNat a.toNat w.toNat (isV d.toNat) (evenReg a.toNat) ([4, 5].contains w.toNat) 2
  | .strel d a w _ =>
    shapeMem (mTrule + mScope) d.toNat a.toNat w.toNat (isReg d.toNat) (evenReg a.toNat) ([4, 5].contains w.toNat) 2
  | .fence k => { mods := mScope, fieldOk := k.toNat ≠ 0 }
  | .pref l a _ => { imm := .fm, opOk := evenReg a.toNat, fieldOk := l.toNat < 2, regs := regsAt a.toNat 2 }
  | .cctl c a => { opOk := evenReg a.toNat || a.toNat = 0xF0, fieldOk := c.toNat < 3, regs := regsAt a.toNat 2 }
  | .atomAdd d a w b | .atomMin d a w b | .atomMax d a w b | .atomMinu d a w b | .atomMaxu d a w b
  | .atomAnd d a w b | .atomOr d a w b | .atomXor d a w b | .atomExch d a w b | .atomInc d a w b =>
    shapeAtom false false d.toNat a.toNat w.toNat b.toNat
  | .atomFadd d a w b => shapeAtom true false d.toNat a.toNat w.toNat b.toNat
  | .atomCas d a w b => shapeAtom false true d.toNat a.toNat w.toNat b.toNat
  | .lock a | .unlock a => { mods := mTrule + mScope, opOk := evenReg a.toNat, regs := regsAt a.toNat 2 }
  | .waitc c _ a b =>
    { imm := .src, srcs := [b.toNat], mods := mTrule + mScope
      opOk := evenReg a.toNat && srcI b.toNat && b.toNat ≠ 0xF7
      fieldOk := c.toNat < 6, regs := regsAt a.toNat 2 ++ regsAt b.toNat 1 }
  | .ladd d a b =>
    { imm := .src, srcs := [b.toNat], mods := mTrule
      opOk := (isV d.toNat || d.toNat = 0xF0) && isReg a.toNat && srcI b.toNat
      regs := regsAt d.toNat 1 ++ regsAt a.toNat 1 ++ regsAt b.toNat 1 }
  | .waitn .. => { imm := .zero }
  | .batch d => { opOk := isS d.toNat || d.toNat = 0xF0, regs := regsAt d.toNat 1 }
  | .waitb _ a => { imm := .src, srcs := [a.toNat], opOk := srcI a.toNat, regs := regsAt a.toNat 1 }
  | .barinit _ _ n => { fieldOk := n.toNat ≠ 0 }
  | .arrive _ => { mods := mGuard }
  | .arrivex _ a =>
    { imm := .src, srcs := [a.toNat], mods := mGuard, opOk := srcI a.toNat, regs := regsAt a.toNat 1 }
  | .barwait .. => {}
  | .bartry _ _ p => { opOk := p.toNat ≠ 0 }
  | .gridbar => {}
  | .gset _ a p => { fieldOk := a.toNat = 1 || p.toNat = 0 }
  | .xcopy c r _ _ _ => shapeCopy c.toNat r.toNat
  | .xgather c r _ _ | .xscatter c r _ _ | .xfill c r _ _ => shapeCopy c.toNat r.toNat
  | .xstat d s k =>
    { opOk := isS d.toNat, regs := regsAt d.toNat 1
      fieldOk := s.toNat < 10 && (s.toNat < 2 || (s.toNat = 5 && k.toNat < 8) || k.toNat = 0) }
  | .coll o _ t h r y _ => shapeColl o.toNat t.toNat h.toNat r.toNat y.toNat
  | .commq d a s =>
    { opOk := isS d.toNat && isS a.toNat, fieldOk := s.toNat < 7, regs := [(d.toNat, 1), (a.toNat, 1)] }
  | .mstart a b =>
    { imm := .src, srcs := [b.toNat], opOk := evenS a.toNat && srcS b.toNat
      regs := regsAt a.toNat 2 ++ regsAt b.toNat 1 }
  | .tdesc _ a => { opOk := evenS a.toNat, regs := regsAt a.toNat 2 }
  | .mldw .. => {} | .mswap => {}
  | .mmaM32 .. => {} | .mmaM64 .. => {} | .mmaM128 .. => {} | .mmaM256 .. => {}
  | .mzero _ => {} | .mdrain .. => {} | .marrive _ => {}
  | .mwait _ q m p => { fieldOk := if m.toNat = 1 then q.toNat = 0 else p.toNat = 0 }
  | .msett _ m => { fieldOk := m.toNat % 2 = 0 }
  | .maddi .. => { imm := .fw }
  | .mloop .. => {} | .mend => {} | .mguard .. => {}
  | .tget d a =>
    { opOk := isReg d.toNat && isReg a.toNat, fieldOk := isS a.toNat || isV d.toNat
      regs := regsAt d.toNat 1 ++ regsAt a.toNat 1 }
  | .tset d a =>
    { imm := .src, srcs := [a.toNat]
      opOk := isReg d.toNat && (isReg a.toNat || a.toNat = 0xF0 || a.toNat = 0xF8)
      regs := regsAt d.toNat 1 ++ regsAt a.toNat 1 }
  | .tstamp d => { opOk := isReg d.toNat, regs := regsAt d.toNat 1 }
  | .tchk a _ => { opOk := isReg a.toNat, regs := regsAt a.toNat 1 }
  | .tcap d a _ => { opOk := isReg d.toNat && isReg a.toNat, regs := regsAt d.toNat 1 ++ regsAt a.toNat 1 }
  | .trule c => { fieldOk := c.toNat < 6 }
  | .lstat d _ => { opOk := isV d.toNat, regs := regsAt d.toNat 1 }
  | .lstatMask _ => {}
  | _ => {}

/-! ## Encoding faults in the order of R72 -/

/-- A MOD payload whose own codes are reserved (R62): RND 111, TRULE 110 or 111, SCOPE 110 or 111, a guard slot
without its valid bit. -/
def modReserved (m : Nat) : Bool :=
  bits m 12 10 = 7 || bits m 9 7 ≥ 6 || bits m 2 0 ≥ 6 || (bits m 6 6 = 0 && bits m 5 3 ≠ 0)

/-- Whether a prefix word has a reserved code or a nonzero reserved bit, so that it is no valid word (R62, R65, R72). -/
def prefixReserved (op : Nat) (w : Word) : Bool :=
  (op = 2 && modReserved (w.toNat % 2 ^ 24)) || (op = 3 && w.toNat % 2 ^ 15 ≠ 0)

/-- The prefix kinds a word rejects (R60, R63, R67): bit 0 IMM, bit 1 MOD, bit 2 HINT. -/
def rejected (sh : Shape) (imm mod : Word) : Nat :=
  let takesImm :=
    match sh.imm with
    | .none => false
    | .src => sh.srcs.contains 0xF8
    | _ => true
  (if imm ≠ 0#32 && !takesImm then 1 else 0) + (if mod ≠ 0#32 && sh.mods = 0 then 2 else 0)

/-- The first register code beyond the group's allocation (R57). -/
def beyond (h : Header) (regs : List (Nat × Nat)) : Option Nat :=
  (regs.find? fun r =>
    if r.1 < 0xC0 then r.1 + r.2 > h.regs else r.1 - 0xC0 + r.2 > h.scalars).map fun r => r.1

/-- Whether an opcode belongs to the matrix stream (R71). -/
def streamOp (op : Nat) : Bool := 0xE0 ≤ op && op ≤ 0xEE

/-- Whether a MOD or IMM prefix holds a value the word does not allow (R61 to R63). -/
def prefixField (sh : Shape) (imm mod : Word) : Bool :=
  (mod ≠ 0#32 && (mod.toNat % 2 ^ 24).land (0xFFFFFF - sh.mods) ≠ 0) || (mod ≠ 0#32 && !sh.modOk) ||
  (imm ≠ 0#32 &&
    match sh.imm with
    | .fw => bits imm.toNat 23 16 ≠ 0
    | .zero => bits imm.toNat 23 0 ≠ 0
    | _ => false)

/-- The one authority on encoding faults, in the order of R72, with the value %tinfo0 takes for ILL_PREFIX (R67)
and the register code of a REG_BOUNDS (R401). badField says that a reserved bit of the word is nonzero. -/
def encodingCause (h : Header) (inStream inHandler badField : Bool) (imm mod hint : Word) (w : Word) (i : Instr) :
    Option (Cause × Word × Word) :=
  let op := w.toNat / 2 ^ 24
  let sh := shape h.width mod inHandler i
  let isPrefix := op = 1 || op = 2 || op = 3
  let doubled := (op = 1 && imm ≠ 0#32) || (op = 2 && mod ≠ 0#32) || (op = 3 && hint ≠ 0#32)
  if reservedOp op then some (illOpcode, w, 0#32)
  else if inStream && !(streamOp op || op = 1 || op = 3 || op = 4) then some (illStream, w, 0#32)
  else if !inStream && streamOp op then some (illStream, w, 0#32)
  else if isPrefix then
    if doubled then some (illPrefix, w, 0#32)
    else if badField || prefixReserved op w then some (illField, w, 0#32)
    else none
  else if rejected sh imm mod ≠ 0 then some (illPrefix, BitVec.ofNat 32 (rejected sh imm mod), 0#32)
  else if !sh.opOk then some (illOperand, w, 0#32)
  else if badField || !sh.fieldOk || prefixField sh imm mod then some (illField, w, 0#32)
  else if sh.priv then some (privCause, w, 0#32)
  else
    match beyond h sh.regs with
    | some c => if inStream then none else some (regBounds, w, BitVec.ofNat 32 c)
    | none => none

/-! ## Reading source operands -/

/-- The operand types of R55. -/
inductive OpType where
  | int | fp32 | bf16 | fp16 | e4m3 | e5m2 | e2m1 | i8
  deriving DecidableEq, Repr

/-- The pattern of constant 0xF1 to 0xF4 in a type (R55). -/
def constOf (t : OpType) (c : Nat) : Word :=
  let pick := fun (one mone half two : Word) => if c = 0xF1 then one else if c = 0xF2 then mone
    else if c = 0xF3 then half else two
  match t with
  | .int => pick 1#32 0xFFFFFFFF#32 0#32 2#32
  | .fp32 => pick 0x3F800000#32 0xBF800000#32 0x3F000000#32 0x40000000#32
  | .bf16 => pick 0x3F803F80#32 0xBF80BF80#32 0x3F003F00#32 0x40004000#32
  | .fp16 => pick 0x3C003C00#32 0xBC00BC00#32 0x38003800#32 0x40004000#32
  | .e4m3 => pick 0x38383838#32 0xB8B8B8B8#32 0x30303030#32 0x40404040#32
  | .e5m2 => pick 0x3C3C3C3C#32 0xBCBCBCBC#32 0x38383838#32 0x40404040#32
  | .e2m1 => pick 0x22222222#32 0xAAAAAAAA#32 0x11111111#32 0x44444444#32
  | .i8 => pick 0x01010101#32 0xFFFFFFFF#32 0#32 0x02020202#32

/-- IMMP (R54): imm24 << 8. -/
def immp (imm : Word) : Word := BitVec.ofNat 32 (imm.toNat % 2 ^ 24 * 256)

/-- Whether a code is a tagged source; constants contribute no tag (R54). -/
def tagged (c : Nat) : Bool := c < 0xF0

/-- A 32-bit operand of a lane with its tag (R54); dice is the value of a draw, where the code is 0xF7. -/
def operand (e : Ex) (t : OpType) (c i : Nat) (dice : Word) : Cell :=
  if c < 0xC0 then vreg e.g c i
  else if c < 0xF0 then sreg e.g (c - 0xC0)
  else
    (match c with
     | 0xF0 => 0#32
     | 0xF5 => BitVec.ofNat 32 i
     | 0xF6 => BitVec.ofNat 32 e.g.gi
     | 0xF7 => dice
     | 0xF8 => immp e.x.imm
     | _ => constOf t c, 0#16)

/-- The tags a source field contributes: none for a constant (R38, R54). -/
def srcTag (e : Ex) (c i : Nat) : List Tag :=
  if c < 0xC0 then [(vreg e.g c i).2] else if c < 0xF0 then [(sreg e.g (c - 0xC0)).2] else []

/-- A 64-bit operand of a lane with its tag, that of its low register (R40, R55, R56). -/
def operand64 (e : Ex) (isFp : Bool) (c i : Nat) : DWord × Tag :=
  if c < 0xC0 then (pair64 (vreg e.g (c + 1) i).1 (vreg e.g c i).1, (vreg e.g c i).2)
  else if c < 0xF0 then (pair64 (sreg e.g (c - 0xC0 + 1)).1 (sreg e.g (c - 0xC0)).1, (sreg e.g (c - 0xC0)).2)
  else
    (match c with
     | 0xF0 => 0#64
     | 0xF1 => if isFp then 0x3FF0000000000000#64 else 1#64
     | 0xF2 => if isFp then 0xBFF0000000000000#64 else 0xFFFFFFFFFFFFFFFF#64
     | 0xF3 => if isFp then 0x3FE0000000000000#64 else 0#64
     | 0xF4 => if isFp then 0x4000000000000000#64 else 2#64
     | 0xF5 => BitVec.ofNat 64 i
     | 0xF6 => BitVec.ofNat 64 e.g.gi
     | 0xF8 => if isFp then pair64 (immp e.x.imm) 0#32 else (immp e.x.imm).signExtend 64
     | _ => 0#64, 0#16)

/-- Whether any source tag is POISON. -/
def anyPoison (e : Ex) (c i : Nat) : Bool := (srcTag e c i).contains poison

end Sys2Proof.Machine
end

