-- ==== Sys2Proof/Machine/Flags.lean ====
section
/-! DEFINITION. The sticky status (R395, R396), the MOD fields as arithmetic reads them (R62 to R64), the results
of lanes with their events, births, captures and tags (R35 to R40), and the writing of registers. -/

namespace Sys2Proof.Machine

/-! ## Sticky status bits (R395) -/

def bitInv : Word := 0x01#32
def bitDz : Word := 0x02#32
def bitOvf : Word := 0x04#32
def bitUnf : Word := 0x08#32
def bitIsat : Word := 0x10#32
def bitUnif : Word := 0x20#32
def bitUncap : Word := 0x40#32
def bitLost : Word := 0x80#32

/-- The status bits of the events of one lane. -/
def evWord (ev : Events) : Word :=
  (if ev.inv then bitInv else 0#32) ||| (if ev.dz then bitDz else 0#32) ||| (if ev.ovf then bitOvf else 0#32) |||
  (if ev.unf then bitUnf else 0#32) ||| (if ev.isat then bitIsat else 0#32)

/-- The event classes a lane records, as status bits in lanes. -/
abbrev Status := List (Nat × Word)

/-- Events recorded in the lanes of a split's group (R396). -/
def record (s : State) (e : Ex) (ws : Status) : State :=
  setGroup s e fun g => recordBits g (ws.filter fun w => w.2 ≠ 0#32)

/-- One bit recorded in every lane of a mask (R396). -/
def recordAll (s : State) (e : Ex) (lanes : List Nat) (b : Word) : State := record s e (lanes.map fun i => (i, b))

/-! ## MOD (R62 to R64) -/

/-- One bit of the MOD word. -/
def modBit (m : Word) (k : Nat) : Bool := bits m.toNat k k = 1
/-- The MOD SCALE field (R62). -/
def modScale (m : Word) : Int := signed 5 (bits m.toNat 17 13)

/-- What MOD and the launch's FTZ make an arithmetic instruction do; own is the instruction's own mode (R62). -/
def fpMod (e : Ex) (own : Rnd) : FpMod :=
  let m := e.x.mod
  { sat := modBit m 23, clamp := modBit m 22, nega := modBit m 21, negb := modBit m 20, absa := modBit m 19
    absb := modBit m 18, scale := modScale m, rnd := rndOf (modRnd m) own, ftz := e.lch.ftz }

/-- MOD SCOPE (R62); 0 is the default. -/
def modScope (e : Ex) : Nat := bits e.x.mod.toNat 2 0
/-- MOD GUARD (R62). -/
def modGuard (e : Ex) : Option Nat :=
  if modBit e.x.mod 6 then some (bits e.x.mod.toNat 5 3) else none

/-! ## Writing registers -/

/-- Vector cells written, keyed by register × 64 + lane. -/
def putV (s : State) (e : Ex) (ws : List (Nat × Cell)) : State :=
  let s := setGroup s e fun g => writeCells g ws
  { s with fx := s.fx ++ ws.map fun w => .reg (w.1 / 64) (w.1 % 64) w.2.2 }

/-- Scalar registers written once for the split (R58). -/
def putS (s : State) (e : Ex) (ws : List (Nat × Cell)) : State :=
  let s := setGroup s e fun g => writeScalars g ws
  { s with fx := s.fx ++ ws.map fun w => .reg (0xC0 + w.1) 64 w.2.2 }

/-- A register code written with one cell: a scalar once, a vector in every active lane. -/
def putReg (s : State) (e : Ex) (d : Nat) (c : Cell) : State :=
  if isV d then putV s e (e.lanes.map fun i => (d * 64 + i, c)) else putS s e [(d - 0xC0, c)]

/-- A register pair written with the words of a 64-bit value and one tag (R40). -/
def putPair (s : State) (e : Ex) (d : Nat) (v : DWord) (t : Tag) : State :=
  if isV d then putV s e (e.lanes.flatMap fun i => [(d * 64 + i, (loWord v, t)), ((d + 1) * 64 + i, (hiWord v, t))])
  else putS s e [(d - 0xC0, (loWord v, t)), (d - 0xC0 + 1, (hiWord v, t))]

/-- The active lanes whose predicate, inverted where n is set, holds. -/
def predLanes (e : Ex) (n : Bool) (p : Nat) : List Nat := e.lanes.filter fun i => predBit e.g p i != n

/-! ## Lane results -/

/-- One lane's result: the words, the operands as a capture record has them (R34), the destination's old tag, the
events, the births with cause words 0 and 1 (R35), and the lane's dice state after its draws. group, where given, is
the list of Produce's sources of a result that more lanes contribute to (R216, R223); capLane, where given, is the
lane its capture record names; carry, where given, is what CARRY-A carries of such a result; ident says that
the result is an identity, which always takes the own tag (R225). -/
structure LaneOut where
  lane : Nat
  lo : Word
  hi : Option Word := none
  result : Word
  a : Option Cell := none
  b : Option Cell := none
  c : Option Cell := none
  old : Tag := 0#16
  ev : Events := {}
  born : Births := {}
  w0 : Word := 0#32
  w1 : Word := 0#32
  dice : Option Word := none
  group : Option (List Tag) := none
  capLane : Option Nat := none
  carry : Option Cell := none
  ident : Bool := false
  deriving DecidableEq, Repr

/-- The tag of an operand; an absent one contributes none. -/
def optTag (c : Option Cell) : List Tag := (c.map fun x => [x.2]).getD []
/-- Produce's sources of a lane, in a, b, c order (R38). -/
def LaneOut.srcs (o : LaneOut) : List Tag := o.group.getD (optTag o.a ++ optTag o.b ++ optTag o.c)
/-- The causes of R35 that arose in a lane. -/
def LaneOut.causes (o : LaneOut) : List Nat :=
  (if o.born.nanf then [0] else []) ++ (if o.born.inff then [1] else []) ++
  (if o.born.nsat then [2] else []) ++ (if o.born.bsat then [3] else []) ++ (if o.born.iinv then [8] else [])

/-- Whether an effective rule is PRODUCE (R37). -/
def isProduce (rule : Nat) (cls : TagClass) : Bool := rule = 1 || (rule = 0 && cls = .produce)

/-- Whether a lane's birth of cause k calls for a capture (R36). -/
def capturable (l : Launch) (ring : Bool) (rule : Nat) (cls : TagClass) (o : LaneOut) (k : Nat) : Bool :=
  o.causes.contains k && causeOn l k && ring && isProduce rule cls && !(o.srcs.any fun t => t.getLsbD 15)

/-- The capture record that a word's lanes share (R34, R36). -/
def capOf (e : Ex) (k share flags : Nat) (o : LaneOut) : CapRec :=
  let val := fun (c : Option Cell) => (c.map fun x => x.1).getD 0#32
  let tg := fun (c : Option Cell) => (c.map fun x => x.2).getD 0#16
  { cause := k, lane := o.capLane.getD o.lane, share := share, split := e.x.id.toNat, group := e.g.gi, team := e.tm.ordinal
    launch := e.lch.id, code := e.lch.code, pc := e.x.pc, site := own e, result := o.result
    opa := val o.a, opb := val o.b, opc := val o.c, taga := tg o.a, tagb := tg o.b, tagc := tg o.c
    flags := flags + (if o.a.isSome then 1 else 0) + (if o.b.isSome then 2 else 0) + (if o.c.isSome then 4 else 0)
    w0 := if k = 2 || k = 3 || k = 8 then o.w0 else 0#32, w1 := if k = 2 || k = 3 then o.w1 else 0#32 }

/-- What the lanes of a word come to: cells to write, status to record, dice states, and the state with its
capture records written. -/
structure Settled where
  cells : List (Nat × Cell)
  status : Status
  dice : List (Nat × Word)
  st : State
  deriving DecidableEq, Repr

/-- Lane results settled under the effective tag rule: one record per cause in ascending order, tags by R37 to
R39, status by R36 and R396. f64 says that value fields hold high words (R34). -/
def settleLanes (s : State) (e : Ex) (d : Nat) (cls : TagClass) (f64 : Bool) (outs : List LaneOut) : Settled :=
  let rule := ruleOf e
  let ring := hasRing s e.lch.ctx
  let site := own e
  let caught := fun (k : Nat) (o : LaneOut) => capturable e.lch ring rule cls o k
  let step := fun (acc : List (Nat × Tag) × State) (k : Nat) =>
    match outs.filter (caught k) with
    | [] => acc
    | o :: os =>
      let r := capture acc.2 e.lch.ctx (capOf e k (os.length + 1) (if f64 then 8 else 0) o)
      (acc.1 ++ [(k, r.1)], r.2)
  let caps := [0, 1, 2, 3, 8].foldl step ([], s)
  let tagOf := fun (o : LaneOut) =>
    match caps.1.find? fun c => caught c.1 o with
    | some c => c.2
    | none =>
      if o.ident then site
      else ruleTag rule cls site o.srcs (((o.carry.or o.a).map fun x => x.2).getD 0#16)
        ((o.b.map fun x => x.2).getD 0#16) o.old
  let wordOf := fun (o : LaneOut) =>
    let lost := caps.1.any fun c => caught c.1 o && c.2 = lostTag
    let uncap := o.causes.any fun k => !caught k o
    evWord o.ev ||| (if lost then bitLost else 0#32) ||| (if lost || uncap then bitUncap else 0#32)
  { cells := outs.flatMap fun o =>
      (d * 64 + o.lane, (o.lo, tagOf o)) ::
        (match o.hi with | some h => [((d + 1) * 64 + o.lane, (h, tagOf o))] | none => [])
    status := outs.map fun o => (o.lane, wordOf o)
    dice := outs.filterMap fun o => o.dice.map fun x => (o.lane, x)
    st := caps.2 }

/-- An operation whose result a reply brings (R89, R209): its cells, status and registers are held in flight. -/
def addFlight (s : State) (f : Nat → Flight) : State :=
  let (id, s) := takeId s
  updMem s fun m => { m with flights := m.flights ++ [f id] }

/-- Lane results that the transform pipe will write with its reply (R209, R396): captures and draws are made now. -/
def pipeLanes (s : State) (e : Ex) (d n : Nat) (cls : TagClass) (f64 : Bool) (outs : List LaneOut) : State :=
  let r := settleLanes s e d cls f64 outs
  let s := setGroup r.st e fun g => writeDice g r.dice
  let fxs := r.cells.map fun w => Fx.reg (w.1 / 64) (w.1 % 64) w.2.2
  let s := { s with fx := s.fx ++ fxs }
  addFlight s fun id =>
    { id := id, kind := .xform, tid := e.x.tid, gi := e.x.gi, rank := e.x.rank, pc := e.x.pc, scalars := []
      cells := r.cells, events := r.status.filter fun w => w.2 ≠ 0#32, regs := (upTo n).map fun k => d + k
      counter := none, isRemote := false, acquire := false }

/-- Lane results written at once. -/
def commitLanes (s : State) (e : Ex) (d : Nat) (cls : TagClass) (f64 : Bool) (outs : List LaneOut) : State :=
  let r := settleLanes s e d cls f64 outs
  let s := putV r.st e r.cells
  let s := record s e r.status
  setGroup s e fun g => writeDice g r.dice

/-! ## Operands of a lane with their draws (R19, R56) -/

/-- Two operands of a lane and its dice state after the draws of %dice operands, a first. -/
def lanePair (e : Ex) (ta tb : OpType) (ca cb i : Nat) : Cell × Cell × Word :=
  let x0 := diceOf e.g i
  let x1 := if ca = 0xF7 then diceStep x0 else x0
  let x2 := if cb = 0xF7 then diceStep x1 else x1
  (operand e ta ca i x1, operand e tb cb i x2, x2)

/-- One operand of a lane and its dice state after the draw. -/
def laneOne (e : Ex) (t : OpType) (ca i : Nat) : Cell × Word :=
  let x0 := diceOf e.g i
  let x1 := if ca = 0xF7 then diceStep x0 else x0
  (operand e t ca i x1, x1)

/-- The new dice state, where a draw was taken. -/
def drawn (e : Ex) (i : Nat) (x : Word) : Option Word := if x = diceOf e.g i then none else some x

end Sys2Proof.Machine
end

