-- ==== Sys2Proof/Machine/Issue.lean ====
section
/-! DEFINITION. How a word of a split issues: the scoreboard (R68, R209), encoding faults (R72), reports at report
points (R398), handler restrictions (R402), the four kinds of delivery (R394), watchpoints (R439 to R442), and a
device write that meets a translation fault (R464). -/

namespace Sys2Proof.Machine

/-- How the body of a word ends: completed at PC + 4, completed at another PC, completed with an "after" cause, a
"before" cause, placed by the body itself, or not issued. -/
inductive Res where
  | done (s : State)
  | jump (pc : DWord) (s : State)
  | after (pc : DWord) (t : Trap) (s : State)
  | trap (t : Trap) (s : State)
  | moved (s : State)
  | stall
  deriving DecidableEq, Repr

/-- Whether a split runs its group's handler (R402). -/
def inHandler (e : Ex) : Bool :=
  match e.g.hs with
  | some h => h.rank = e.x.rank
  | none => false

/-! ## Stalls -/

/-- Whether the split is the one that takes its team's pending stream fault at its next issue (R247): the split of lowest
id of the lowest-numbered live group. -/
def owesStreamFault (s : State) (e : Ex) : Bool :=
  e.tm.seqFault.isSome &&
  (liveGroups s e.x.tid).all (fun g => e.x.gi ≤ g.gi) &&
  (splitsOf s e.x.tid e.x.gi).all fun x => e.x.id.toNat ≤ x.id.toNat

/-- Whether a load of the split that a save dropped has not been performed anew yet (R366). -/
def owesReplay (s : State) (e : Ex) : Bool :=
  s.mem.flights.any fun f => f.replay && f.tid = e.x.tid && f.gi = e.x.gi && f.rank = e.x.rank

/-- Whether the split may issue at all: it is READY or DEFERRED, its context is not frozen (R410), its node is not
being rolled back (R422), its team is not stopping for a save (R364), and it has neither a stream fault to take first nor a
dropped load to replay (R366; log entry 28). -/
def mayIssue (s : State) (e : Ex) : Bool :=
  (e.x.st = .ready || e.x.st = .deferred) && !e.tm.stopping && e.lch.rollback.isNone && !owesStreamFault s e && !owesReplay s e &&
  (match findCtx s e.lch.ctx with | some c => c.fault.isNone && !c.checkpointing | none => true)

/-- The split's operations that have not replied (R68, R209). -/
def flightsOf (s : State) (e : Ex) : List Flight :=
  s.mem.flights.filter fun f => f.tid = e.x.tid && f.gi = e.x.gi && f.rank = e.x.rank

/-- The registers a word names or may read. -/
def namedRegs (sh : Shape) : List Nat := (sh.regs ++ sh.more).flatMap fun r => (upTo r.2).map fun k => r.1 + k

/-- The words that move lanes between splits wait for every pending register write of the split. -/
def movesLanes (i : Instr) : Bool :=
  match i with
  | .brd .. | .rejoin _ | .yieldD | .exit | .regroup .. => true
  | _ => false

/-- The report points (R398). -/
def reportPoint (i : Instr) : Bool :=
  match i with
  | .arrive _ | .arrivex .. | .barwait .. | .bartry .. | .waitb .. | .gridbar | .regroup .. | .coll .. | .exit => true
  | _ => false

/-- The words that need every earlier event of the split recorded: the report points outside a handler (R398),
LSTAT (R397) and a read of %lstat. -/
def readsStatus (i : Instr) : Bool :=
  reportPoint i ||
  match i with
  | .lstat .. | .lstatMask _ => true
  | .mfsr _ sr => sr = 0x17#8
  | _ => false

/-- The words that a handler may not use (R402). -/
def handlerForbids (i : Instr) : Bool :=
  match i with
  | .brd .. | .rejoin _ | .yieldD | .regroup .. | .gridbar | .coll .. | .exit => true
  | _ => false

/-- The words that release, or whose commands do (R377, R382): every earlier load of the split is performed before them. -/
def releases (i : Instr) : Bool :=
  match i with
  | .fence k => k.getLsbD 1
  | .strel .. | .unlock _ | .arrive _ | .arrivex .. | .regroup .. | .gridbar | .coll .. | .xcopy .. | .xgather .. | .xscatter ..
  | .xfill .. => true
  | _ => false

/-- Whether a pending reply keeps a word from issuing (R68, R209, R398), a pending acquire among them (R379). A load that a
save may still drop keeps a releasing word back (R371, R379), and an event that a remote home will report keeps back every
word that needs it recorded (R97, R397, R398). A load that a watchpoint of the core may match when it completes keeps back every
later word (R440, R441). -/
def mustWait (s : State) (e : Ex) (i : Instr) : Bool :=
  let fs := flightsOf s e
  let regs := namedRegs (shape e.width e.x.mod (inHandler e) i)
  fs.any (fun f => f.acquire) || (fs.any fun f => f.fx ≠ []) || (fs.any fun f => f.regs.any fun r => regs.contains r) ||
  (movesLanes i && fs.any fun f => f.regs ≠ []) ||
  (releases i && fs.any fun f => f.again ≠ []) ||
  (readsStatus i && ((fs.any fun f => f.kind = .xform) ||
    s.mem.flights.any fun f => f.tid = e.x.tid && f.gi = e.x.gi && f.status))

/-! ## Causes -/

def handlerState : Cause := 0x69#8
def watchpointCause : Cause := 0x68#8

/-- A trap of cause c found before the word changed anything, with the word in %tinfo2 (R394, R401). -/
def beforeTrap (e : Ex) (w : Word) (c : Cause) (mask : DWord) (i0 i1 i3 : Word) : Trap :=
  { cause := c, pc := e.x.pc, mask := mask, info0 := i0, info1 := i1, info2 := w, info3 := i3 }

/-- A control, synchronisation or collective cause (R401). -/
def ctlTrap (e : Ex) (w : Word) (c : Cause) (i0 : Nat) : Trap :=
  beforeTrap e w c e.x.amask (BitVec.ofNat 32 i0) 0#32 0#32

/-- A POISON_ESCAPE in some lanes: the kind of R408 and the register code. -/
def escapeTrap (e : Ex) (w : Word) (lanes : List Nat) (kind code : Nat) : Trap :=
  { beforeTrap e w poisonEscape (maskOf lanes) (BitVec.ofNat 32 kind) (BitVec.ofNat 32 code) 0#32 with escKind := kind }

/-- A precise memory, translation or bounds fault with its ADDR capture where enabled (R35, R36, R401): the lanes
concerned, how many they are, the lowest of them and its address. -/
def addrTrapAt (s : State) (e : Ex) (w : Word) (c : Cause) (mask : DWord) (n lane : Nat) (va : DWord) :
    Trap × State :=
  let r0 : CapRec :=
    { cause := 7, lane := lane, share := n, split := e.x.id.toNat, group := e.g.gi, team := e.tm.ordinal
      launch := e.lch.id, code := e.lch.code, pc := e.x.pc, site := own e, w0 := loWord va, w1 := hiWord va }
  let r := if causeOn e.lch 7 && hasRing s e.lch.ctx then
      (let r := capture s e.lch.ctx r0; (BitVec.ofNat 32 r.1.toNat, r.2)) else (0#32, s)
  (beforeTrap e w c mask (loWord va) (hiWord va) r.1, r.2)

/-- An address fault of some lanes with their addresses. -/
def addrTrap (s : State) (e : Ex) (w : Word) (c : Cause) (lanes : List (Nat × DWord)) : Trap × State :=
  addrTrapAt s e w c (maskOf (lanes.map fun l => l.1)) lanes.length ((lanes.head?.map fun l => l.1).getD 0xFF)
    ((lanes.head?.map fun l => l.2).getD 0#64)

/-- An address fault as the end of a word's body. -/
def addrFault (s : State) (e : Ex) (w : Word) (c : Cause) (lanes : List (Nat × DWord)) : Res :=
  let r := addrTrap s e w c lanes
  .trap r.1 r.2

/-! ## Watchpoints (R439 to R442) -/

/-- A field of a watchpoint's CTL (R439). -/
def Watch.field (q : Watch) (hi lo : Nat) : Nat := bits q.ctl.toNat hi lo

/-- Whether ACC takes an access. -/
def accOk (acc : Nat) (wr : Bool) : Bool := acc = 3 || (acc = 1 && !wr) || (acc = 2 && wr)

/-- The lane and the value of an effect that a watchpoint matches (R440, R441). -/
def watchMatch (q : Watch) (g : Group) (f : Fx) : Option (Nat × DWord) :=
  let lo := q.lo.toNat
  let hi := q.hi.toNat
  let acc := q.field 51 50
  let ok := fun (b : Bool) (lane v : Nat) => if b then some (lane, BitVec.ofNat 64 v) else none
  match q.field 57 54, f with
  | 1, .glob lane va n wr => ok (accOk acc wr && va.toNat ≤ hi && lo < va.toNat + n) lane va.toNat
  | 2, .ls lane off n wr => ok (accOk acc wr && off ≤ hi && lo < off + n) lane off
  | 3, .ab lane off n wr => ok (accOk acc wr && off / 64 ≤ hi && lo ≤ (off + n - 1) / 64) lane off
  | 4, .cb lane row wr => ok (accOk acc wr && lo ≤ row && row ≤ hi) lane row
  | 5, .reg code lane _ =>
    ok (bits lo 9 8 = g.scheduler && bits lo 3 0 = g.slot && bits lo 23 16 = code) lane code
  | 6, .reg _ lane t => ok (t.toNat = lo % 65536) lane t.toNat
  | 6, .memTag lane _ t => ok (t.toNat = lo % 65536) lane t.toNat
  | 7, .cap lane k => ok (lo.testBit k) lane 0
  | _, _ => none

/-- Whether some watchpoint of a core watches a context. -/
def watched (s : State) (core ctx : Nat) : Bool :=
  (upTo 8).any fun k =>
    let q := mapGet ({} : Watch) s.dev.watches (core * 8 + k)
    q.field 57 54 ≠ 0 && q.field 63 58 = ctx

/-- The watchpoints of a core that the present word matches: index, action, and the matches. -/
def watchHits (s : State) (e : Ex) : List (Nat × Nat × List (Nat × DWord)) :=
  (upTo 8).filterMap fun k =>
    let q := mapGet ({} : Watch) s.dev.watches (e.tm.core * 8 + k)
    if q.field 57 54 = 0 || q.field 63 58 ≠ e.lch.ctx then none
    else
      match s.fx.filterMap (watchMatch q e.g) with
      | [] => none
      | ms => some (k, q.field 53 52, ms)

/-- COUNT of a watchpoint incremented, saturating (R439). -/
def countWatch (s : State) (core k : Nat) : State :=
  updDev s fun d =>
    let q := mapGet ({} : Watch) d.watches (core * 8 + k)
    let n := min 0xFFFFFFFF (q.ctl.toNat % 2 ^ 32 + 1)
    let q := { q with ctl := BitVec.ofNat 64 (q.ctl.toNat / 2 ^ 32 * 2 ^ 32 + n) }
    { d with watches := mapSet {} d.watches (core * 8 + k) q }

/-- The mask of lanes that matched; a match of the whole split stands for A. -/
def matchMask (e : Ex) (ms : List (Nat × DWord)) : DWord :=
  ms.foldl (fun m x => m ||| (if x.1 < 64 then 1#64 <<< x.1 else e.x.amask)) 0#64

/-- The WATCHPOINT trap of a word, with every watchpoint it matches (R441). -/
def watchTrap (e : Ex) (w : Word) (pc : DWord) (hs : List (Nat × Nat × List (Nat × DWord))) : Trap :=
  let ms := hs.flatMap fun h => h.2.2
  let first := (hs.head?.map fun h => h.1).getD 0
  let all := hs.foldl (fun n h => n + 2 ^ h.1) 0
  let low := leastBy (fun m : Nat × DWord => m.1) ((hs.head?.map fun h => h.2.2).getD [])
  let v := (low.map fun m => m.2).getD 0#64
  { cause := watchpointCause, pc := pc, mask := matchMask e ms, info0 := BitVec.ofNat 32 (first + all * 256)
    info1 := loWord v, info2 := w, info3 := hiWord v }

/-! ## Completion and delivery -/

/-- A word has completed: the latch is consumed (R66), the split continues at pc, and RET counts it (R362). -/
def complete (s : State) (e : Ex) (pc : DWord) : State :=
  let s := updSplit s e.x.tid e.x.gi e.x.rank fun x => { x with pc := pc, imm := 0#32, mod := 0#32, hint := 0#32 }
  updTeam s e.x.tid fun t => { t with retWords := t.retWords + 1 }

/-- What follows a completed word: its watchpoints are counted and marked, and at most one "after" cause is
delivered, the word's own before a watchpoint's (R441, R442). -/
def judgeWatches (s : State) (e : Ex) (w : Word) (pc : DWord) (own : Option Trap) : State :=
  let hs := watchHits s e
  let s := hs.foldl (fun s h => countWatch s e.tm.core h.1) s
  let marks := hs.filter fun h => h.2.1 = 1 || (h.2.1 = 0 && inHandler e)
  let here := { e with x := { e.x with pc := pc } }
  let s := marks.foldl (fun s h => syncPacket s here 3 h.1) s
  let traps := !inHandler e && hs.any fun h => h.2.1 = 0
  match own with
  | some t => deliverTrap s here { t with wordPc := some e.x.pc }
  | none => if traps then deliverTrap s here { watchTrap e w pc hs with wordPc := some e.x.pc } else s

/-- The load of the present word that is in flight and that a save may drop or another device answers. -/
def openLoad (s : State) (e : Ex) (pc : DWord) : Option Flight :=
  (flightsOf s e).reverse.find? fun f => f.pc = pc && f.kind = .load && (f.again ≠ [] || f.isRemote)

/-- What follows a completed word (R441, R442); the watchpoints of a load whose data may still come anew are judged when it lands
(R440). -/
def afterWord (s : State) (e : Ex) (w : Word) (pc : DWord) (own : Option Trap) : State :=
  match if watched s e.tm.core e.lch.ctx then openLoad s e e.x.pc else none with
  | some f =>
    let fx := s.fx.filter fun x => match x with | .reg .. => false | _ => true
    let s := updMem s fun m => { m with flights := updBy (fun q => q.id = f.id) (fun q => { q with fx := fx }) m.flights }
    match own with
    | some t => deliverTrap s { e with x := { e.x with pc := pc } } { t with wordPc := some e.x.pc }
    | none => s
  | none => judgeWatches s e w pc own

/-- The end of a word's body carried out (R394). -/
def settle (s : State) (e : Ex) (w : Word) (r : Res) : State :=
  match r with
  | .done t => afterWord (complete t e (e.x.pc + 4#64)) e w (e.x.pc + 4#64) none
  | .jump pc t => afterWord (complete t e pc) e w pc none
  | .after pc c t => afterWord (complete t e pc) e w pc (some c)
  | .trap c t => deliverTrap t e c
  | .moved t => t
  | .stall => s

/-- A device write of the word met a translation fault: the word has not run, and its split waits for Keeper on a
fault record with REQ 4 (R464), or for a host translation. -/
def waitDevice (s : State) (e : Ex) (w : Option Word) (f : DevFail) : State :=
  let who := Requester.split e.x.tid e.x.gi e.x.rank
  let s := deviceWaitFor (deviceWait s e.tm.core f) e.tm.core f who
  setSplit s e fun x => { parkAs (if f.kind = 5 then .ats else .fault) 0 x with parkWord := w }

/-- A trace write that met a translation fault waits with its packet (R464). -/
def packetDone (s s1 : State) (core : Nat) : State :=
  match s1.devFail with
  | some f => deviceWait s core f
  | none => { s1 with fx := [] }

/-- The model's own fields after a word: no effects noted, no device write failed. -/
def tidy (s : State) : State := { s with fx := [], devFail := none }

/-- The lanes with unreported events that RMASK selects (R398). -/
def unreported (e : Ex) : List Nat :=
  e.lanes.filter fun i => (bits (lstatOf e.g i).toNat 15 8).land e.g.rmask.toNat ≠ 0

/-- The ARITH_REPORT of a report point (R398, R400, R401). -/
def reportTrap (e : Ex) (w : Word) : Trap :=
  let ls := unreported e
  let seen := ls.foldl (fun n i => n.lor ((bits (lstatOf e.g i).toNat 15 8).land e.g.rmask.toNat)) 0
  beforeTrap e w arithReport (maskOf ls) (BitVec.ofNat 32 seen) (BitVec.ofNat 32 ls.length) 0#32

/-- What a word comes to before its body: an encoding fault, a nested HANDLER_STATE, an arithmetic report, or its
body. -/
def checkThen (e : Ex) (i : Instr) (w : Word) (badField : Bool) (body : Ex → State → Res) (s : State) : Res :=
  match encodingCause e.lch.hdr false (inHandler e) badField e.x.imm e.x.mod e.x.hint w i with
  | some (c, i0, i1) => .trap (beforeTrap e w c e.x.amask i0 i1 0#32) s
  | none =>
    if inHandler e && handlerForbids i then .trap (ctlTrap e w handlerState 0) s
    else if reportPoint i && !inHandler e && unreported e ≠ [] then .trap (reportTrap e w) s
    else body e s

/-- The packets a split owes before its next word (R437): 64 branch bits, and its group's SYNC when it first issues after a
dispatch or restore or has written 256 packets. -/
def beforeIssue (s : State) (e : Ex) : State :=
  let s := if 64 ≤ e.x.brBits.length then flushBranch s e else s
  match e.g.syncDue with
  | some reason => syncPacket s e reason 0
  | none => if 256 ≤ e.g.packets then syncPacket s e 0 0 else s

/-- The words after which a split sees every release before them (R377; log entry 19). -/
def acquires (i : Instr) : Bool :=
  match i with
  | .fence k => k.getLsbD 0
  | .ldacq .. | .lock _ | .waitc .. | .barwait .. | .bartry .. | .waitb .. | .gridbar | .coll .. => true
  | _ => false

/-- A source code whose value may differ among lanes. R463 tells a vector operand from a scalar or constant one and names
neither %lane (0xF5) nor %dice (0xF7): both count as vector (DESIGN CHOICE, log entry 23). -/
def perLane (c : Nat) : Bool := isV c || c = 0xF5 || c = 0xF7

/-- Whether a word takes one value from a vector operand while A is empty, and so does nothing: no acquire and no release
(R463). -/
def idle (e : Ex) (i : Instr) : Bool :=
  e.lanes = [] &&
  match i with
  | .lock a | .unlock a => isV a.toNat
  | .waitc _ _ a b => isV a.toNat || perLane b.toNat
  | .waitb _ a | .arrivex _ a => perLane a.toNat
  | _ => false

/-- What is known of the older values of LS changed throughout (log entry 19). -/
def mapOld (s : State) (f : Before → Before) : State :=
  if s.teams.all fun t => t.lsOld = [] then s
  else { s with teams := s.teams.map fun t => { t with lsOld := t.lsOld.map fun b => (b.1, f b.2) } }

/-- Whether a store to LS happens before a split's next access: it is its own, or one that it has seen (R372). -/
def Before.before (b : Before) (me : Nat × Nat × Nat) : Bool := b.writer = me || b.seers.contains me

/-- A split sees every store to LS that has been released (R372, R377). -/
def seeReleased (s : State) (me : Nat × Nat × Nat) : State :=
  mapOld s fun b => if b.released then { b with seers := me :: b.seers } else b

/-- A split's release: its stores to LS, and every one that happens before them (R372, R377). -/
def releaseOld (s : State) (me : Nat × Nat × Nat) : State :=
  mapOld s fun b => if b.before me then { b with released := true } else b

/-- The stores to LS that happen before some splits of a group happen before another split of it too: what a fork hands to the new
split, and a merge to the survivor (R383). -/
def shareOrder (s : State) (tid gi : Nat) (froms : List Nat) (heir : Nat) : State :=
  mapOld s fun b => if froms.any fun r => b.before (tid, gi, r) then { b with seers := (tid, gi, heir) :: b.seers } else b

/-- A rank taken by a new split: what a split of that rank did before it ended is not its own. -/
def renewRank (s : State) (tid gi rank : Nat) : State :=
  mapOld s fun b =>
    { b with
      writer := if b.writer = (tid, gi, rank) then (tid, gi, 16) else b.writer
      seers := b.seers.filter fun x => x ≠ (tid, gi, rank) }

/-- Whether the split waits in its word, which has released but not acquired yet. -/
def waitsInWord (s : State) (e : Ex) : Bool :=
  match findSplit s e.x.tid e.x.gi e.x.rank with
  | some x => x.st = .parked && x.park ≠ .trap
  | none => false

/-- What a word of a split does to the older values of LS that other splits may still read (R371, R377; log entry 19): one that
releases releases the split's stores, and one that acquires makes released stores seen once it completes. -/
def noteOrder (s : State) (e : Ex) (i : Instr) : State :=
  let me := (e.x.tid, e.x.gi, e.x.rank)
  if (s.teams.all fun t => t.lsOld = []) || idle e i then s
  else
    let s := if releases i then releaseOld s me else s
    if waitsInWord s e then s
    else if acquires i then seeReleased s me
    else s

/-- Whether a word's body has done what the word does, if only in part: it neither stalled nor trapped. -/
def Res.ran : Res → Bool
  | .stall | .trap .. => false
  | _ => true

/-- Whether a word's body has placed a state of its own, which may hold its split up. -/
def Res.places : Res → Bool
  | .moved _ => true
  | _ => false

/-- A split that a translation holds up keeps the word it was executing (R401). -/
def keepWord (s : State) (e : Ex) (w : Word) : State :=
  match findSplit s e.x.tid e.x.gi e.x.rank with
  | some x =>
    if x.st = .parked && [Park.walk, .fault, .ats].contains x.park then setSplit s e fun x => { x with parkWord := some w } else s
  | none => s

/-- A split issues a word (R394). A capture record is a side effect of its team (R362). -/
def issue (s : State) (e : Ex) (i : Instr) (w : Word) (badField : Bool) (body : Ex → State → Res) : State :=
  if !mayIssue s e || mustWait s e i then s
  else
    let s0 := tidy s
    let s1 := beforeIssue s0 e
    let r := checkThen e i w badField body s1
    let t := settle s0 e w r
    let t := if r.ran then noteOrder t e i else t
    let s2 := if r.places then keepWord t e w else t
    let caught := s2.fx.any fun f => match f with | .cap .. => true | _ => false
    let s2 := if caught then updTeam s2 e.x.tid fun t => { t with sideEffect := true } else s2
    match s2.devFail with
    | some f => waitDevice s0 e (some w) f
    | none => tidy s2

/-- The word of an instruction; an event has none. -/
def wordOf (i : Instr) : Word := (encode i).getD 0#32

/-! ## Watchpoints of engine and stream operations (R440, R442) -/

/-- A SYNC packet of an engine's or a stream operation's trace marker (R442): its group, after the branch bits of that group's
splits (R437), and no split. -/
def streamSync (s : State) (l : Launch) (t : Team) (gi : Nat) (pc : DWord) (wp : Nat) : State :=
  match findCtx s l.ctx with
  | none => s
  | some c =>
    if c.trace = 0#64 then s
    else
      let s := putPacket (flushGroup s t.tid gi) l.ctx 7 0 gi t.ordinal
        (bytesOf 8 (Config.cycle t.core s.clock).toNat ++ bytesOf 8 c.gseq ++
          bytesOf 4 (pc - l.code).toNat ++ [3#8] ++ bytesOf 1 wp ++ bytesOf 2 t.core)
      updCtx s l.ctx fun c => { c with gseq := c.gseq + 1 }

/-- Engine and stream operations are counted and marked by watchpoints, and never trap (R440). -/
def streamWatch (s : State) (l : Launch) (t : Team) (gi : Nat) (pc : DWord) (fx : List Fx) : State :=
  (upTo 8).foldl (fun s k =>
    let q := mapGet ({} : Watch) s.dev.watches (t.core * 8 + k)
    if q.field 57 54 = 0 || q.field 63 58 ≠ l.ctx || (fx.filterMap (watchMatch q {})) = [] then s
    else
      let s := countWatch s t.core k
      if q.field 53 52 = 1 then streamSync s l t gi pc k else s) s

/-! ## Words of a matrix stream (R245 to R247) -/

/-- What an executing sequencer sees. -/
structure Sx where
  lch : Launch
  tm : Team
  deriving DecidableEq, Repr

/-- The executing sequencer. -/
def sxOf (s : State) (tid : Nat) : Option Sx :=
  match findTeam s tid with
  | none => none
  | some t => (findLaunch s t.launch).map fun l => ⟨l, t⟩

/-- How a stream word ends. -/
inductive SRes where
  | done (s : State)
  | jump (pc : DWord) (s : State)
  | fault (c : Cause) (s : State)
  | park (p : SeqPark) (s : State)
  | moved (s : State)
  | stall
  deriving DecidableEq, Repr

/-- Whether a sequencer may issue. -/
def mayStream (s : State) (x : Sx) : Bool :=
  x.tm.seqState = .running && !x.tm.stopping && x.lch.rollback.isNone &&
  (match findCtx s x.lch.ctx with | some c => c.fault.isNone && !c.checkpointing | none => true)

/-- A stream fault (R247): the sequencer is FAULTED at its word, and the fault waits for its split. -/
def streamFault (s : State) (tid : Nat) (pc : DWord) (w : Word) (c : Cause) : State :=
  updTeam s tid fun t =>
    { t with
      seqState := .faulted, seqPark := .none, seqSkip := false
      seqImm := 0#32, seqMod := 0#32, seqHint := 0#32
      seqFault := some { cause := c, info0 := loWord pc, info1 := hiWord pc, info2 := w, info3 := 0x80000000#32 } }

/-- A stream word has completed: its latch is consumed and the stream continues at pc. -/
def streamComplete (s : State) (tid : Nat) (pc : DWord) : State :=
  updTeam s tid fun t =>
    { t with seqPc := pc, seqImm := 0#32, seqMod := 0#32, seqHint := 0#32, retWords := t.retWords + 1 }

/-- The end of a stream word's body carried out. -/
def streamSettle (s : State) (x : Sx) (w : Word) (r : SRes) : State :=
  match r with
  | .done t => streamComplete t x.tm.tid (x.tm.seqPc + 4#64)
  | .jump pc t => streamComplete t x.tm.tid pc
  | .fault c t => streamFault t x.tm.tid x.tm.seqPc w c
  | .park p t => updTeam t x.tm.tid fun u => { u with seqState := .parked, seqPark := p }
  | .moved t => t
  | .stall => s

/-- A sequencer issues a word, or skips it after an MGUARD (R259). -/
def issueStream (s : State) (x : Sx) (i : Instr) (w : Word) (badField : Bool) (body : Sx → State → SRes) : State :=
  if !mayStream s x then s
  else if x.tm.seqSkip then
    let isPrefix := [1, 2, 3].contains (w.toNat / 2 ^ 24)
    updTeam s x.tm.tid fun t => { t with seqPc := t.seqPc + 4#64, seqSkip := isPrefix }
  else
    let s0 := tidy s
    let r := match encodingCause x.lch.hdr true false badField x.tm.seqImm x.tm.seqMod x.tm.seqHint w i with
      | some (c, _, _) => .fault c s0
      | none => body x s0
    tidy (streamSettle s0 x w r)

/-! ## The two agents that execute words -/

/-- A word executed by whoever has the turn: a split runs body, a sequencer runs sbody. -/
def runWord (i : Instr) (w : Word) (badField : Bool) (body : Ex → State → Res) (sbody : Sx → State → SRes)
    (s : State) : Host.Outcome State Fault Refusal :=
  match s.cur with
  | .nobody => .fault .noAgent
  | .split tid gi rank =>
    (match exAt s tid gi rank with
     | some e => .next (issue s e i w badField body)
     | none => .fault .noAgent)
  | .stream tid =>
    (match sxOf s tid with
     | some x => .next (issueStream s x i w badField sbody)
     | none => .fault .noAgent)

/-- A word of group code: in a matrix stream it raises ILL_STREAM before any body (R71). -/
def groupWord (i : Instr) (body : Ex → State → Res) (s : State) : Host.Outcome State Fault Refusal :=
  runWord i (wordOf i) false body (fun _ _ => .stall) s

/-- A word of a matrix stream: in group code it raises ILL_STREAM before any body (R71). -/
def streamWord (i : Instr) (body : Sx → State → SRes) (s : State) : Host.Outcome State Fault Refusal :=
  runWord i (wordOf i) false (fun _ _ => .stall) body s

/-- A word of a split that leaves its latch as it is and moves on: a prefix word. -/
def latched (s : State) (e : Ex) (f : Split → Split) : Res :=
  .moved (updTeam (setSplit s e fun x => { f x with pc := e.x.pc + 4#64 }) e.x.tid fun t =>
    { t with retWords := t.retWords + 1 })

/-- A word that completes with a state its body gives, at PC + 4. -/
def plainWord (i : Instr) (body : Ex → State → State) (s : State) : Host.Outcome State Fault Refusal :=
  groupWord i (fun e s => .done (body e s)) s

end Sys2Proof.Machine
end

