-- ==== Sys2Proof/Machine/Fetch.lean ====
section
/-! DEFINITION. Fetching an instruction word for a split and for a matrix sequencer: canonical form, alignment, the
X permission (R110), and misses and translation faults that park the requester (R112, R115, R246). -/

namespace Sys2Proof.Machine

/-- What a fetch answers. -/
inductive FetchRes where
  | word (w : Word)
  | bad (c : Cause)
  | miss
  | fault (c : Cause) (level : Nat)
  | ats (page : Nat)
  deriving DecidableEq, Repr

/-- The word at a target: memory of this device at its home, host memory, or a word of another device, whose
content is not in this machine and is a free value (log entry 2). -/
def codeWord (s : State) (t : Target) : Word :=
  if t.tier = 2 then BitVec.ofNat 32 (readNum s.mem.hostMem (t.pa / 4 * 4) 4)
  else if t.tier = 3 && t.dev ≠ s.dev.devNum then loWord (Config.freeValue s.fresh)
  else (peekCell s.mem t.pa).1

/-- Whether a miss of a requester finds a miss slot of its die (R112). -/
def slotFor (s : State) (core ctx : Nat) (pc : DWord) : Bool := missSlot s.mem (dieOf core) ctx (pc.toNat / 65536)

/-- A fetch at a PC for a core and a context. -/
def fetchAt (s : State) (core ctx : Nat) (pc : DWord) : FetchRes :=
  if !canonical pc then .bad vaCanon
  else if pc.toNat % 4 ≠ 0 then .bad addrMisalign
  else
    match translate s core ctx pc 3 with
    | .ok t => .word (codeWord s t)
    | .miss => .miss
    | .fault c l => .fault c l
    | .ats p => .ats p
    | .bad c => .bad c

/-- What a fetch does at the home it passes (R44, R88): an owned copy is recalled, the sector becomes resident, an error is
found. -/
def fetchTouch (s : State) (core ctx : Nat) (pc : DWord) : State :=
  match translate s core ctx pc 3 with
  | .ok t => if t.tier = 2 || isRemote s t then s else (homeRead s t.pa).2
  | _ => s

/-- A split's fetch that gave no word: the split parks, or traps with its own PC as the address (R115, R401); the
instruction word that was never fetched is a free value (log entry 2). -/
def fetchFail (s : State) (e : Ex) (r : FetchRes) : State :=
  let who := Requester.split e.x.tid e.x.gi e.x.rank
  let park := fun (s : State) (p : Park) => setSplit s e fun x => { parkAs p 0 x with parkWord := none }
  match r with
  | .word _ => s
  | .bad c =>
    let w := loWord (Config.freeValue s.fresh)
    let t := addrTrapAt (tidy { s with fresh := s.fresh + 1 }) e w c e.x.amask (laneCount e.x.amask) (e.low.getD 0xFF) e.x.pc
    (match t.2.devFail with
     | some f => waitDevice s e none f
     | none => tidy (deliverTrap t.2 e t.1))
  | .miss =>
    if !slotFor s e.tm.core e.lch.ctx e.x.pc then s
    else park (addWalk s e.lch.ctx e.tm.core e.x.pc 3 who e.x.amask) .walk
  | .fault c l => park (addFault s e.lch.ctx e.tm.core e.x.pc 3 l e.tm.core c who e.x.amask).2 .fault
  | .ats p => park (addAts s e.lch.ctx e.tm.core e.x.pc p who e.x.amask) .ats

/-- A sequencer's fetch that gave no word (R246). -/
def streamFetchFail (s : State) (x : Sx) (r : FetchRes) : State :=
  let who := Requester.stream x.tm.tid
  let park := fun (s : State) => updTeam s x.tm.tid fun t => { t with seqState := .parked, seqPark := .walk }
  match r with
  | .word _ => s
  | .bad c =>
    streamFault { s with fresh := s.fresh + 1 } x.tm.tid x.tm.seqPc (loWord (Config.freeValue s.fresh)) c
  | .miss => if !slotFor s x.tm.core x.lch.ctx x.tm.seqPc then s else park (addWalk s x.lch.ctx x.tm.core x.tm.seqPc 3 who 0#64)
  | .fault c l => park (addFault s x.lch.ctx x.tm.core x.tm.seqPc 3 l x.tm.core c who 0#64).2
  | .ats p => park (addAts s x.lch.ctx x.tm.core x.tm.seqPc p who 0#64)

/-- A word with a nonzero reserved bit: the first cause of R72 that it meets, in a split or in a stream. -/
def badWord (w : Word) (s : State) : Host.Outcome State Fault Refusal :=
  match nearestInstr w with
  | some i => runWord i w true (fun _ _ => .stall) (fun _ _ => .stall) s
  | none => runWord (.reservedOpcode w) w true (fun e s => .trap (beforeTrap e w illField e.x.amask w 0#32 0#32) s)
      (fun _ s => .fault illField s) s

end Sys2Proof.Machine
end

