-- ==== Sys2Proof/Machine/Load.lean ====
section
/-! DEFINITION. Loads and stores (R158 to R165), LDACQ, STREL and FENCE (R378 to R380), PREF and CCTL (R167, R168),
LADD (R166) and WAITN (R169, R170). A global access is performed when its word issues; its registers are written,
and its counter falls, when the reply or acknowledgement comes. Accesses of local stores are performed at once. -/

namespace Sys2Proof.Machine

/-! ## Addresses (R52, R159) -/

/-- The byte offset of an F-M word (R52). -/
def byteOff (e : Ex) (o : BitVec 5) (size : Nat) : Int :=
  (if e.x.imm = 0#32 then o.toInt else signed 29 (bits e.x.imm.toNat 23 0 * 32 + o.toNat)) * size

/-- The 64-bit address of a lane (R159); its tag is that of the low register (R40, log entry 8). -/
def addr64 (e : Ex) (a : Nat) (off : Int) (i : Nat) : DWord := (operand64 e false a i).1 + BitVec.ofInt 64 off

/-- The lanes whose address register carries POISON: of a pair, the low one (R40, log entry 8). -/
def poisonAddr (e : Ex) (a : Nat) (lanes : List Nat) : List Nat := lanes.filter fun i => anyPoison e a i

/-- A shape of access: global, the team's LS, a cluster peer's LS, AB or CB. -/
inductive Space where
  | glob | ls | cl | ab | cb
  deriving DecidableEq, Repr

/-- The store behind a local space. -/
def Space.store : Space → Store
  | .ab => .ab | .cb => .cb | _ => .ls

/-- What the checking of all lanes of a local access answers. -/
inductive LPlan where
  | go (ts : List (Nat × Nat × Nat))
  | stall
  | trap (cause : Cause) (lanes : List (Nat × DWord))
  deriving DecidableEq, Repr

/-- The cluster's team of a rank on its core (R159). -/
def peerOf (s : State) (e : Ex) (rank : Nat) : Option Team :=
  s.teams.find? fun t => t.launch = e.tm.launch && t.cluster = e.tm.cluster && t.rank = rank

/-- The team and offset a local address names, with how many bytes it may span (R153, R159). -/
def localAt (s : State) (e : Ex) (sp : Space) (v : Word) (off : Int) : Option Nat × Int × Int :=
  match sp with
  | .cl =>
    let o := (bits v.toNat 17 0 : Int) + off
    let rank := bits v.toNat 31 28
    if bits v.toNat 27 18 ≠ 0 || e.lch.cw * e.lch.ch ≤ rank then (none, o, 0)
    else ((peerOf s e rank).map fun t => t.tid, o, e.lch.hdr.ls)
  | _ => (some e.x.tid, (v.toNat : Int) + off, storeSize e.lch.hdr sp.store)

/-- All lanes of a local access checked in the order of R160: alignment, then bounds. The LS of a cluster's team that a save or a
discard has taken off its core is reached only when the team is back: the access stalls till then (R153, R159; DESIGN CHOICE, log
entry 29). -/
def planLocal (s : State) (e : Ex) (sp : Space) (size : Nat) (off : Int) (vs : List (Nat × Word)) : LPlan :=
  let rs := vs.map fun v => (v.1, localAt s e sp v.2 off)
  let named := fun (l : List (Nat × Option Nat × Int × Int)) => l.map fun r => (r.1, BitVec.ofInt 64 r.2.2.1)
  let ma := rs.filter fun r => r.2.2.1 % (size : Int) ≠ 0
  let ob := rs.filter fun r => r.2.2.1 < 0 || r.2.2.2 < r.2.2.1 + (size : Int)
  if ma ≠ [] then .trap addrMisalign (named ma)
  else if ob ≠ [] then .trap (boundsCause sp.store) (named ob)
  else if rs.any fun r => r.2.1.isNone then .stall
  else .go (rs.filterMap fun r => r.2.1.map fun t => (r.1, t, r.2.2.1.toNat))

/-- The local addresses of the lanes of a word. -/
def localVals (e : Ex) (a : Nat) (lanes : List Nat) : List (Nat × Word) :=
  lanes.map fun i => (i, (operand e .int a i 0#32).1)

/-! ## Words and registers of an access (R40, R52, R161) -/

/-- The register cells a load of width code w gives from the words it touches, where it starts at byte b of the
first (R52, R161). -/
def loadRegs (w b : Nat) (ws : List Cell) : List Cell :=
  let c := ws.headD (0#32, unmarked)
  let x := c.1.toNat >>> (8 * b)
  match w with
  | 0 => [(BitVec.ofNat 32 (x % 256), c.2)]
  | 1 => [(BitVec.ofInt 32 (signed 8 x), c.2)]
  | 2 => [(BitVec.ofNat 32 (x % 65536), c.2)]
  | 3 => [(BitVec.ofInt 32 (signed 16 x), c.2)]
  | 5 => let t := summarise (ws.map fun q => q.2); ws.map fun q => (q.1, t)
  | _ => ws

/-- Loaded cells under the effective rule (R161); olds are the destination's old tags. The one value moved stands for
operand a and operand b (log entry 14). -/
def loadTags (rule : Nat) (site : Tag) (olds : List Tag) (rs : List Cell) : List Cell :=
  rs.zipIdx.map fun r => (r.1.1, ruleTag rule .carryA site [r.1.2] r.1.2 r.1.2 (olds.getD r.2 0#16))

/-- The cell of a register code in a lane. -/
def regCell (g : Group) (c i : Nat) : Cell := if isV c then vreg g c i else sreg g (c - 0xC0)

/-- The old tags of n registers in a lane. -/
def oldTags (g : Group) (d n i : Nat) : List Tag := (upTo n).map fun k => (regCell g (d + k) i).2

/-- The data cells a store of width code w takes from d (R162): for 64 bits, the low register's tag for both. -/
def storeRegs (g : Group) (d w i : Nat) : List Cell :=
  let rs := (upTo (widthRegs w)).map fun k => regCell g (d + k) i
  if w = 5 then rs.map fun r => (r.1, (rs.headD (0#32, 0#16)).2) else rs

/-- The tag a store writes to a word (R162). -/
def storeTag (rule : Nat) (site : Tag) (t old : Tag) : Tag := ruleTag rule .carryA site [t] t t old

/-- The size bytes of v put at byte b of a word. -/
def putBytes (old v : Word) (b size : Nat) : Word :=
  let m := (2 ^ (8 * size) - 1) * 2 ^ (8 * b)
  BitVec.ofNat 32 (old.toNat.land (2 ^ 32 - 1 - m) + v.toNat % 2 ^ (8 * size) * 2 ^ (8 * b))

/-! ## Global targets (R43, R118, R155, R287, R421) -/

/-- Whether a target's home is on this device. -/
def isHome (s : State) (t : Target) : Bool := t.tier ≠ 2 && !isRemote s t

/-- A key that tells the words of all homes apart, by physical address. -/
def homeKey (s : State) (t : Target) : Nat :=
  if isHome s t then t.pa else t.pa + 2 ^ 60 * (if t.tier = 2 then 1 else 2 + t.dev)

/-- Whether a write at a target by a launch is staged (R118). A page of the host or of another device has no staging pool at
its home, so a write to it is not staged whatever STAGED says (DESIGN CHOICE, log entry 17). -/
def isStaged (s : State) (lid va : Nat) (t : Target) : Bool :=
  match findLaunch s lid with
  | some l => t.staged && isHome s t && l.node && l.replayable && inOuts l va
  | none => false

/-- The word of a launch's access at a target of this device or of its host, read at the home or, where l1 is set,
through a core's L1 (R43, R118, R155, R374). -/
def readGlobal (s : State) (lid core : Nat) (l1 : Bool) (va : Nat) (t : Target) : Cell × State :=
  let pa := t.pa / 4 * 4
  if t.tier = 2 then ((BitVec.ofNat 32 (readNum s.mem.hostMem pa 4), hostTag), s)
  else
    let r :=
      match if isStaged s lid va t then stagedWord s lid pa else none with
      | some c => (c, s)
      | none => if l1 && t.tier ≠ 3 then l1Read s core pa else homeRead (registerWord s core pa) pa
    (if t.hostShared then (r.1.1, hostTag) else r.1, r.2)

/-- The word a store of a launch merges with at a target, without its HOSTSHARED reading. -/
def oldGlobal (s : State) (lid core va : Nat) (t : Target) : Cell × State :=
  let pa := t.pa / 4 * 4
  if t.tier = 2 then ((BitVec.ofNat 32 (readNum s.mem.hostMem pa 4), hostTag), s)
  else
    match if isStaged s lid va t then stagedWord s lid pa else none with
    | some c => (c, s)
    | none => if t.tier = 3 then homeRead (registerWord s core pa) pa else mergeBase s core pa

/-- A word written by a launch at a target of this device or of its host: staged, through a core's L1 where l1 is set, there
registered with its home late or at once, or at the home, where the core's own copy that is not owned goes (R43, R118, R155,
R371). -/
def writeGlobal (s : State) (lid core : Nat) (l1 : Bool) (va : Nat) (t : Target) (c : Cell) (late : Bool := false) : State :=
  let pa := t.pa / 4 * 4
  if t.tier = 2 then updMem s fun m => { m with hostMem := writeBytes m.hostMem pa (bytesOf 4 c.1.toNat) }
  else if isStaged s lid va t then stagedWrite s lid pa c
  else if l1 && t.tier ≠ 3 then l1Write s core pa late c
  else dropCopy (homeWrite (registerWord s core pa) pa c) core pa

/-- Words written by an engine or a sequencer for a launch at targets of this device or of its host: staged, in host memory, or at
their homes a line at a time, where a core's unregistered words are registered first (R41, R43, R118, R136). -/
def writeGlobals (s : State) (lid core : Nat) (ws : List (Nat × Target × Cell)) : State :=
  let plain := fun (w : Nat × Target × Cell) => w.2.1.tier ≠ 2 && !isStaged s lid w.1 w.2.1
  let s1 := ws.foldl (fun s w => if plain w then s else writeGlobal s lid core false w.1 w.2.1 w.2.2) s
  let home := (ws.filter plain).map fun w => (w.2.1.pa / 4 * 4, w.2.2)
  homeWriteMany (home.foldl (fun s w => registerWord s core w.1) s1) home

/-- A team has made a side effect (R362). -/
def sideEffect (s : State) (tid : Nat) : State := updTeam s tid fun t => { t with sideEffect := true }

/-- What happens before the writes of a word are performed: a staging pool without room for every line that the word stages anew,
or a target outside a replayable node's outputs, makes the node non-replayable (R120, R421), and the team has made a side
effect (R362). -/
def beforeWrites (s : State) (lid tid : Nat) (ts : List (Nat × Target)) : State :=
  let s := sideEffect s tid
  let lines := ((ts.filter fun x => isStaged s lid x.1 x.2 && (stagedLine s.mem lid (x.2.pa / 64)).isNone).map fun x =>
    x.2.pa / 64).dedup
  match poolFull s lines with
  | some st => unreplay (updMem s fun m => { m with stageExhaust := bump m.stageExhaust st 1 }) lid
  | none => if ts.any fun x => !isStaged s lid x.1 x.2 then unreplay s lid else s

/-- An order of performing that the manual leaves open (R93, R163): the elements of a list drawn one at a time by
the free choice. -/
def freeOrder {α : Type} (s : State) : Nat → List α → List α × State
  | 0, l => (l, s)
  | n + 1, l =>
    match l with
    | [] => ([], s)
    | _ =>
      let (k, s) := freeChoice s l.length
      let r := freeOrder s n (l.eraseIdx k)
      ((l[k]?).toList ++ r.1, r.2)

/-- The order in which accesses are performed: as they stand where no two touch one word, else the free choice. -/
def performOrder {α : Type} (s : State) (key : α → Nat) (l : List α) : List α × State :=
  if (l.map key).dedup.length = l.length then (l, s) else freeOrder s l.length l

/-! ## Counters (R169) -/

/-- The outstanding count of a group: 0 loads, 1 stores, 2 copies, 3 typed. -/
def countOf (g : Group) (k : Nat) : Nat := match k with | 0 => g.loads | 1 => g.stores | 2 => g.copies | _ => g.typed
/-- A group whose counter k takes a value. -/
def withCount (g : Group) (k v : Nat) : Group :=
  match k with
  | 0 => { g with loads := v } | 1 => { g with stores := v } | 2 => { g with copies := v }
  | _ => { g with typed := v }
/-- A counter raised by n. -/
def countUp (s : State) (tid gi k n : Nat) : State := updGroup s tid gi fun g => withCount g k (countOf g k + n)
/-- Whether an instruction would raise a counter above 255. -/
def countFull (e : Ex) (k : Nat) : Bool := 255 ≤ countOf e.g k
/-- A split parked on a full counter at its word (R169, R322). -/
def fullStop (s : State) (e : Ex) : Res := .moved (setSplit s e (parkAs .counters 0))
/-- The parked splits of a group that wait for its counters look again. -/
def wakeCounters (s : State) (tid gi : Nat) : State :=
  { s with splits := updBy (fun x => x.tid = tid && x.gi = gi && x.st = .parked && x.park = .counters) unpark s.splits }

/-- A counter lowered by one. -/
def countDown (s : State) (tid gi k : Nat) : State :=
  wakeCounters (updGroup s tid gi fun g => withCount g k (countOf g k - 1)) tid gi

/-- An operation in flight that holds a counter of its group. -/
def flightOf (e : Ex) (w : Word) (k id : Nat) (kind : FlightKind) : Flight :=
  { id := id, kind := kind, tid := e.x.tid, gi := e.x.gi, rank := e.x.rank, pc := e.x.pc, scalars := [], cells := []
    events := [], regs := [], counter := some k, isRemote := false, acquire := false, word := w }

/-! ## Request numbers (R89) -/

/-- The request numbers of each slice that an access of lines takes at its core's port: one for each line, and at most the eight
there are (R89; a word's requests issue together, DESIGN CHOICE, log entry 20). -/
def chansOf (lines : List Nat) : List (Nat × Nat) :=
  let hbm := lines.dedup.filter fun l => !inLpddr (l * 64)
  ((hbm.map fun l => sliceOf (l * 64)).dedup).map fun k => (k, min 8 (hbm.filter fun l => sliceOf (l * 64) = k).length)

/-- The request numbers of a slice in use at a core's port. -/
def numsUsed (m : Mem) (core slice : Nat) : Nat :=
  ((m.flights.filter fun f => f.core = core).map fun f =>
    ((f.chans.filter fun c => c.1 = slice).map fun c => c.2).foldl (· + ·) 0).foldl (· + ·) 0

/-- Whether another split's request awaits a number at the port and may still issue, so that no other overtakes it (R89). -/
def portHeld (s : State) (e : Ex) : Bool :=
  s.mem.portWait.any fun w => w.1 = e.tm.core && w.2 ≠ (e.x.tid, e.x.gi, e.x.rank) &&
    match exAt s w.2.1 w.2.2.1 w.2.2.2 with
    | some h => mayIssue s h
    | none => false

/-- The request numbers of a word taken, or how the word ends instead: it stalls behind another requester, or is the one that
the port waits with (R89). -/
def takePort (s : State) (e : Ex) (need : List (Nat × Nat)) (k : State → Res) : Res :=
  if need = [] then k s
  else if portHeld s e then .stall
  else
    let rest := s.mem.portWait.filter fun w => w.1 ≠ e.tm.core
    if need.all fun c => numsUsed s.mem e.tm.core c.1 + c.2 ≤ 8 then
      k (if rest.length = s.mem.portWait.length then s else updMem s fun m => { m with portWait := rest })
    else .moved (updMem s fun m => { m with portWait := rest ++ [(e.tm.core, e.x.tid, e.x.gi, e.x.rank)] })

/-- Whether a droppable load of the split that has not replied reads a block that an access is about to reach: the access waits,
so that the load keeps its place before it (R164, R371). -/
def overtakes (s : State) (e : Ex) (ts : List (Nat × Target)) : Bool :=
  (flightsOf s e).any fun f => f.again ≠ [] && ts.any fun t => f.blocks.contains (homeKey s t.2 / 16)

/-- The lines of this device's HBM4E or LPDDR-6 that an access reaches. -/
def linesOf (s : State) (ts : List (Nat × Target)) : List Nat :=
  ((ts.filter fun t => isHome s t.2).map fun t => t.2.pa / 64).dedup

/-! ## Local loads and stores -/

/-- Effects on a local store that a watchpoint may match (R440). -/
def localFx (sp : Space) (size : Nat) (wr : Bool) (ts : List (Nat × Nat × Nat)) : List Fx :=
  ts.map fun t =>
    match sp with
    | .ab => .ab t.1 t.2.2 size wr
    | .cb => .cb t.1 (t.2.2 / 1024) wr
    | _ => .ls t.1 t.2.2 size wr

/-- The words of a local store that an access touches. -/
def localWords (s : State) (sp : Space) (w tid ea : Nat) : List Cell :=
  match findTeam s tid with
  | some t => (upTo (widthRegs w)).map fun k => storeWord t sp.store (ea / 4 + k)
  | none => []

/-- Destination cells of a lane, keyed as vector or scalar registers. -/
def destKeys (d i : Nat) (rs : List Cell) : List (Nat × Cell) :=
  rs.zipIdx.map fun r => (if isV d then (d + r.2) * 64 + i else d - 0xC0 + r.2, r.1)

/-- Whether a split may still read what a word held before: it neither stored the word nor has acquired since its writer's
release (R371, R373; log entry 19). -/
def mayReadOld (x : Split) (b : Before) : Bool :=
  let me := (x.tid, x.gi, x.rank)
  b.writer ≠ me && !b.seers.contains me

/-- A team's LS as a split's plain load reads it when it reads older values where it may. -/
def olderLs (x : Split) (t : Team) : Team :=
  { t with ls := mapSetMany (0#32, 0#16) t.ls ((t.lsOld.filter fun b => mayReadOld x b.2).map fun b => (b.1, b.2.old)) }

/-- The machine as a plain load of LS sees it: the free choice where older values may still be read (R371, R391). -/
def loadView (s : State) (e : Ex) : State × State :=
  if s.teams.any fun t => t.lsOld.any fun b => mayReadOld e.x b.2 then
    let (k, s) := freeChoice s 2
    (if k = 0 then s else { s with teams := s.teams.map (olderLs e.x) }, s)
  else (s, s)

/-- A local load performed: every lane's registers written (R161). -/
def localLoad (s : State) (e : Ex) (sp : Space) (d w : Nat) (ts : List (Nat × Nat × Nat)) : State :=
  let (view, s) := loadView s e
  let ws := ts.flatMap fun t =>
    let rs := loadRegs w (t.2.2 % 4) (localWords view sp w t.2.1 t.2.2)
    destKeys d t.1 (loadTags (ruleOf e) (own e) (oldTags e.g d (widthRegs w) t.1) rs)
  let s := if isV d then putV s e ws else putS s e ws
  { s with fx := s.fx ++ localFx sp (widthSize w) false ts }

/-- The words of a store as the lanes of one word leave them, by team, before they are written. -/
abbrev Pending := List (Nat × List (Nat × Cell))

/-- A word of a team's store as the lanes so far leave it. -/
def pendWord (s : State) (sp : Space) (p : Pending) (tid w : Nat) : Cell :=
  match (p.find? fun q => q.1 = tid).bind fun q => (q.2.reverse.find? fun c => c.1 = w) with
  | some c => c.2
  | none => (match findTeam s tid with | some t => storeWord t sp.store w | none => (0#32, 0#16))

/-- The words that one lane of a local store writes (R162). -/
def localLaneWords (s : State) (e : Ex) (sp : Space) (d w : Nat) (p : Pending) (t : Nat × Nat × Nat) : List (Nat × Cell) :=
  (storeRegs e.g d w t.1).zipIdx.map fun r =>
    let old := pendWord s sp p t.2.1 (t.2.2 / 4 + r.2)
    let v := if widthSize w < 4 then putBytes old.1 r.1.1 (t.2.2 % 4) (widthSize w) else r.1.1
    (t.2.2 / 4 + r.2, (v, storeTag (ruleOf e) (own e) r.1.2 old.2))

/-- One lane's words put behind those of the lanes before it. -/
def addPending (p : Pending) (tid : Nat) (ws : List (Nat × Cell)) : Pending :=
  if p.any fun q => q.1 = tid then updBy (fun q => q.1 = tid) (fun q => (q.1, q.2 ++ ws)) p else p ++ [(tid, ws)]

/-- A word's last value among those written to it. -/
def lastWords (ws : List (Nat × Cell)) : List (Nat × Cell) :=
  (ws.map fun w => w.1).dedup.filterMap fun k => ws.reverse.find? fun w => w.1 = k

/-- The older values that other splits may still read after a plain store to words of a team's LS (R371, R391; log entry 19):
kept where another split, or another team of the cluster, could look. -/
def keepOld (s : State) (e : Ex) (sp : Space) (tid : Nat) (t : Team) (ws : List (Nat × Cell)) (u : Team) : Team :=
  let others := s.splits.any fun x => x.st ≠ .parked && (x.tid ≠ e.x.tid || x.gi ≠ e.x.gi || x.rank ≠ e.x.rank) &&
    (x.tid = tid || e.lch.cw * e.lch.ch ≠ 1)
  if (sp = .ls || sp = .cl) && others then
    { u with lsOld := ws.foldl (fun m w =>
        mapPut m w.1 { old := mapGet (0#32, 0#16) t.ls w.1, writer := (e.x.tid, e.x.gi, e.x.rank) }) u.lsOld }
  else u

/-- A local store performed (R162), its lanes in an order that is free where two touch one word (R163). What all its lanes
write is one write of each granule (R41). -/
def localStore (s : State) (e : Ex) (sp : Space) (d w : Nat) (ts : List (Nat × Nat × Nat)) : State :=
  let r := performOrder s (fun t : Nat × Nat × Nat => t.2.1 * 2 ^ 32 + t.2.2 / (if widthSize w < 4 then 4 else widthSize w)) ts
  let g := r.1.foldl (fun (acc : Pending × List Fx) t =>
    let ws := localLaneWords r.2 e sp d w acc.1 t
    (addPending acc.1 t.2.1 ws, acc.2 ++ ws.map fun x => .memTag t.1 (x.1 * 4) x.2.2)) ([], [])
  let s := g.1.foldl (fun s p =>
    updTeam s p.1 fun u => keepOld s e sp p.1 u (lastWords p.2) (setStoreWords u sp.store (lastWords p.2))) r.2
  let s := if sp = .cl then sideEffect s e.x.tid else s
  { s with fx := s.fx ++ g.2 ++ localFx sp (widthSize w) true ts }

/-- The body of a local load or store (R158, R160): POISON addresses, alignment, bounds, a full counter, then the
access. The ADDR record of a load that is made once for the split has LANE 0 and a lane count of 1, the one address that was
formed, while %tmask names every active lane (R34 says neither; DESIGN CHOICE, log entry 30). -/
def localBody (st : Bool) (sp : Space) (i : Instr) (d a w : Nat) (o : BitVec 5) (once : Bool) (e : Ex) (s : State) :
    Res :=
  let word := wordOf i
  let lanes := if once then [0] else e.lanes
  let mask := fun (ls : List Nat) => if once then e.lanes else ls
  let bad := poisonAddr e a lanes
  if bad ≠ [] then .trap (escapeTrap e word (mask bad) 1 a) s
  else
    match planLocal s e sp (widthSize w) (byteOff e o (widthSize w)) (localVals e a lanes) with
    | .trap c ls =>
      let r := addrTrapAt s e word c (if once then e.x.amask else maskOf (ls.map fun l => l.1)) ls.length
        ((ls.head?.map fun l => l.1).getD 0xFF) ((ls.head?.map fun l => l.2).getD 0#64)
      .trap r.1 r.2
    | .stall => .stall
    | .go ts =>
      let k := if sp = .ab || sp = .cb then 3 else if st then 1 else 0
      if lanes ≠ [] && countFull e k then fullStop s e
      else if st then .done (localStore s e sp d w ts) else .done (localLoad s e sp d w ts)

/-- LDL (R158, R161). -/
def execLdl (d a : BitVec 8) (w : BitVec 3) (o : BitVec 5) (s : State) : Host.Outcome State Fault Refusal :=
  groupWord (.ldl d a w o) (localBody false .ls (.ldl d a w o) d.toNat a.toNat w.toNat o false) s
/-- STL (R158, R162). -/
def execStl (d a : BitVec 8) (w : BitVec 3) (o : BitVec 5) (s : State) : Host.Outcome State Fault Refusal :=
  groupWord (.stl d a w o) (localBody true .ls (.stl d a w o) d.toNat a.toNat w.toNat o false) s
/-- LDC (R158, R159). -/
def execLdc (d a : BitVec 8) (w : BitVec 3) (o : BitVec 5) (s : State) : Host.Outcome State Fault Refusal :=
  groupWord (.ldc d a w o) (localBody false .cl (.ldc d a w o) d.toNat a.toNat w.toNat o false) s
/-- STC (R158, R159). -/
def execStc (d a : BitVec 8) (w : BitVec 3) (o : BitVec 5) (s : State) : Host.Outcome State Fault Refusal :=
  groupWord (.stc d a w o) (localBody true .cl (.stc d a w o) d.toNat a.toNat w.toNat o false) s
/-- LDA (R158, R161). -/
def execLda (d a : BitVec 8) (w : BitVec 3) (o : BitVec 5) (s : State) : Host.Outcome State Fault Refusal :=
  groupWord (.lda d a w o) (localBody false .ab (.lda d a w o) d.toNat a.toNat w.toNat o false) s
/-- STA (R158, R162). -/
def execSta (d a : BitVec 8) (w : BitVec 3) (o : BitVec 5) (s : State) : Host.Outcome State Fault Refusal :=
  groupWord (.sta d a w o) (localBody true .ab (.sta d a w o) d.toNat a.toNat w.toNat o false) s
/-- LDK (R158, R161). -/
def execLdk (d a : BitVec 8) (w : BitVec 3) (o : BitVec 5) (s : State) : Host.Outcome State Fault Refusal :=
  groupWord (.ldk d a w o) (localBody false .cb (.ldk d a w o) d.toNat a.toNat w.toNat o false) s
/-- LDUL (R158, R161): once for the split. -/
def execLdul (d a : BitVec 8) (w : BitVec 3) (o : BitVec 5) (s : State) : Host.Outcome State Fault Refusal :=
  groupWord (.ldul d a w o) (localBody false .ls (.ldul d a w o) d.toNat a.toNat w.toNat o true) s

/-! ## Global loads -/

/-- The words a lane's access reads here, in address order. -/
def readLane (s : State) (lid core : Nat) (l1 : Bool) (va n : Nat) (t : Target) : List Cell × State :=
  (upTo n).foldl (fun (acc : List Cell × State) (k : Nat) =>
    let r := readGlobal acc.2 lid core l1 (va / 4 * 4 + 4 * k) { t with pa := t.pa / 4 * 4 + 4 * k }
    (acc.1 ++ [r.1], r.2)) ([], s)

/-- What a lane of a global load takes of the words it reads (R161, R287). -/
def laneFill (e : Ex) (d w : Nat) (x : Nat × Target) : Fill :=
  { lane := if isV d then x.1 else 64, reg := d, words := widthRegs w, w := w, off := x.2.pa % 4, rule := ruleOf e
    site := own e, olds := oldTags e.g d (widthRegs w) x.1, host := x.2.hostShared }

/-- The address of a lane among those of an access. -/
def laneVa (vas : List (Nat × DWord)) (i : Nat) : DWord := ((vas.find? fun v => v.1 = i).map fun v => v.2).getD 0#64

/-- A lane of a global load: its cells now, or the words it awaits from another device (R287). -/
def loadLane (e : Ex) (l1 : Bool) (d w : Nat) (vas : List (Nat × DWord))
    (acc : List (Nat × Cell) × List Fill × State) (x : Nat × Target) : List (Nat × Cell) × List Fill × State :=
  let n := widthRegs w
  let olds := oldTags e.g d n x.1
  if isRemote acc.2.2 x.2 then
    (acc.1, acc.2.1 ++ [laneFill e d w x], sendAccess acc.2.2 x.2.dev 0 x.2.pa (List.replicate n (0#32, 0#16)))
  else
    let va := (laneVa vas x.1).toNat
    let r := readLane acc.2.2 e.lch.id e.tm.core l1 va n x.2
    (acc.1 ++ destKeys d x.1 (loadTags (ruleOf e) (own e) olds (loadRegs w (x.2.pa % 4) r.1)), acc.2.1, r.2)

/-- A global load performed: what it read is in flight until the reply (R89, R161). -/
def globalLoad (s : State) (e : Ex) (word : Word) (l1 acq inval : Bool) (d w : Nat) (vas : List (Nat × DWord))
    (ts : List (Nat × Target)) (chans : List (Nat × Nat)) : State :=
  let s0 := s
  let r := ts.foldl (loadLane e l1 d w vas) ([], [], s)
  let s := countUp r.2.2 e.x.tid e.x.gi 0 1
  let s := addFlight s fun id =>
    { flightOf e word 0 id .load with
      cells := if isV d then r.1 else [], scalars := if isV d then [] else r.1
      regs := (upTo (widthRegs w)).map fun k => d + k
      isRemote := r.2.1 ≠ [], acquire := acq, inval := inval, fills := r.2.1
      again := ts.map fun t => (laneFill e d w t, laneVa vas t.1)
      blocks := (ts.map fun t => homeKey s0 t.2 / 16).dedup, core := e.tm.core, chans := chans }
  let wrs := r.1.map fun c =>
    if isV d then Fx.reg (c.1 / 64) (c.1 % 64) c.2.2 else Fx.reg (c.1 + 0xC0) 64 c.2.2
  { s with fx := s.fx ++ (vas.map fun v => .glob v.1 v.2 (widthSize w) false) ++ wrs }

/-- The scope at which an access acts (R369): MOD SCOPE, else DEV. -/
def scopeOf (e : Ex) : Nat := if modScope e = 0 then 4 else modScope e
/-- Whether a scope is CLU or wider. -/
def wideScope (k : Nat) : Bool := 3 ≤ k

/-- An address fault of a global word; a scalar access stands for every active lane in %tmask, and has LANE 0 and a lane count of 1
in its ADDR record (log entry 30). -/
def globFault (s : State) (e : Ex) (w : Word) (once : Bool) (c : Cause) (ls : List (Nat × DWord)) : Res :=
  let r := addrTrapAt s e w c (if once then e.x.amask else maskOf (ls.map fun l => l.1)) ls.length
    ((ls.head?.map fun l => l.1).getD 0xFF) ((ls.head?.map fun l => l.2).getD 0#64)
  .trap r.1 r.2

/-- The lines whose words a load has to ask their homes for: through L1, those it lacks a word of. -/
def askedLines (s : State) (core : Nat) (l1 : Bool) (w : Nat) (ts : List (Nat × Target)) : List Nat :=
  linesOf s (ts.filter fun t => !l1 || t.2.tier = 3 ||
    !((upTo (widthRegs w)).all fun k => (l1Get s.mem core (t.2.pa / 4 * 4 + 4 * k)).valid))

/-- The body of a global load (R158 to R161, R379). -/
def globLoadBody (i : Instr) (d a w : Nat) (o : BitVec 5) (once acq : Bool) (e : Ex) (s : State) : Res :=
  let word := wordOf i
  let lanes := if once then [0] else e.lanes
  let bad := poisonAddr e a lanes
  if bad ≠ [] then .trap (escapeTrap e word (if once then e.lanes else bad) 1 a) s
  else
    let vas := lanes.map fun l => (l, addr64 e a (byteOff e o (widthSize w)) l)
    match planAccess s e 1 (widthSize w) (if once then some e.x.amask else none) vas with
    | .wait t => .moved t
    | .stall => .stall
    | .trap c ls => globFault s e word once c ls
    | .go ts =>
      let sc := scopeOf e
      let atHome := acq || (modScope e ≠ 0 && (w = 4 || w = 5) && wideScope sc)
      if lanes = [] then .done (if acq && wideScope sc then acquireL1 s e.tm.core else s)
      else if overtakes s e ts then .stall
      else if countFull e 0 then fullStop s e
      else
        let need := chansOf (askedLines s e.tm.core (!atHome) w ts)
        takePort s e need fun s => .done (globalLoad s e word (!atHome) acq (acq && wideScope sc) d w vas ts need)

/-- LDG (R158, R161). -/
def execLdg (d a : BitVec 8) (w : BitVec 3) (o : BitVec 5) (s : State) : Host.Outcome State Fault Refusal :=
  groupWord (.ldg d a w o) (globLoadBody (.ldg d a w o) d.toNat a.toNat w.toNat o false false) s
/-- LDU (R158, R161): once for the split. -/
def execLdu (d a : BitVec 8) (w : BitVec 3) (o : BitVec 5) (s : State) : Host.Outcome State Fault Refusal :=
  groupWord (.ldu d a w o) (globLoadBody (.ldu d a w o) d.toNat a.toNat w.toNat o true false) s
/-- LDACQ (R378, R379). -/
def execLdacq (d a : BitVec 8) (w : BitVec 3) (o : BitVec 5) (s : State) : Host.Outcome State Fault Refusal :=
  groupWord (.ldacq d a w o) (globLoadBody (.ldacq d a w o) d.toNat a.toNat w.toNat o false true) s

/-! ## Global stores -/

/-- Whether a lane of a store may stay unregistered with its home until its acknowledgement: whole words through L1 (R371,
R375). -/
def mayBeLate (s : State) (e : Ex) (w va : Nat) (t : Target) : Bool :=
  t.tier < 2 && 4 ≤ widthSize w && ruleOf e ≠ 4 && !isStaged s e.lch.id va t

/-- One lane of a global store performed, or sent to another device (R162, R287): kinds 1, 2 and 3 are a store of
words, of a byte and of a halfword; 4 is added where the home's tag is kept. late says that its words are not registered with
their home yet. -/
def globStoreLane (e : Ex) (d w : Nat) (late : Nat → Bool) (s : State) (x : Nat × Nat × Target) : State :=
  let size := widthSize w
  let va := x.2.1 / 4 * 4
  let t := x.2.2
  let rs := storeRegs e.g d w x.1
  if isRemote s t then
    let kind := (if size = 1 then 2 else if size = 2 then 3 else 1) + (if ruleOf e = 4 then 4 else 0)
    let cs := rs.map fun r => (r.1, storeTag (ruleOf e) (own e) r.2 r.2)
    let s := sendAccess s t.dev kind t.pa cs
    { s with fx := s.fx ++ if ruleOf e = 4 then [] else cs.zipIdx.map fun c => .memTag x.1 (va + 4 * c.2) c.1.2 }
  else
    rs.zipIdx.foldl (fun s r =>
      let tk : Target := { t with pa := t.pa / 4 * 4 + 4 * r.2 }
      let part := size < 4 || ruleOf e = 4
      let (old, s) := if part then oldGlobal s e.lch.id e.tm.core (va + 4 * r.2) tk else ((0#32, 0#16), s)
      let v := if size < 4 then putBytes old.1 r.1.1 (t.pa % 4) size else r.1.1
      let tag := storeTag (ruleOf e) (own e) r.1.2 old.2
      let s := writeGlobal s e.lch.id e.tm.core true (va + 4 * r.2) tk (v, tag) (late x.1)
      { s with fx := s.fx ++ [.memTag x.1 (va + 4 * r.2) tag] }) s

/-- Whether a lane of a store goes straight to its home on this device: a page of the device's own Florix window, not staged
(R43, R155). -/
def toWindow (s : State) (e : Ex) (x : Nat × Nat × Target) : Bool :=
  x.2.2.tier = 3 && isHome s x.2.2 && !isStaged s e.lch.id x.2.1 x.2.2

/-- What a lane of such a store writes behind the lanes before it, with its effects (R162). -/
def windowLane (e : Ex) (d w : Nat) (acc : List (Nat × Cell) × List Fx × State) (x : Nat × Nat × Target) :
    List (Nat × Cell) × List Fx × State :=
  let size := widthSize w
  let va := x.2.1 / 4 * 4
  let t := x.2.2
  (storeRegs e.g d w x.1).zipIdx.foldl (fun acc r =>
    let pa := t.pa / 4 * 4 + 4 * r.2
    let (old, s) := match acc.1.reverse.find? fun c => c.1 = pa with
      | some c => (c.2, acc.2.2)
      | none => if size < 4 || ruleOf e = 4 then oldGlobal acc.2.2 e.lch.id e.tm.core (va + 4 * r.2) { t with pa := pa }
        else ((0#32, 0#16), acc.2.2)
    let v := if size < 4 then putBytes old.1 r.1.1 (t.pa % 4) size else r.1.1
    let tag := storeTag (ruleOf e) (own e) r.1.2 old.2
    (acc.1 ++ [(pa, (v, tag))], acc.2.1 ++ [.memTag x.1 (va + 4 * r.2) tag], s)) acc

/-- The lanes of a store that go straight to their homes here, written a line at a time (R41, R42). -/
def storeWindow (s : State) (e : Ex) (d w : Nat) (xs : List (Nat × Nat × Target)) : State :=
  let r := xs.foldl (windowLane e d w) ([], [], s)
  let ws := lastWords r.1
  let s := homeWriteMany (ws.foldl (fun s c => registerWord s e.tm.core c.1) r.2.2) ws
  let s := ws.foldl (fun s c => dropCopy s e.tm.core c.1) s
  { s with fx := s.fx ++ r.2.1 }

/-- A global store performed (R89, R162): its acknowledgement is in flight, and so is, by the free choice lane by lane, the
registration of its words with their homes, which agents of other cores await (R371, R375). -/
def globalStore (s : State) (e : Ex) (word : Word) (d w : Nat) (vas : List (Nat × DWord)) (ts : List (Nat × Target))
    (chans : List (Nat × Nat)) : State :=
  let xs := ts.map fun t => (t.1, ((vas.find? fun v => v.1 = t.1).map fun v => v.2.toNat).getD 0, t.2)
  let s := beforeWrites s e.lch.id e.x.tid (xs.map fun x => x.2)
  let r := performOrder s (fun x : Nat × Nat × Target => homeKey s x.2.2 / (if widthSize w < 4 then 4 else widthSize w)) xs
  let (bits, s) := if xs.any fun x => mayBeLate r.2 e w x.2.1 x.2.2 then freeChoice r.2 (2 ^ 64) else (0, r.2)
  let slow := xs.filter fun x => bits.testBit x.1 && mayBeLate s e w x.2.1 x.2.2
  let direct := r.1.filter (toWindow s e)
  let rest := r.1.filter fun x => !toWindow s e x
  let apart := direct.all fun x => rest.all fun y => homeKey s x.2.2 / 64 ≠ homeKey s y.2.2 / 64
  let late := fun (i : Nat) => slow.any fun x => x.1 = i
  let s := if apart then storeWindow (rest.foldl (globStoreLane e d w late) s) e d w direct
    else r.1.foldl (fun s x => if toWindow s e x then storeWindow s e d w [x] else globStoreLane e d w late s x) s
  let s := countUp s e.x.tid e.x.gi 1 1
  let s := addFlight s fun id =>
    { flightOf e word 1 id .store with
      isRemote := ts.any fun t => isRemote s t.2
      fills := (ts.filter fun t => isRemote s t.2).map fun t => { laneFill e d w t with words := 0 }
      unreg := slow.flatMap fun x => (upTo (widthRegs w)).map fun k => (e.tm.core, x.2.2.pa / 4 * 4 + 4 * k)
      core := e.tm.core, chans := chans }
  { s with fx := s.fx ++ vas.map fun v => .glob v.1 v.2 (widthSize w) true }

/-- Whether every access that happens before a release at a scope has been performed there (R372, R375, R379): at CLU scope or
wider the stores and atomics of every group of the core's teams, from which the split may have acquired at TEAM scope, are
acknowledged and their loads answered. Waiting for those it did not acquire from costs time only. -/
def released (s : State) (e : Ex) (scope : Nat) : Bool :=
  !wideScope scope || s.mem.flights.all fun f => f.kind = .xform ||
    match findTeam s f.tid with
    | some t => t.core ≠ e.tm.core
    | none => true

/-- The body of a global store (R158 to R160, R162, R379). -/
def globStoreBody (i : Instr) (d a w : Nat) (o : BitVec 5) (rel : Bool) (e : Ex) (s : State) : Res :=
  let word := wordOf i
  let bad := poisonAddr e a e.lanes
  if bad ≠ [] then .trap (escapeTrap e word bad 1 a) s
  else
    let vas := e.lanes.map fun l => (l, addr64 e a (byteOff e o (widthSize w)) l)
    match planAccess s e 2 (widthSize w) none vas with
    | .wait t => .moved t
    | .stall => .stall
    | .trap c ls => globFault s e word false c ls
    | .go ts =>
      let va := fun (i : Nat) => ((vas.find? fun v => v.1 = i).map fun v => v.2.toNat).getD 0
      let leak := ts.filter fun t => !isStaged s e.lch.id (va t.1) t.2 &&
        (storeRegs e.g d w t.1).any fun c => c.2 = poison
      if leak ≠ [] then .trap (escapeTrap e word (leak.map fun t => t.1) 0 d) s
      else if rel && !released s e (scopeOf e) then .stall
      else if e.lanes = [] then .done s
      else if overtakes s e ts then .stall
      else if countFull e 1 then fullStop s e
      else
        let need := chansOf (linesOf s ts)
        takePort s e need fun s => .done (globalStore s e word d w vas ts need)

/-- STG (R158, R162). -/
def execStg (d a : BitVec 8) (w : BitVec 3) (o : BitVec 5) (s : State) : Host.Outcome State Fault Refusal :=
  groupWord (.stg d a w o) (globStoreBody (.stg d a w o) d.toNat a.toNat w.toNat o false) s
/-- STREL (R378, R379). -/
def execStrel (d a : BitVec 8) (w : BitVec 3) (o : BitVec 5) (s : State) : Host.Outcome State Fault Refusal :=
  groupWord (.strel d a w o) (globStoreBody (.strel d a w o) d.toNat a.toNat w.toNat o true) s

/-! ## FENCE, PREF, CCTL -/

/-- FENCE (R380): a release waits at CLU scope or wider as R375 states, an acquire drops non-owned L1 words; an
acquire waits for the split's loads. -/
def execFence (k : BitVec 2) (s : State) : Host.Outcome State Fault Refusal :=
  groupWord (.fence k) (fun e s =>
    let wide := wideScope (scopeOf e)
    let rel := k.getLsbD 1
    let acq := k.getLsbD 0
    let loads := (flightsOf s e).any fun f => f.kind = .load
    if rel && !released s e (scopeOf e) then .stall
    else if acq && loads then .stall
    else .done (if acq && wide then acquireL1 s e.tm.core else s)) s

/-- The targets of the lanes whose address translates for an access kind, by the caches or by a walk, without any fault. -/
def softTargets (s : State) (e : Ex) (kind : Nat) (vas : List (Nat × DWord)) : List Target :=
  vas.filterMap fun v =>
    if !canonical v.2 then none
    else
      let r := match translate s e.tm.core e.lch.ctx v.2 kind with
        | .miss => translateNow s (dieOf e.tm.core) e.lch.ctx v.2 kind
        | r => r
      match r with
      | .ok t => some t
      | _ => none

/-- One line of a PREF fetched into L1 or L2. -/
def prefLine (l : BitVec 2) (core : Nat) (s : State) (t : Target) : State :=
  if t.tier ≥ 2 then s
  else if l = 0#2 then l1Fetch s core (t.pa / 4 * 4)
  else
    let touch := fun (s : State) (pa : Nat) => touchL2 (findPoison s pa) pa false
    touch (touch s (t.pa / 64 * 64)) (t.pa / 64 * 64 + 32)

/-- PREF (R167): lines fetched into L1 or L2; no value that any agent sees changes. -/
def execPref (l : BitVec 2) (a : BitVec 8) (o : BitVec 5) (s : State) : Host.Outcome State Fault Refusal :=
  groupWord (.pref l a o) (fun e s =>
    let bad := poisonAddr e a.toNat e.lanes
    if bad ≠ [] then .trap (escapeTrap e (wordOf (.pref l a o)) bad 1 a.toNat) s
    else
      let ts := softTargets s e 1 (e.lanes.map fun i => (i, addr64 e a.toNat (byteOff e o 4) i))
      takePort s e (chansOf ((ts.filter fun t => t.tier < 2).map fun t => t.pa / 64)) fun s =>
        .done (ts.foldl (prefLine l e.tm.core) s)) s

/-- CCTL (R168): owned words of the selected lines written to their homes, non-owned ones dropped. -/
def execCctl (c : BitVec 4) (a : BitVec 8) (s : State) : Host.Outcome State Fault Refusal :=
  groupWord (.cctl c a) (fun e s =>
    let whole := a = 0xF0#8
    let bad := if whole then [] else poisonAddr e a.toNat e.lanes
    if bad ≠ [] then .trap (escapeTrap e (wordOf (.cctl c a)) bad 1 a.toNat) s
    else if countFull e 1 then fullStop s e
    else
      let lines := if whole then [] else
        (softTargets s e 0 (e.lanes.map fun i => (i, addr64 e a.toNat 0 i))).filterMap fun t =>
          if t.tier < 2 then some (t.pa / 64) else none
      let sel := fun (line : Nat) => whole || lines.contains line
      let dirty := if c = 1#4 then [] else
        (l1Lines s.mem e.tm.core).filter fun line => sel line && ownedWords s.mem e.tm.core line true ≠ []
      let need := chansOf dirty
      takePort s e need fun s =>
        let s := cleanL1 s e.tm.core sel (c ≠ 0#4) (c ≠ 1#4)
        let s := countUp s e.x.tid e.x.gi 1 1
        .done (addFlight s fun id =>
          { flightOf e (wordOf (.cctl c a)) 1 id .store with core := e.tm.core, chans := need })) s

/-! ## LADD and WAITN -/

/-- One lane of an LADD (R166): the sum, its tag, and the old cell. -/
def laddLane (e : Ex) (b : Nat) (acc : List (Nat × Cell) × List (Nat × Word) × State) (t : Nat × Nat × Nat) :
    List (Nat × Cell) × List (Nat × Word) × State :=
  match findTeam acc.2.2 t.2.1 with
  | none => acc
  | some tm =>
    let old := storeWord tm .ls (t.2.2 / 4)
    let r := laneOne e .int b t.1
    let src := if tagged b then [r.1.2] else []
    let tag := ruleTag (ruleOf e) .produce (own e) (old.2 :: src) old.2 r.1.2 old.2
    let new : Cell := (old.1 + r.1.1, tag)
    let s := updTeam acc.2.2 t.2.1 fun u => setStoreWords u .ls [(t.2.2 / 4, new)]
    (acc.1 ++ [(t.1, old)], acc.2.1 ++ (drawn e t.1 r.2).toList.map (fun x => (t.1, x)),
      { s with fx := s.fx ++ [.memTag t.1 t.2.2 tag] })

/-- LADD (R166). -/
def execLadd (d a b : BitVec 8) (s : State) : Host.Outcome State Fault Refusal :=
  groupWord (.ladd d a b) (fun e s =>
    let word := wordOf (.ladd d a b)
    let bad := poisonAddr e a.toNat e.lanes
    let ret := d ≠ 0xF0#8
    if bad ≠ [] then .trap (escapeTrap e word bad 1 a.toNat) s
    else
      match planLocal s e .ls 4 0 (localVals e a.toNat e.lanes) with
      | .trap c ls => addrFault s e word c ls
      | .stall => .stall
      | .go ts =>
        if e.lanes ≠ [] && countFull e (if ret then 0 else 1) then fullStop s e
        else
          let o := performOrder s (fun t : Nat × Nat × Nat => t.2.2) ts
          let r := o.1.foldl (laddLane e b.toNat) ([], [], o.2)
          let s := setGroup r.2.2 e fun g => writeDice g r.2.1
          let s := if ret then putV s e (r.1.map fun c => (d.toNat * 64 + c.1, c.2)) else s
          .done { s with fx := s.fx ++ localFx .ls 4 false ts ++ localFx .ls 4 true ts }) s

/-- WAITN (R170): the split parks until each selected counter is at or below its count. -/
def execWaitn (l t c y : BitVec 6) (s : State) : Host.Outcome State Fault Refusal :=
  groupWord (.waitn l t c y) (fun e s =>
    let ok := fun (n : BitVec 6) (k : Nat) => n = 63#6 || countOf e.g k ≤ n.toNat
    if ok l 0 && ok t 1 && ok c 2 && ok y 3 then .done s
    else .moved (setSplit s e (parkAs .counters 0))) s

end Sys2Proof.Machine
end

