-- ==== Sys2Proof/Machine/Atomic.lean ====
section
/-! DEFINITION. Atomics (R93 to R98), the queue-lock unit (R99 to R103) and WAITC with its condition monitors (R104
to R107). -/

namespace Sys2Proof.Machine

/-! ## ATOM -/

/-- The ATOM operations, by opcode (R97). -/
inductive AtomOp where
  | add | fadd | min | max | minu | maxu | and | or | xor | exch | cas | inc
  deriving DecidableEq, Repr

/-- What an atomic does at width w to the old word with an operand (R97), and the events of an FADD. -/
def atomNew (op : AtomOp) (w : Nat) (ftz : Bool) (old b : Nat) : Nat × Events :=
  let sg := signed w
  match op with
  | .add => ((old + b) % 2 ^ w, {})
  | .fadd =>
    let f := if w = 64 then Fmt.fp64 else Fmt.fp32
    let z := ftz && w = 32
    let x := readFp f z old
    let y := readFp f z b
    let md : FpMod := ⟨false, false, false, false, false, false, 0, .rne, z⟩
    let r := finishFp f md false z [x, y] (fadd .rne x y) 0
    (r.code, { inv := r.ev.inv, ovf := r.ev.ovf, unf := r.ev.unf })
  | .min => (if sg b < sg old then b else old, {})
  | .max => (if sg old < sg b then b else old, {})
  | .minu => (Nat.min old b, {})
  | .maxu => (Nat.max old b, {})
  | .and => (old.land b, {})
  | .or => (old.lor b, {})
  | .xor => (old.xor b, {})
  | .exch => (b, {})
  | .cas => (b, {})
  | .inc => (if b ≤ old then 0 else old + 1, {})

/-- The operand of an atomic in a lane: the value that is combined with its tag, what CAS compares, the tags that
must not be POISON, whether the field is a tagged source, and the lane's dice state. -/
structure AtomArg where
  val : Nat
  tag : Tag
  cmp : Nat
  tags : List Tag
  srcs : List Tag
  dice : Word
  deriving DecidableEq, Repr

/-- The operand of an atomic in a lane (R54, R56, R95). -/
def atomArg (e : Ex) (op : AtomOp) (wide : Bool) (b i : Nat) : AtomArg :=
  let n := if wide then 2 else 1
  let isF := op = .fadd
  if op = .cas then
    let get := fun (c : Nat) =>
      if wide then let v := operand64 e false c i; (v.1.toNat, v.2)
      else let v := operand e .int c i 0#32; (v.1.toNat, v.2)
    let c := get b
    let x := get (b + n)
    { val := x.1, tag := x.2, cmp := c.1, tags := [c.2, x.2], srcs := [x.2], dice := diceOf e.g i }
  else if wide then
    let v := operand64 e isF b i
    { val := v.1.toNat, tag := v.2, cmp := 0, tags := [v.2], srcs := srcTag e b i, dice := diceOf e.g i }
  else
    let r := laneOne e (if isF then .fp32 else .int) b i
    { val := r.1.1.toNat, tag := r.1.2, cmp := 0, tags := [r.1.2], srcs := srcTag e b i, dice := r.2 }

/-- The tag of a word written, whose own old tag is old (R98). Under KEEP each word of a 64-bit atomic keeps the tag it has
(R98's "unchanged", where R96 gives both words one tag; DESIGN CHOICE, log entry 22). -/
def atomTag (rule : Nat) (site : Tag) (op : AtomOp) (told tag old : Tag) (srcs : List Tag) : Tag :=
  if rule = 0 && (op = .exch || op = .cas) then tag
  else ruleTag rule .produce site (told :: srcs) told tag old

/-- What the lanes of an atomic have come to: returned cells, status, dice, and the machine. -/
structure AtomAcc where
  cells : List (Nat × Cell)
  fills : List Fill
  status : Status
  dice : List (Nat × Word)
  st : State
  deriving DecidableEq, Repr

/-- The opcode byte of an instruction's word. -/
def opByte (i : Instr) : Nat := (wordOf i).toNat / 2 ^ 24

/-- One lane of an atomic as one indivisible step at the word's home (R93, R94, R96), or sent to another device
(R287), where what the home holds already is not known to a watchpoint on tags (DESIGN CHOICE, log entry 42). A MEMSIDE page's
sector leaves L2 first. -/
def atomLane (e : Ex) (i : Instr) (op : AtomOp) (wide : Bool) (d b : Nat) (ret : Bool) (acc : AtomAcc)
    (x : Nat × Nat × Target) : AtomAcc :=
  let n := if wide then 2 else 1
  let t := x.2.2
  let arg := atomArg e op wide b x.1
  let dice := acc.dice ++ (drawn e x.1 arg.dice).toList.map fun v => (x.1, v)
  if isRemote acc.st t then
    let half := fun (v : Nat) => (upTo n).map fun k => (BitVec.ofNat 32 (v / 2 ^ (32 * k)), arg.tag)
    let ctl := ruleOf e + (if e.lch.ftz then 8 else 0) + (if arg.srcs ≠ [] then 16 else 0)
    let ws := (if op = .cas then half arg.cmp ++ half arg.val else half arg.val) ++ [(BitVec.ofNat 32 ctl, own e)]
    let f : Fill :=
      { lane := x.1, reg := d, words := if ret then n else 0, w := if wide then 5 else 4, off := 0, rule := 0
        site := own e, olds := [], host := t.hostShared }
    let sent := sendAccess acc.st t.dev (opByte i) t.pa ws
    let tag := atomTag (ruleOf e) (own e) op 0#16 arg.tag 0#16 arg.srcs
    let fx := if ruleOf e = 4 then [] else (upTo n).map fun k => Fx.memTag x.1 (x.2.1 + 4 * k) tag
    { acc with fills := acc.fills ++ [f], dice := dice, st := { sent with fx := sent.fx ++ fx } }
  else
    let core := e.tm.core
    let s := if t.memside then dropSector acc.st (t.pa / 32) else acc.st
    let r := readLane s e.lch.id core false x.2.1 n t
    let told := summarise (r.1.map fun c => c.2)
    let old := (r.1.map fun c => c.1.toNat).foldr (fun (v : Nat) (m : Nat) => v + 2 ^ 32 * m) 0
    let back := if told = poison then r.1.map fun _ => ((0#32, poison) : Cell) else r.1.map fun c => (c.1, told)
    let cells := if ret then acc.cells ++ destKeys d x.1 back else acc.cells
    let leave := fun (s : State) => if t.memside then dropSector s (t.pa / 32) else s
    if told = poison || (op = .cas && old ≠ arg.cmp) then
      { acc with cells := cells, dice := dice, st := leave r.2 }
    else
      let new := atomNew op (32 * n) e.lch.ftz old arg.val
      let put := fun (s : State) (k : Nat) =>
        let tk : Target := { t with pa := t.pa + 4 * k }
        let was := oldGlobal s e.lch.id core (x.2.1 + 4 * k) tk
        let tag := atomTag (ruleOf e) (own e) op told arg.tag was.1.2 arg.srcs
        let s := writeGlobal was.2 e.lch.id core false (x.2.1 + 4 * k) tk (BitVec.ofNat 32 (new.1 / 2 ^ (32 * k)), tag)
        { s with fx := s.fx ++ [.memTag x.1 (x.2.1 + 4 * k) (if t.tier = 2 then hostTag else tag)] }
      { acc with
        cells := cells, dice := dice, status := acc.status ++ [(x.1, evWord new.2)], st := leave ((upTo n).foldl put r.2) }

/-- Whether the host tier performs an operation as an AtomicOp (R94). -/
def hostAtom (op : AtomOp) : Bool := op = .add || op = .exch || op = .cas

/-- An atomic performed in every active lane, its lanes in an order that is free where two name one word by whatever address
(R93). -/
def atomPerform (s : State) (e : Ex) (i : Instr) (op : AtomOp) (wide : Bool) (d b : Nat)
    (vas : List (Nat × DWord)) (ts : List (Nat × Target)) (chans : List (Nat × Nat)) : State :=
  let ret := d ≠ 0xF0
  let n := if wide then 2 else 1
  let xs := ts.map fun t => (t.1, ((vas.find? fun v => v.1 = t.1).map fun v => v.2.toNat).getD 0, t.2)
  let s := beforeWrites s e.lch.id e.x.tid (xs.map fun x => x.2)
  let s := ts.foldl (fun s t => if t.2.tier = 2 then sendMsg s (.atomicOp t.2.pa (opByte i)) else s) s
  let o := performOrder s (fun x : Nat × Nat × Target => homeKey s x.2.2 / (4 * n)) xs
  let r := o.1.foldl (atomLane e i op wide d b ret) ⟨[], [], [], [], o.2⟩
  let s := record (setGroup r.st e fun g => writeDice g r.dice) e r.status
  let k := if ret then 0 else 1
  let s := countUp s e.x.tid e.x.gi k 1
  let s := addFlight s fun id =>
    { flightOf e (wordOf i) k id (if ret then .load else .store) with
      cells := r.cells, regs := if ret then (upTo n).map fun j => d + j else []
      isRemote := r.fills ≠ [], fills := r.fills, status := op = .fadd && r.fills ≠ []
      core := e.tm.core, chans := chans }
  let wrs := r.cells.map fun c => Fx.reg (c.1 / 64) (c.1 % 64) c.2.2
  let acc := vas.flatMap fun v => [Fx.glob v.1 v.2 (4 * n) false, .glob v.1 v.2 (4 * n) true]
  { s with fx := s.fx ++ acc ++ wrs }

/-- The body of an ATOM (R93 to R98, R160): POISON addresses, translation, the tier, POISON operands, then every
lane. -/
def atomBody (i : Instr) (op : AtomOp) (d : BitVec 8) (a : BitVec 7) (w : BitVec 1) (b : BitVec 8) (e : Ex)
    (s : State) : Res :=
  let word := wordOf i
  let wide := flag w
  let ra := 2 * a.toNat
  let bad := poisonAddr e ra e.lanes
  if bad ≠ [] then .trap (escapeTrap e word bad 1 ra) s
  else
    let vas := e.lanes.map fun l => (l, addr64 e ra 0 l)
    match planAccess s e 2 (if wide then 8 else 4) none vas with
    | .wait t => .moved t
    | .stall => .stall
    | .trap c ls => addrFault s e word c ls
    | .go ts =>
      let va := fun (l : Nat) => ((vas.find? fun v => v.1 = l).map fun v => v.2).getD 0#64
      let host := ts.filter fun t => t.2.tier = 2 && !hostAtom op
      let leak := ts.filter fun t => !isStaged s e.lch.id (va t.1).toNat t.2 &&
        (atomArg e op wide b.toNat t.1).tags.contains poison
      if host ≠ [] then addrFault s e word 0x2A#8 (host.map fun t => (t.1, va t.1))
      else if leak ≠ [] then .trap (escapeTrap e word (leak.map fun t => t.1) 0 b.toNat) s
      else if e.lanes = [] then .done s
      else if overtakes s e ts then .stall
      else if countFull e (if d = 0xF0#8 then 1 else 0) then fullStop s e
      else
        let need := chansOf (linesOf s ts)
        takePort s e need fun s => .done (atomPerform s e i op wide d.toNat b.toNat vas ts need)

/-- ATOM.ADD (R97). -/
def execAtomAdd (d : BitVec 8) (a : BitVec 7) (w : BitVec 1) (b : BitVec 8) (s : State) :
    Host.Outcome State Fault Refusal :=
  groupWord (.atomAdd d a w b) (atomBody (.atomAdd d a w b) .add d a w b) s
/-- ATOM.FADD (R97). -/
def execAtomFadd (d : BitVec 8) (a : BitVec 7) (w : BitVec 1) (b : BitVec 8) (s : State) :
    Host.Outcome State Fault Refusal :=
  groupWord (.atomFadd d a w b) (atomBody (.atomFadd d a w b) .fadd d a w b) s
/-- ATOM.MIN (R97). -/
def execAtomMin (d : BitVec 8) (a : BitVec 7) (w : BitVec 1) (b : BitVec 8) (s : State) :
    Host.Outcome State Fault Refusal :=
  groupWord (.atomMin d a w b) (atomBody (.atomMin d a w b) .min d a w b) s
/-- ATOM.MAX (R97). -/
def execAtomMax (d : BitVec 8) (a : BitVec 7) (w : BitVec 1) (b : BitVec 8) (s : State) :
    Host.Outcome State Fault Refusal :=
  groupWord (.atomMax d a w b) (atomBody (.atomMax d a w b) .max d a w b) s
/-- ATOM.MINU (R97). -/
def execAtomMinu (d : BitVec 8) (a : BitVec 7) (w : BitVec 1) (b : BitVec 8) (s : State) :
    Host.Outcome State Fault Refusal :=
  groupWord (.atomMinu d a w b) (atomBody (.atomMinu d a w b) .minu d a w b) s
/-- ATOM.MAXU (R97). -/
def execAtomMaxu (d : BitVec 8) (a : BitVec 7) (w : BitVec 1) (b : BitVec 8) (s : State) :
    Host.Outcome State Fault Refusal :=
  groupWord (.atomMaxu d a w b) (atomBody (.atomMaxu d a w b) .maxu d a w b) s
/-- ATOM.AND (R97). -/
def execAtomAnd (d : BitVec 8) (a : BitVec 7) (w : BitVec 1) (b : BitVec 8) (s : State) :
    Host.Outcome State Fault Refusal :=
  groupWord (.atomAnd d a w b) (atomBody (.atomAnd d a w b) .and d a w b) s
/-- ATOM.OR (R97). -/
def execAtomOr (d : BitVec 8) (a : BitVec 7) (w : BitVec 1) (b : BitVec 8) (s : State) :
    Host.Outcome State Fault Refusal :=
  groupWord (.atomOr d a w b) (atomBody (.atomOr d a w b) .or d a w b) s
/-- ATOM.XOR (R97). -/
def execAtomXor (d : BitVec 8) (a : BitVec 7) (w : BitVec 1) (b : BitVec 8) (s : State) :
    Host.Outcome State Fault Refusal :=
  groupWord (.atomXor d a w b) (atomBody (.atomXor d a w b) .xor d a w b) s
/-- ATOM.EXCH (R97). -/
def execAtomExch (d : BitVec 8) (a : BitVec 7) (w : BitVec 1) (b : BitVec 8) (s : State) :
    Host.Outcome State Fault Refusal :=
  groupWord (.atomExch d a w b) (atomBody (.atomExch d a w b) .exch d a w b) s
/-- ATOM.CAS (R96, R97). -/
def execAtomCas (d : BitVec 8) (a : BitVec 7) (w : BitVec 1) (b : BitVec 8) (s : State) :
    Host.Outcome State Fault Refusal :=
  groupWord (.atomCas d a w b) (atomBody (.atomCas d a w b) .cas d a w b) s
/-- ATOM.INC (R97). -/
def execAtomInc (d : BitVec 8) (a : BitVec 7) (w : BitVec 1) (b : BitVec 8) (s : State) :
    Host.Outcome State Fault Refusal :=
  groupWord (.atomInc d a w b) (atomBody (.atomInc d a w b) .inc d a w b) s

/-! ## Words that take one address for the split (R100, R105, R463) -/

/-- The lane that supplies a split's one value: the lowest active lane for a vector, lane 0 for a scalar, none for a
vector with A empty (R463). -/
def leadLane (e : Ex) (vector : Bool) : Option Nat := if vector then e.low else some 0

/-- The lanes a cause of a one-address word names: the lead lane of a vector, every active lane of a scalar. -/
def leadMask (e : Ex) (vector : Bool) (l : Nat) : List Nat := if vector then [l] else e.lanes

/-- Whether active lanes hold different values of a per-lane function. -/
def lanesDiffer {α : Type} [DecidableEq α] (e : Ex) (f : Nat → α) : Bool :=
  match e.lanes with
  | [] => false
  | l :: ls => ls.any fun i => f i ≠ f l

/-- What the address of a one-address word comes to: its target on HBM4E, or how the word ends instead. -/
def oneTarget (s : State) (e : Ex) (word : Word) (kind a l : Nat) : Except Res (DWord × Target) :=
  let va := addr64 e a 0 l
  match planAccess s e kind 4 (if isS a then some e.x.amask else none) [(l, va)] with
  | .wait t => .error (.moved t)
  | .stall => .error .stall
  | .trap c ls => .error (globFault s e word (isS a) c ls)
  | .go ts =>
    match ts with
    | (_, t) :: _ =>
      if t.tier = 0 then .ok (va, t) else .error (globFault s e word (isS a) 0x2A#8 [(l, va)])
    | [] => .error .stall

/-- The lock word of a holder (R99). -/
def lockValue (ordinal gi : Nat) : Word := BitVec.ofNat 32 ((ordinal * 32 + gi) % 0xFFFFFFFF + 1)

/-- Whether a lock is held by a group: by context, team ordinal and group index (R99). -/
def holds (q : Lock) (e : Ex) : Bool := q.ctx = e.lch.ctx && q.ordinal = e.tm.ordinal && q.gi = e.g.gi

/-- The waiter entries in use on the slice of an address (R99). -/
def slotsUsed (m : Mem) (pa : Nat) : Nat :=
  ((m.locks.filter fun q => sliceOf q.pa = sliceOf pa).map fun q => q.waiters.length).foldl (· + ·) 0

/-- Whether a monitor is free on the slice of an address (R106). -/
def monitorFree (m : Mem) (pa : Nat) : Bool :=
  (m.monitors.filter fun q => sliceOf q.pa = sliceOf pa).length < 256

/-- A waiter put on a word with a condition: on a monitor, or re-checked by its core where none is free (R106). -/
def watchWord (s : State) (q : Monitor) : State :=
  updMem s fun m =>
    if monitorFree m q.pa then { m with monitors := m.monitors ++ [q] } else { m with rechecks := m.rechecks ++ [q] }

/-- A split parked on a word with a condition (R101, R105, R106). -/
def parkOnWord (s : State) (e : Ex) (pa cond : Nat) (sg : Bool) (v : Word) : State :=
  let p := if monitorFree s.mem pa then Park.monitor else .recheck
  setSplit (watchWord s ⟨pa, cond, sg, v, .split e.x.tid e.x.gi e.x.rank⟩) e (parkAs p pa)

/-- An acquire at the word's scope (R375). -/
def acquire (s : State) (e : Ex) : State :=
  if wideScope (scopeOf e) then acquireL1 s e.tm.core else s

/-- The lock word written with the writer's own site tag (R99). -/
def putLock (s : State) (e : Ex) (va : DWord) (t : Target) (v : Word) : State :=
  writeGlobal s e.lch.id e.tm.core false va.toNat t (v, own e)

/-- The UNIF bit set in every active lane where a test holds. -/
def noteUnif (s : State) (e : Ex) (b : Bool) : State := if b then recordAll s e e.lanes bitUnif else s

/-- The effects of an UNLOCK that a watchpoint may match. -/
def unlockFx (e : Ex) (l : Nat) (va : DWord) : List Fx := [.glob l va 4 true, .memTag l va.toNat (own e)]

/-- The effects of a LOCK that a watchpoint may match. -/
def lockFx (e : Ex) (l : Nat) (va : DWord) : List Fx := .glob l va 4 false :: unlockFx e l va

/-- Whose copy of a word a lock of a launch's group stands on: the launch's staged one, or the home's (R421). -/
def lockStage (s : State) (e : Ex) (va : DWord) (t : Target) : Option Nat :=
  if isStaged s e.lch.id va.toNat t then some e.lch.id else none

/-- The lock on a word, or on a launch's staged copy of it (R99, R421). -/
def lockAt (m : Mem) (pa : Nat) (stage : Option Nat) : Option Lock := m.locks.find? fun q => q.pa = pa && q.stage = stage

/-- That lock changed. -/
def updLock (s : State) (pa : Nat) (stage : Option Nat) (f : Lock → Lock) : State :=
  updMem s fun m => { m with locks := updBy (fun q => q.pa = pa && q.stage = stage) f m.locks }

/-- The LOCK of a waiter completes when UNLOCK hands it the lock: it acquires at its scope, records UNIF, and its split resumes
after it (R101, R396). A split parked on a lock keeps the code of its address register. -/
def grantLock (s : State) (h : Ex) : State :=
  let a := h.x.parkKey
  let word := wordOf (.lock (BitVec.ofNat 8 a))
  let l := (leadLane h (isV a)).getD 0
  let s := setSplit s h unpark
  let s := noteUnif (acquire s h) h (lanesDiffer h (addr64 h a 0))
  let pc := h.x.pc + 4#64
  let s1 := afterWord (complete { s with fx := lockFx h l (addr64 h a 0 l) } h pc) h word pc none
  noteOrder { s1 with fx := s.fx } h (.lock (BitVec.ofNat 8 a))

/-- LOCK at its word (R101). The unit's own state alone says whether a lock is held (R99): a word that holds another value while
the unit holds no lock for it counts as free (DESIGN CHOICE, log entry 21). -/
def takeLock (e : Ex) (word : Word) (a l : Nat) (va : DWord) (t : Target) (s : State) : Res :=
  let s1 := beforeWrites s e.lch.id e.x.tid [(va.toNat, t)]
  let stage := lockStage s1 e va t
  match lockAt s1.mem t.pa stage with
  | some q =>
    if holds q e then .trap (ctlTrap e word 0x8B#8 0) s
    else if slotsUsed s.mem t.pa < 64 then
      let join := fun (q : Lock) => { q with waiters := q.waiters ++ [.split e.x.tid e.x.gi e.x.rank] }
      .moved (setSplit (updLock s1 t.pa stage join) e (parkAs .lock a))
    else .moved (parkOnWord s1 e t.pa 0 false 0#32)
  | none =>
    let new : Lock :=
      { pa := t.pa, ctx := e.lch.ctx, ordinal := e.tm.ordinal, gi := e.g.gi, launch := e.lch.id, waiters := [], stage := stage }
    let s := updMem s1 fun m => { m with locks := m.locks ++ [new] }
    let s := noteUnif (acquire (putLock s e va t (lockValue e.tm.ordinal e.g.gi)) e) e (lanesDiffer e (addr64 e a 0))
    .done { s with fx := s.fx ++ lockFx e l va }

/-- LOCK (R100, R101). -/
def execLock (a : BitVec 8) (s : State) : Host.Outcome State Fault Refusal :=
  let word := wordOf (.lock a)
  groupWord (.lock a) (fun e s =>
    let vec := isV a.toNat
    match leadLane e vec with
    | none => .done s
    | some l =>
      if anyPoison e a.toNat l then .trap (escapeTrap e word (leadMask e vec l) 6 a.toNat) s
      else
        match oneTarget s e word 2 a.toNat l with
        | .error r => r
        | .ok (va, t) =>
          if overtakes s e [(l, t)] then .stall
          else takePort s e (chansOf [t.pa / 64]) (takeLock e word a.toNat l va t)) s

/-- UNLOCK at its word (R102): a waiter of the lock, on whichever copy of the word it stands, gets it. -/
def dropLock (e : Ex) (word : Word) (a l : Nat) (va : DWord) (t : Target) (s : State) : Res :=
  let stage := lockStage s e va t
  match lockAt s.mem t.pa stage with
  | none => .trap (ctlTrap e word 0x8B#8 0) s
  | some q =>
    if !holds q e then .trap (ctlTrap e word 0x8B#8 0) s
    else if !released s e (scopeOf e) then .stall
    else
      let s := noteUnif (beforeWrites s e.lch.id e.x.tid [(va.toNat, t)]) e (lanesDiffer e (addr64 e a 0))
      let stage := lockStage s e va t
      let fx := fun (s : State) => { s with fx := s.fx ++ unlockFx e l va }
      match q.waiters with
      | .split tid gi rank :: ws =>
        (match exAt s tid gi rank with
         | some h =>
           let s := updLock s t.pa stage fun q =>
             { q with ctx := h.lch.ctx, ordinal := h.tm.ordinal, gi := h.g.gi, launch := h.lch.id, waiters := ws }
           let s := putLock s e va t (lockValue h.tm.ordinal h.g.gi)
           .done (fx (grantLock (noteOrder s e (.unlock (BitVec.ofNat 8 a))) h))
         | none => .done (fx (updLock s t.pa stage fun q => { q with waiters := ws })))
      | _ =>
        let s := updMem s fun m => { m with locks := m.locks.filter fun q => !(q.pa = t.pa && q.stage = stage) }
        .done (fx (putLock s e va t 0#32))

/-- UNLOCK (R100, R102). -/
def execUnlock (a : BitVec 8) (s : State) : Host.Outcome State Fault Refusal :=
  let word := wordOf (.unlock a)
  groupWord (.unlock a) (fun e s =>
    let vec := isV a.toNat
    match leadLane e vec with
    | none => .done s
    | some l =>
      if anyPoison e a.toNat l then .trap (escapeTrap e word (leadMask e vec l) 6 a.toNat) s
      else
        match oneTarget s e word 2 a.toNat l with
        | .error r => r
        | .ok (va, t) => takePort s e (chansOf [t.pa / 64]) (dropLock e word a.toNat l va t)) s

/-- WAITC at its word (R105). -/
def testWord (e : Ex) (word : Word) (c : BitVec 3) (sg : Bool) (a b l : Nat) (va : DWord) (t : Target) (vec : Bool) (s : State) :
    Res :=
  let val := fun (j : Nat) => (operand e .int b j 0#32).1
  let s := if isStaged s e.lch.id va.toNat t then s else unreplay s e.lch.id
  let r := readGlobal s e.lch.id e.tm.core false va.toNat t
  if r.1.2 = poison then .trap (escapeTrap e word (leadMask e vec l) 6 a) r.2
  else if condHolds c.toNat sg r.1.1 (val l) then
    let s := noteUnif (acquire r.2 e) e (lanesDiffer e (addr64 e a 0) || lanesDiffer e val)
    .done { s with fx := s.fx ++ [.glob l va 4 false] }
  else .moved (parkOnWord r.2 e (t.pa / 4 * 4) c.toNat sg (val l))

/-- WAITC (R104, R105). -/
def execWaitc (c : BitVec 3) (i : BitVec 1) (a b : BitVec 8) (s : State) : Host.Outcome State Fault Refusal :=
  let word := wordOf (.waitc c i a b)
  groupWord (.waitc c i a b) (fun e s =>
    let vec := isV a.toNat || perLane b.toNat
    match leadLane e vec with
    | none => .done s
    | some l =>
      let code := if anyPoison e a.toNat l then some a.toNat else if anyPoison e b.toNat l then some b.toNat else none
      match code with
      | some k => .trap (escapeTrap e word (leadMask e vec l) 6 k) s
      | none =>
        match oneTarget s e word 1 a.toNat l with
        | .error r => r
        | .ok (va, t) =>
          if overtakes s e [(l, t)] then .stall
          else takePort s e (chansOf [t.pa / 64]) (testWord e word c (flag i) a.toNat b.toNat l va t vec)) s

end Sys2Proof.Machine
end

