-- ==== Sys2Proof/Machine/Barrier.lean ====
section
/-! DEFINITION. Barrier registers and their phases (R139 to R143), held arrivals (R146), batches (R144), guards
(R145), XSTAT (R148), REGROUP's arrival and migration (R334 to R337) and the grid barrier (R381). -/

namespace Sys2Proof.Machine

def barState : Cause := 0x80#8
def barOver : Cause := 0x81#8
def batchState : Cause := 0x82#8
def guardState : Cause := 0x83#8
def regroupState : Cause := 0x65#8
def gridState : Cause := 0x66#8
def bracketState : Cause := 0x63#8
def maskState : Cause := 0x64#8

/-! ## Barrier registers (R139) -/

/-- Barrier register b. -/
def barOf (t : Team) (b : Nat) : Barrier := mapGet {} t.bars b
/-- Barrier register b written. -/
def setBar (s : State) (tid b : Nat) (q : Barrier) : State :=
  updTeam s tid fun t => { t with bars := mapSet {} t.bars b q }

/-- Whether a balance is in the 47-bit range (R139). -/
def balOk (z : Int) : Bool := -(2 ^ 46 : Int) ≤ z && z < 2 ^ 46

/-- The 64 bits of a barrier register (R139). -/
def barWord (q : Barrier) : Nat :=
  let bit := fun (b : Bool) (k : Nat) => if b then 2 ^ k else 0
  bit q.phase 63 + bit q.err 62 + bit q.lerr 61 + bit q.e 60 + bit q.ann 59 + q.exp % 64 * 2 ^ 53 +
    q.arr % 64 * 2 ^ 47 + (q.bal % 2 ^ 47).toNat

/-- Whether the current phase is complete (R142). -/
def phaseDone (q : Barrier) : Bool := q.exp ≠ 0 && q.arr = q.exp && q.bal = 0 && (!q.e || q.ann)

/-- The register after its phase completes (R142). -/
def nextPhase (q : Barrier) : Barrier :=
  { q with lerr := q.err, phase := !q.phase, err := false, ann := false, arr := 0 }

/-! ## Waking what waits -/

/-- The parked splits of a team that a test selects look again. -/
def wakeTeam (s : State) (tid : Nat) (p : Split → Bool) : State :=
  { s with splits := updBy (fun x => x.tid = tid && x.st = .parked && p x) unpark s.splits }

/-- A parked sequencer runs again where its wait, tested by p, is over. -/
def wakeSeq (s : State) (tid : Nat) (p : SeqPark → Bool) : State :=
  updTeam s tid fun t =>
    if t.seqState = .parked && p t.seqPark then { t with seqState := .running, seqPark := .none } else t

/-- Splits and the sequencer that wait for a phase of parity other than the present one (R143). -/
def wakePhase (s : State) (tid b : Nat) (phase : Bool) : State :=
  let s := wakeTeam s tid fun x => x.park = .bar && x.parkKey = 2 * b + (if phase then 0 else 1)
  wakeSeq s tid fun k => match k with | .bar c q => c = b && q ≠ phase | _ => false

/-- The groups that have arrived on barrier b by a REGROUP (R335), with that word. -/
def regroupers (s : State) (tid b : Nat) : List (Nat × Nat × Word) :=
  (sortBy (fun x : Split => x.gi) (s.splits.filter fun x => x.tid = tid && x.park = .regroup)).filterMap fun x =>
    match findGroup s tid x.gi with
    | some g =>
      if g.regroup = .arrived && bits x.parkKey 23 20 = b then some (x.gi, x.rank, BitVec.ofNat 32 x.parkKey) else none
    | none => none

/-- The participants of a completed phase begin to migrate as one set, which their splits' keys number above the word (R336). -/
def startMigration (s : State) (tid : Nat) (ps : List (Nat × Nat × Word)) : State :=
  let (n, s) := takeId s
  ps.foldl (fun s q =>
    let s := updGroup s tid q.1 fun g => { g with regroup := .migrating }
    updSplit s tid q.1 q.2.1 fun x => { x with parkKey := x.parkKey % 2 ^ 32 + 2 ^ 32 * n }) s

/-- A participant resumes at its REGROUP with REGROUP_STATE raised (R336). -/
def regroupFail (s : State) (tid : Nat) (p : Nat × Nat × Word) : State :=
  let s := updGroup s tid p.1 fun g => { g with regroup := .running }
  let s := updSplit s tid p.1 p.2.1 unpark
  match exAt s tid p.1 p.2.1 with
  | some e => deliverTrap s e (ctlTrap e p.2.2 regroupState 0)
  | none => s

/-- What becomes of the REGROUP arrivals of a completed phase (R336): they migrate when every arrival was the same
REGROUP word. -/
def endRegroup (s : State) (tid exp b : Nat) : State :=
  match regroupers s tid b with
  | [] => s
  | p :: ps =>
    if ps.length + 1 = exp && ps.all fun q => q.2.2 = p.2.2 then
      startMigration s tid (p :: ps)
    else (p :: ps).foldl (fun s q => regroupFail s tid q) s

/-- The completion rule evaluated after an arrival or a delivery (R142). -/
def evalBarrier (s : State) (tid b : Nat) : State :=
  match findTeam s tid with
  | none => s
  | some t =>
    let q := barOf t b
    if phaseDone q then
      let s := setBar s tid b (nextPhase q)
      wakePhase (endRegroup s tid q.exp b) tid b (nextPhase q).phase
    else s

/-- One arrival (R141): its bytes, whether it sets ANN, and whether it sets ERR. -/
def arriveAt (s : State) (tid b bytes : Nat) (ann err : Bool) : Except Cause State :=
  match findTeam s tid with
  | none => .ok s
  | some t =>
    let q := barOf t b
    if q.exp = 0 then .error barState
    else if q.exp ≤ q.arr || !balOk (q.bal + bytes) then .error barOver
    else
      .ok (evalBarrier (setBar s tid b
        { q with arr := q.arr + 1, bal := q.bal + bytes, ann := q.ann || ann, err := q.err || err }) tid b)

/-- Bytes delivered (R136), or given up with ERR (R137). -/
def deliverBytes (s : State) (tid b bytes : Nat) (err : Bool) : State :=
  match findTeam s tid with
  | none => s
  | some t =>
    let q := barOf t b
    evalBarrier (setBar s tid b { q with bal := q.bal - bytes, err := q.err || err }) tid b

/-- The engine error word after a failure (R148). -/
def noteFailure (s : State) (tid b : Nat) (c : Cause) : State :=
  updTeam s tid fun t =>
    let n := t.engErr.toNat % 65536
    let head := if n = 0 then c.toNat * 2 ^ 24 + b % 16 * 2 ^ 20 else t.engErr.toNat / 2 ^ 20 * 2 ^ 20
    { t with engErr := BitVec.ofNat 32 (head + min 65535 (n + 1)) }

/-! ## BARINIT, ARRIVE, ARRIVEX -/

/-- BARINIT (R140). -/
def execBarinit (b : BitVec 4) (e : BitVec 1) (n : BitVec 6) (s : State) : Host.Outcome State Fault Refusal :=
  groupWord (.barinit b e n) (fun x s =>
    let k := b.toNat
    let q := barOf x.tm k
    let named := x.tm.queue.any (fun c => c.bar = k) || x.tm.running.any fun c => c.bar = k
    if q.exp = n.toNat && q.e = flag e then .done s
    else if q.arr = 0 && q.bal = 0 && !q.ann && !named then
      .done (wakePhase (setBar s x.x.tid k { exp := n.toNat, e := flag e }) x.x.tid k false)
    else .trap (ctlTrap x (wordOf (.barinit b e n)) barState k) s) s

/-- Whether an earlier arrival of a group on a barrier is held (R146). -/
def heldBefore (t : Team) (gi b : Nat) : Bool := t.heldArr.any fun h => h.gi = gi && h.bar = b

/-- An arrival that issues (R141, R146): held behind a guard or behind an earlier held arrival, else performed. -/
def arriveWord (w : Word) (x : Bool) (b bytes : Nat) (ann : Bool) (e : Ex) (s : State) : Res :=
  let g := modGuard e
  if g.isSome || heldBefore e.tm e.g.gi b then
    .done (setTeam s e fun t => { t with heldArr := t.heldArr ++ [⟨e.g.gi, b, g, x, bytes, ann⟩] })
  else
    match arriveAt s e.x.tid b bytes ann false with
    | .ok s => .done s
    | .error c => .trap (ctlTrap e w c b) s

/-- ARRIVE (R141). -/
def execArrive (b : BitVec 4) (s : State) : Host.Outcome State Fault Refusal :=
  groupWord (.arrive b) (arriveWord (wordOf (.arrive b)) false b.toNat 0 false) s

/-- A value read once for the split from the lowest active lane of a per-lane operand, with its tag and the dice state
of that lane after a draw (R463); none with A empty. -/
def leadValue (e : Ex) (c : Nat) : Option (Cell × List (Nat × Word)) :=
  match leadLane e (perLane c) with
  | none => none
  | some i =>
    let r := laneOne e .int c i
    some (r.1, if c = 0xF7 then [(i, r.2)] else [])

/-- ARRIVEX (R141): a POISON byte count escapes. -/
def execArrivex (b : BitVec 4) (a : BitVec 8) (s : State) : Host.Outcome State Fault Refusal :=
  let w := wordOf (.arrivex b a)
  groupWord (.arrivex b a) (fun e s =>
    match leadValue e a.toNat with
    | none => arriveWord w true b.toNat 0 false e s
    | some (v, d) =>
      if v.2 = poison then
        .trap (escapeTrap e w (leadMask e (isV a.toNat) (e.low.getD 0)) 8 a.toNat) s
      else
        match arriveWord w true b.toNat v.1.toNat true e s with
        | .done t => .done (setGroup t e fun g => writeDice g d)
        | r => r) s

/-- BARWAIT (R143): the split parks until the phase of parity q is complete, then LERR goes to p. -/
def execBarwait (b : BitVec 4) (q : BitVec 1) (p : BitVec 3) (s : State) : Host.Outcome State Fault Refusal :=
  groupWord (.barwait b q p) (fun e s =>
    let r := barOf e.tm b.toNat
    if r.phase ≠ flag q then
      .done (setGroup s e fun g => writePred g p.toNat e.x.amask (if r.lerr then BitVec.allOnes 64 else 0#64))
    else .moved (setSplit s e (parkAs .bar (2 * b.toNat + q.toNat)))) s

/-- BARTRY (R143). -/
def execBartry (b : BitVec 4) (q : BitVec 1) (p : BitVec 3) (s : State) : Host.Outcome State Fault Refusal :=
  plainWord (.bartry b q p) (fun e s =>
    let r := barOf e.tm b.toNat
    setGroup s e fun g =>
      writePred g p.toNat e.x.amask (if r.phase ≠ flag q then BitVec.allOnes 64 else 0#64)) s

/-! ## Held arrivals (R146) -/

/-- The state of a guard slot. -/
def guardOf (t : Team) (g : Nat) : Guard := mapGet .unresolved t.guards g

/-- HELD_ARRIVAL (R146): the arrival of index arg.b of team arg.a, when no earlier arrival of its group on its barrier is
held and its guard is resolved. Its faults are recorded in the engine error word (R407). -/
def execHeldArrival (s : State) : Host.Outcome State Fault Refusal :=
  .next <|
    match findTeam s s.arg.a with
    | none => s
    | some t =>
      match t.heldArr[s.arg.b]? with
      | none => s
      | some h =>
        let first := !((t.heldArr.take s.arg.b).any fun k => k.gi = h.gi && k.bar = h.bar)
        let g := match h.guard with | none => Guard.true_ | some k => guardOf t k
        if !first || g = .unresolved then s
        else
          let s1 := updTeam (tidy s) t.tid fun t => { t with heldArr := t.heldArr.eraseIdx s.arg.b }
          let yes := g = .true_
          if !yes && !h.always then s1
          else
            match arriveAt s1 t.tid h.bar (if yes then h.bytes else 0) (yes && h.ann) false with
            | .ok r => packetDone s r t.core
            | .error c => noteFailure s1 t.tid h.bar c

/-! ## Batches (R144) -/

/-- BATCH: pending commands close into batch BC + 1. -/
def execBatch (d : BitVec 8) (s : State) : Host.Outcome State Fault Refusal :=
  groupWord (.batch d) (fun e s =>
    if 16 ≤ e.g.batches.length then .moved (setSplit s e (parkAs .batch 0))
    else
      let n := e.g.bc + 1
      let s := setGroup s e fun g =>
        { g with bc := n, pending := []
                 batches := if g.pending = [] then g.batches else g.batches ++ [⟨n, g.pending⟩] }
      .done (if d = 0xF0#8 then s else putS s e [(d.toNat - 0xC0, (BitVec.ofNat 32 n, own e))])) s

/-- WAITB (R144). -/
def execWaitb (p : BitVec 3) (a : BitVec 8) (s : State) : Host.Outcome State Fault Refusal :=
  groupWord (.waitb p a) (fun e s =>
    match leadValue e a.toNat with
    | none => .done s
    | some (v, d) =>
      let n := v.1.toNat
      if e.g.bc < n then .trap (ctlTrap e (wordOf (.waitb p a)) batchState n) s
      else if e.g.batches.any fun b => b.num ≤ n then .moved (setSplit s e (parkAs .batch 0))
      else
        .done (setGroup s e fun g =>
          let g := writeDice g d
          { writePred g p.toNat e.x.amask (if g.batchFail then BitVec.allOnes 64 else 0#64) with
            batchFail := false })) s

/-- A command is over (R144, R169): it leaves its group's batches, the copies count falls, and a failure sets the
group's sticky bit. -/
def endCommand (s : State) (tid gi csn : Nat) (failed : Bool) : State :=
  let s := updGroup s tid gi fun g =>
    let bs := (g.batches.map fun b => { b with open_ := b.open_.filter fun c => c ≠ csn }).filter fun b => b.open_ ≠ []
    { g with pending := g.pending.filter fun c => c ≠ csn, batches := bs, batchFail := g.batchFail || failed }
  let s := countDown s tid gi 2
  wakeTeam s tid fun x => x.gi = gi && x.park = .batch

/-! ## Guards and status -/

/-- GSET (R145). -/
def execGset (g : BitVec 3) (a : BitVec 2) (p : BitVec 3) (s : State) : Host.Outcome State Fault Refusal :=
  groupWord (.gset g a p) (fun e s =>
    let k := g.toNat
    let set := fun (v : Guard) =>
      let s := setTeam s e fun t => { t with guards := mapSet .unresolved t.guards k v }
      wakeSeq s e.x.tid fun q => q = .guard k
    if a = 0#2 then .done (set .unresolved)
    else if a = 1#2 && e.low.isNone then .done s
    else if guardOf e.tm k ≠ .unresolved then .trap (ctlTrap e (wordOf (.gset g a p)) guardState k) s
    else
      let v := if a = 1#2 then predBit e.g p.toNat (e.low.getD 0) else a = 2#2
      .done (set (if v then .true_ else .false_))) s

/-- The largest n with every batch up to n complete (R148). -/
def batchesDone (g : Group) : Nat :=
  match leastBy (fun b : Batch => b.num) g.batches with
  | some b => b.num - 1
  | none => g.bc

/-- The value XSTAT reads (R148). -/
def xstatValue (e : Ex) (sel idx : Nat) : Word :=
  let q := barOf e.tm idx
  match sel with
  | 0 => BitVec.ofInt 32 (max (-2147483648) (min 2147483647 q.bal))
  | 1 => BitVec.ofNat 32 (barWord q / 2 ^ 32)
  | 2 => BitVec.ofNat 32 (16 - e.tm.queue.length)
  | 3 => BitVec.ofNat 32 e.g.bc
  | 4 => BitVec.ofNat 32 (batchesDone e.g)
  | 5 => (match guardOf e.tm idx with | .unresolved => 0#32 | .true_ => 1#32 | .false_ => 2#32)
  | 6 => e.tm.engErr
  | 7 => BitVec.ofNat 32 (min 0xFFFFFFFF e.tm.zeroBlocks)
  | 8 => BitVec.ofNat 32 (min 0xFFFFFFFF e.tm.spills)
  | _ => BitVec.ofNat 32 (min 0xFFFFFFFF e.tm.satBlocks)

/-- XSTAT (R148): reading the engine error word clears it. -/
def execXstat (d : BitVec 8) (k i : BitVec 4) (s : State) : Host.Outcome State Fault Refusal :=
  plainWord (.xstat d k i) (fun e s =>
    let s := putS s e [(d.toNat - 0xC0, (xstatValue e k.toNat i.toNat, own e))]
    if k = 6#4 then setTeam s e fun t => { t with engErr := 0#32 } else s) s

/-! ## Checks of the words that need A = L (R326) -/

/-- BRACKET_STATE in an open bracket, MASK_STATE outside one with A ≠ L (R326). -/
def strictCause (e : Ex) : Option Cause :=
  if e.x.br then some bracketState else if e.x.amask ≠ e.x.lset then some maskState else none

/-- Whether the group has another live split, or the split's stack is not empty (R335, R381). -/
def notAlone (s : State) (e : Ex) : Bool := (splitsOf s e.x.tid e.x.gi).length ≠ 1 || e.x.stack ≠ []

/-! ## REGROUP (R334 to R337) -/

/-- REGROUP: the checks of R335 in order, then the arrival, which waits for its group's earlier arrivals on the barrier that are
held (R146); the split parks until its phase completes. -/
def execRegroup (b : BitVec 4) (n : BitVec 8) (o : BitVec 12) (s : State) : Host.Outcome State Fault Refusal :=
  let w := wordOf (.regroup b n o)
  groupWord (.regroup b n o) (fun e s =>
    let k := b.toNat
    let q := barOf e.tm k
    match strictCause e with
    | some c => .trap (ctlTrap e w c 0) s
    | none =>
      if notAlone s e then .trap (ctlTrap e w regroupState 0) s
      else if q.exp = 0 then .trap (ctlTrap e w barState k) s
      else if q.e then .trap (ctlTrap e w regroupState 0) s
      else if heldBefore e.tm e.g.gi k then .stall
      else if q.exp ≤ q.arr then .trap (ctlTrap e w barOver k) s
      else
        let s := setGroup s e fun g => { g with regroup := .arrived }
        let s := setSplit s e (parkAs .regroup w.toNat)
        (match arriveAt s e.x.tid k 0 false false with
         | .ok s => .moved s
         | .error c => .trap (ctlTrap e w c k) s)) s

/-- A lane as it migrates (R336): v0 to v(n − 1), p1 to p7, %origlane, its dice state and its status. -/
structure LaneLoad where
  regs : List Cell
  preds : List Bool
  orig : Word
  dice : Word
  lst : Word
  deriving DecidableEq, Repr

/-- What lane i of a group carries. -/
def laneLoad (g : Group) (n i : Nat) : LaneLoad :=
  { regs := (upTo n).map fun r => vreg g r i, preds := (upTo 7).map fun p => predBit g (p + 1) i
    orig := mapGet 0#32 g.orig i, dice := diceOf g i, lst := lstatOf g i }

/-- A group with a lane put at a position. -/
def putLane (g : Group) (i : Nat) (l : LaneLoad) : Group :=
  let g := writeCells g (l.regs.zipIdx.map fun c => (c.2 * 64 + i, c.1))
  let one := (1#64 <<< i : DWord)
  let g := l.preds.zipIdx.foldl (fun (g : Group) (p : Bool × Nat) =>
    writePred g (p.2 + 1) one (if p.1 then one else 0#64)) g
  { writeDice g [(i, l.dice)] with
    orig := mapSet 0#32 g.orig i l.orig, lstat := mapSet 0#32 g.lstat i l.lst }

/-- A participant after the migration (R336). -/
def afterMigration (s : State) (tid parts b n : Nat) (off : BitVec 12) (j : Nat) (p : Nat × Nat × Word)
    (got : List LaneLoad) : State :=
  match findSplit s tid p.1 p.2.1 with
  | none => s
  | some x0 =>
    let mask := fullMask got.length
    let pc := if got = [] then x0.pc + 4#64 * off.signExtend 64 else x0.pc + 4#64
    let s := updGroup s tid p.1 fun g =>
      { got.zipIdx.foldl (fun (g : Group) (l : LaneLoad × Nat) => putLane g l.2 l.1) g with regroup := .running }
    let s := updSplit s tid p.1 p.2.1 fun x =>
      { unpark x with lset := mask, amask := mask, pc := pc, imm := 0#32, mod := 0#32, hint := 0#32 }
    let s := updTeam s tid fun t => { t with retWords := t.retWords + 1 }
    match exAt s tid p.1 p.2.1 with
    | none => s
    | some e =>
      trace s e 6 (bytesOf 8 mask.toNat ++ bytesOf 1 parts ++ bytesOf 1 j ++ bytesOf 1 b ++ bytesOf 1 n ++
        bytesOf 4 (pc - e.lch.code).toNat)

/-- The participants of the oldest set that migrates on a barrier of a team, by group (R336). -/
def migrants (s : State) (tid b : Nat) : List (Nat × Nat × Word) :=
  let all := (sortBy (fun x : Split => x.gi) (s.splits.filter fun x => x.tid = tid && x.park = .regroup)).filter fun x =>
    bits x.parkKey 23 20 = b && (match findGroup s tid x.gi with | some g => g.regroup = .migrating | none => false)
  match leastBy (fun x : Split => x.parkKey / 2 ^ 32) all with
  | none => []
  | some y => (all.filter fun x => x.parkKey / 2 ^ 32 = y.parkKey / 2 ^ 32).map fun x => (x.gi, x.rank, BitVec.ofNat 32 x.parkKey)

/-- The participants of a migration see every store to LS that has been released, their own among them (R377, R383). -/
def participantsSee (s : State) (tid : Nat) (ps : List (Nat × Nat × Word)) : State :=
  ps.foldl (fun s q => seeReleased s (tid, q.1, q.2.1)) s

/-- The lanes of a migration's participants renumbered and moved (R336). -/
def migrate (s : State) (tid : Nat) (p : Nat × Nat × Word) (pt : List (Nat × Nat × Word)) (w : Nat) : State :=
  let ps := p :: pt
  let s := participantsSee s tid ps
  let n := bits p.2.2.toNat 19 12
  let off := p.2.2.extractLsb' 0 12
  let loads := ps.flatMap fun q =>
    match exAt s tid q.1 q.2.1 with
    | some f => (lanesOf w f.x.lset).map (laneLoad f.g n)
    | none => []
  let s := ps.zipIdx.foldl (fun s q =>
    afterMigration s tid ps.length (bits p.2.2.toNat 23 20) n off q.2 q.1 ((loads.drop (q.2 * w)).take w)) s
  ps.foldl (fun s q => reslice s tid q.1 w) s

/-- REGROUP_MIGRATION (R336): the participants of team arg.a on barrier arg.b migrate; a packet that meets a translation fault holds
the migration up (R464). -/
def execRegroupMigration (s : State) : Host.Outcome State Fault Refusal :=
  .next <|
    match migrants s s.arg.a s.arg.b with
    | [] => s
    | p :: pt =>
      match exAt s s.arg.a p.1 p.2.1 with
      | none => s
      | some e => packetDone s (migrate (tidy s) s.arg.a p pt e.width) e.tm.core

/-! ## The grid barrier (R358, R381) -/

/-- The teams of a launch that are on a core. -/
def teamsOf (s : State) (lid : Nat) : List Team := s.teams.filter fun t => t.launch = lid

/-- Completion of the current generation once every group of the grid that has not exited has arrived (R381): the
arrived groups acquire at DEV scope, and their GRIDBARs complete when they run again. -/
def evalGrid (s : State) (lid : Nat) : State :=
  match findLaunch s lid with
  | none => s
  | some l =>
    let tids := (teamsOf s lid).map fun t => t.tid
    let live := s.groups.filter fun g => tids.contains g.tid && !g.exited
    if l.undisp = [] && l.savedTeams = [] && live.any (fun g => g.gridArrived) && live.all fun g => g.gridArrived then
      let s := updLaunch s lid fun l => { l with gridGen := l.gridGen + 1 }
      let s : State := { s with
        groups := updBy (fun g => tids.contains g.tid) (fun g => { g with gridArrived := false }) s.groups
        splits := updBy (fun x => tids.contains x.tid && x.st = .parked && x.park = .grid)
          (fun x => { unpark x with granted := true }) s.splits }
      let s := { s with teams := updBy (fun t => tids.contains t.tid) (fun t => { t with lsOld := [] }) s.teams }
      (teamsOf s lid).foldl (fun s t => acquireL1 s t.core) s
    else s

/-- GRIDBAR (R381): GRID_STATE without COOP, then R326, then GRID_STATE unless the split is its group's only one; the
arrival is a release at DEV scope. -/
def execGridbar (s : State) : Host.Outcome State Fault Refusal :=
  let w := wordOf .gridbar
  groupWord .gridbar (fun e s =>
    if e.x.granted then .done (setSplit s e fun x => { x with granted := false })
    else if !e.lch.coop then .trap (ctlTrap e w gridState 0) s
    else
      match strictCause e with
      | some c => .trap (ctlTrap e w c 0) s
      | none =>
        if notAlone s e then .trap (ctlTrap e w gridState 0) s
        else if !released s e 4 then .stall
        else
          let s := setGroup s e fun g => { g with gridArrived := true }
          .moved (evalGrid (setSplit s e (parkAs .grid 0)) e.lch.id)) s

end Sys2Proof.Machine
end

