-- ==== Sys2Proof/Machine/Blocks.lean ====
section
/-! DEFINITION. MX blocks (R21 to R24) and scaled packets (R26 to R28): the choice of a block's scale, the rounding
of its elements, error feedback and outliers, and the packing and expanding of a packet. -/

namespace Sys2Proof.Machine

/-- The element formats of a block. -/
inductive BFmt where
  | e2m1 | e4m3 | e5m2 | int8
  deriving DecidableEq, Repr

/-- The exponent of the largest element value (R21). -/
def BFmt.emax : BFmt → Int
  | .e2m1 => 2 | .e4m3 => 8 | .e5m2 => 15 | .int8 => 0

/-- The floating-point format of the elements, where there is one. -/
def BFmt.fp : BFmt → Option Fmt
  | .e2m1 => some .e2m1 | .e4m3 => some .e4m3 | .e5m2 => some .e5m2 | .int8 => none

/-- The value of an element code (R14, R21). -/
def decodeElem (f : BFmt) (code : Nat) : FVal :=
  match f.fp with
  | some g => decodeFp g code
  | none => (ofInt (signed 8 code)).scale (-6)

/-- The largest element value. -/
def BFmt.maxVal : BFmt → FVal
  | .e2m1 => ofInt 6 | .e4m3 => ofInt 448 | .e5m2 => ofInt 57344 | .int8 => (ofInt 127).scale (-6)

/-- A quotient rounded to an element code, clamped to the element maximum (R22). -/
def roundElem (f : BFmt) (r : Rnd) (v : FVal) (draw : Nat) : Nat :=
  match f.fp with
  | some g => (roundTo g r true v draw).code
  | none =>
    let z := match v with
      | .inf s => if s then -127 else 127
      | _ => max (-127) (min 127 (toIntegral r (v.scale 6) draw))
    (z % 256).toNat

/-- A value rounded to FP32 in RNE. -/
def rne32 (v : FVal) : FVal := decodeFp .fp32 (roundTo .fp32 .rne false v 0).code

/-- A block's scale and kind (R22): the scale byte, a NaN block, an all-zero block, a saturated block, the amax used,
and the position of its outlier (R24). -/
structure BScale where
  byte : Nat
  nan : Bool
  zero : Bool
  satur : Bool
  amax : FVal
  out : Option Nat
  deriving DecidableEq, Repr

/-- The magnitude order of two finite values. -/
def magLess (x y : FVal) : Bool := fcmp (x.setSign false) (y.setSign false) = .lt

/-- The position of the largest finite magnitude, the lowest of equals. -/
def largestAt (xs : List (Nat × FVal)) : Option (Nat × FVal) :=
  xs.foldl (fun (acc : Option (Nat × FVal)) (x : Nat × FVal) =>
    match acc with
    | none => some x
    | some y => if magLess y.2 x.2 then some x else some y) none

/-- The scale byte of an amax, and whether the block saturates (R22). -/
def scaleOf (f : BFmt) (amax : FVal) : Nat × Bool :=
  match amax with
  | .fin _ m e _ =>
    if m = 0 then (0x7F, false)
    else
      let es := leadExp m e - f.emax
      if es > 127 then (0xFE, true) else ((max es (-127) + 127).toNat, false)
  | _ => (0x7F, false)

/-- The choice of a block's scale from its inputs (R22, R24). -/
def chooseScale (f : BFmt) (outl : Bool) (xs : List FVal) : BScale :=
  if xs.any FVal.isNaN || (f ≠ .e5m2 && xs.any FVal.isInf) then ⟨0xFF, true, false, false, fzero, none⟩
  else if xs.all FVal.isZero then ⟨0, false, true, false, fzero, none⟩
  else
    let fin := (xs.zipIdx.filter fun x => x.1.isFin).map fun x => (x.2, x.1)
    match largestAt fin with
    | none => ⟨0x7F, false, false, false, fzero, none⟩
    | some (k, v) =>
      let top := v.setSign false
      let byMax := let (b, st) := scaleOf f top; ({ byte := b, nan := false, zero := false, satur := st, amax := top, out := none } : BScale)
      if !outl then byMax
      else
        match largestAt (fin.filter fun x => x.1 ≠ k) with
        | none => byMax
        | some (_, w) =>
          if w.isZero then byMax
          else
            let sec := w.setSign false
            let (b, st) := scaleOf f sec
            let q := top.scale (127 - (b : Int))
            { byte := b, nan := false, zero := false, satur := st, amax := sec
              out := if fcmp q f.maxVal = .gt then some k else none }

/-- One element of a block: its code, its outlier value where it is the outlier, and the residual that error
feedback carries on (R22 to R24). DESIGN CHOICE (log entry 36): an outlier whose value with the residual fed back is infinite or
rounds to a BF16 infinity stores that infinity and carries on the residual +0: R23's formula gives no finite residual there. -/
def blockElem (f : BFmt) (r : Rnd) (sc : BScale) (k : Nat) (x : FVal) (draw : Nat) (res : FVal) : Nat × Nat × FVal :=
  let ef := r = .ef
  let y := if ef then rne32 (fadd .rne x res) else x
  let down := 127 - (sc.byte : Int)
  if sc.nan || sc.zero then (0, 0, fzero)
  else if sc.out = some k then
    let b := (roundTo .bf16 .rne false y 0).code
    let e := rne32 (fadd .rne y (decodeFp .bf16 b).neg)
    (0, b, if ef && e.isFin then e else fzero)
  else if y.isInf then (if x.isInf then (roundTo .e5m2 .rne false y 0).code else roundElem f .rne y 0, 0, fzero)
  else
    let q := roundElem f (if ef then .rne else r) (y.scale down) draw
    let e := rne32 (fadd .rne y ((decodeElem f q).scale (-down)).neg)
    (q, 0, if ef then e else fzero)

/-- The elements of a block in ascending order. -/
def blockElems (f : BFmt) (r : Rnd) (sc : BScale) : Nat → FVal → List (FVal × Nat) → List (Nat × Nat)
  | _, _, [] => []
  | k, res, (x, draw) :: xs =>
    let p := blockElem f r sc k x draw res
    (p.1, p.2.1) :: blockElems f r sc (k + 1) p.2.2 xs

/-- The value of a code under a scale byte (R21); a NaN scale makes every element NaN. -/
def scaledElem (f : BFmt) (byte code : Nat) : FVal :=
  if byte = 0xFF then defaultNaN else (decodeElem f code).scale ((byte : Int) - 127)

/-! ## Scaled packets (R26 to R28) -/

/-- Elements of a packet (R26). -/
def packetElems (f : BFmt) : Nat := if f = .e2m1 then 1024 else 512

/-- A block as a packet holds it: codes, scale, and its outlier by position in the block. -/
structure PBlock where
  sc : BScale
  elems : List (Nat × Nat)
  deriving DecidableEq, Repr

/-- A packet converted from FP32 values with their draws: its 576 bytes, and its spill, zero and saturated blocks.
A block that needs an outlier after the sixth, or after the limit, is converted by its maximum (R24). -/
structure PacketOut where
  bytes : List Byte
  spills : Nat
  zeros : Nat
  saturs : List (Nat × FVal)
  deriving DecidableEq, Repr

/-- The blocks of a packet in order; cap is the number of outliers left. -/
def packBlocks (f : BFmt) (r : Rnd) (outl : Bool) : Nat → List (List (FVal × Nat)) → List PBlock × Nat
  | _, [] => ([], 0)
  | cap, b :: bs =>
    let xs := b.map fun x => x.1
    let s1 := chooseScale f outl xs
    let spill := s1.out.isSome && cap = 0
    let sc := if spill then chooseScale f false xs else s1
    let used := if sc.out.isSome then 1 else 0
    let rest := packBlocks f r outl (cap - used) bs
    (⟨sc, blockElems f r sc 0 fzero b⟩ :: rest.1, rest.2 + if spill then 1 else 0)

/-- The element bytes of a packet. -/
def elemBytes (f : BFmt) (codes : List Nat) : List Byte :=
  if f = .e2m1 then (chunksOf 2 512 codes).map fun p => BitVec.ofNat 8 (p.headD 0 % 16 + 16 * (p.getD 1 0 % 16))
  else codes.map fun c => BitVec.ofNat 8 c

/-- A packet formed from its blocks and its tag (R26, R27). -/
def formPacket (f : BFmt) (r : Rnd) (outl : Bool) (limit : Nat) (vals : List (FVal × Nat)) (tag : Tag) : PacketOut :=
  let p := packBlocks f r outl limit (chunksOf 32 32 vals)
  let codes := p.1.flatMap fun b => b.elems.map fun x => x.1
  let outs := p.1.zipIdx.filterMap fun b => b.1.sc.out.map fun k =>
    ((b.2 * 32 + k) * 2 ^ 22 + (b.1.elems.getD k (0, 0)).2)
  let scales := p.1.map fun b => BitVec.ofNat 8 b.sc.byte
  let flags := (if r = .ef then 1 else 0) + (if r = .sr then 2 else 0) + (if p.2 > 0 then 4 else 0) +
    (if p.1.any fun b => b.sc.nan then 8 else 0) + (if p.1.any fun b => b.sc.zero then 16 else 0) +
    (if p.1.any fun b => b.sc.satur then 32 else 0)
  let body := elemBytes f codes ++ ((scales ++ List.replicate 32 0#8).take 32) ++
    ((outs ++ List.replicate 6 0xFFFFFFFF).take 6).flatMap (bytesOf 4) ++
    [BitVec.ofNat 8 outs.length, BitVec.ofNat 8 flags] ++ bytesOf 2 tag.toNat
  { bytes := body ++ bytesOf 4 (crc32c body), spills := p.2
    zeros := (p.1.filter fun b => b.sc.zero).length
    saturs := (p.1.zipIdx.filter fun b => b.1.sc.satur).map fun b => (b.2, b.1.sc.amax) }

/-- The used outlier entries of a packet: element index and BF16 value. -/
def packetOutliers (bs : List Byte) : List (Nat × Nat) :=
  (upTo (min 6 ((bs.getD 568 0#8).toNat))).map fun k =>
    let w := numOf ((bs.drop (544 + 4 * k)).take 4)
    (w / 2 ^ 22, w % 65536)

/-- Whether a packet matches its CRC and is well formed (R27, R28). -/
def packetOk (f : BFmt) (bs : List Byte) : Bool :=
  let n := (bs.getD 568 0#8).toNat
  let entry := fun (k : Nat) => numOf ((bs.drop (544 + 4 * k)).take 4)
  let idx := (upTo (min 6 n)).map fun k => entry k / 2 ^ 22
  numOf ((bs.drop 572).take 4) = crc32c (bs.take 572) && n ≤ 6 &&
  (upTo 6).all (fun k =>
    if k < n then bits (entry k) 21 16 = 0 && entry k / 2 ^ 22 < packetElems f else entry k = 0xFFFFFFFF) &&
  idx.dedup.length = idx.length && (bs.getD 569 0#8).toNat < 64 &&
  (f = .e2m1 || ((bs.drop 528).take 16).all fun b => b = 0#8)

/-- Element j of a packet (R28): its outlier value, or its code under its block's scale. -/
def packetElem (f : BFmt) (bs : List Byte) (j : Nat) : FVal :=
  match (packetOutliers bs).find? fun o => o.1 = j with
  | some o => decodeFp .bf16 o.2
  | none =>
    let code := if f = .e2m1 then (bs.getD (j / 2) 0#8).toNat / (if j % 2 = 0 then 1 else 16) % 16
      else (bs.getD j 0#8).toNat
    scaledElem f (bs.getD (512 + j / 32) 0#8).toNat code

end Sys2Proof.Machine
end

