-- ==== Sys2Proof/Machine/Team.lean ====
section
/-! DEFINITION. The retirement of a team (R153): when nothing of it is left to perform. -/

namespace Sys2Proof.Machine

/-- Whether a team may be retired (R153): every group has exited, its sequencer is idle, or faulted with nothing
pending, and every command, posted operation, held arrival, store and collective of it is over. -/
def mayRetire (s : State) (t : Team) : Bool :=
  !t.retired && (s.groups.filter fun g => g.tid = t.tid).all (fun g => g.exited) &&
  (t.seqState = .idle || (t.seqState = .faulted && t.seqFault.isNone)) &&
  t.queue = [] && t.running = [] && t.posted = [] && t.repost = [] && t.heldArr = [] && t.gathers = [] &&
  !(s.mem.flights.any fun f => f.tid = t.tid) &&
  !(s.colls.any fun c => c.tid = t.tid && c.st ≠ .done && c.st ≠ .failed)

/-- Whether every team of a cluster is retired, so that its allocations end (R153). -/
def clusterOver (s : State) (l : Launch) (cluster : Nat) : Bool :=
  let size := l.cw * l.ch
  let mine := s.teams.filter fun t => t.launch = l.id && t.cluster = cluster
  mine.all (fun t => t.retired) && !(l.undisp.any fun o => o / size = cluster) &&
  !(l.savedTeams.any fun i => s.images.any fun m => m.id = i && m.team.cluster = cluster)

/-- The unchecked-drain counts of teams that go, kept with their context (R429, R459). -/
def keepUnchecked (s : State) (lid : Nat) (ts : List Team) : State :=
  match findLaunch s lid with
  | none => s
  | some l =>
    let n := (ts.map fun t => t.unchecked).foldl (· + ·) 0
    updCtx s l.ctx fun c => { c with unchecked := c.unchecked + n }

/-- Whether a team's allocations are over: it is retired, and so is every other team of its cluster (R153). What they hold stays
where it is until another team is placed on the core (R282, R283; log entry 26). -/
def teamOver (s : State) (t : Team) : Bool :=
  t.retired && (match findLaunch s t.launch with | some l => clusterOver s l t.cluster | none => true)

/-- Teams removed with their groups and splits. -/
def dropTeams (s : State) (tids : List Nat) : State :=
  { s with
    teams := s.teams.filter fun t => !tids.contains t.tid
    groups := s.groups.filter fun g => !tids.contains g.tid
    splits := s.splits.filter fun x => !tids.contains x.tid }

/-- A core cleared of the teams that are over. -/
def vacate (s : State) (core : Nat) : State :=
  let gone := s.teams.filter fun t => t.core = core && teamOver s t
  let s := gone.foldl (fun s t => keepUnchecked s t.launch [t]) s
  dropTeams s (gone.map fun t => t.tid)

/-- A team is retired once nothing of it is left (R153). Its core writes the words it owns back to their homes, so that a launch's
completion record finds every store there (R228, R312, R343; log entry 26). -/
def tryRetire (s : State) (tid : Nat) : State :=
  match findTeam s tid with
  | none => s
  | some t =>
    if mayRetire s t then
      let s := cleanL1 s t.core (fun _ => true) false true
      let s := updTeam s tid fun t => { t with retired := true, deadline := none, drain := false, stopping := false }
      updLaunch s t.launch fun l => { l with teamsDone := l.teamsDone + 1 }
    else s

end Sys2Proof.Machine
end

