-- ==== Sys2Proof/Machine/Engine.lean ====
section
/-! DEFINITION. Transfer engines (R124 to R138, R147, R149, R150): layout records, the copy instructions, and the
movement of a chunk with its conversion, tags, padding, verification and failure. -/

namespace Sys2Proof.Machine

def layoutFormat : Cause := 0x85#8
def copyBounds : Cause := 0x86#8
def copyVerify : Cause := 0x87#8

/-! ## Formats (R128) -/

/-- Whether a format code is a packet format. -/
def isPk (f : Nat) : Bool := 9 ≤ f && f ≤ 12
/-- The element size of a format code; 0 for a packet format. -/
def esize (f : Nat) : Nat := [1, 2, 4, 8, 4, 2, 2, 1, 1].getD f 0
/-- The elements of a packet of a format code. -/
def pkElems (f : Nat) : Nat := if f = 9 then 1024 else 512
/-- The block format of a packet code. -/
def pkFmt (f : Nat) : BFmt := if f = 9 then .e2m1 else if f = 10 then .e4m3 else if f = 11 then .e5m2 else .int8
/-- The floating-point format of a code 4 to 8. -/
def fpFmt (f : Nat) : Fmt :=
  if f = 4 then .fp32 else if f = 5 then .fp16 else if f = 6 then .bf16 else if f = 7 then .e4m3 else .e5m2

/-- Whether a pair of formats copies bits, converts, or is not allowed (R128). -/
inductive PairKind where
  | same | convert | bad
  deriving DecidableEq, Repr

def pairKind (src dst : Nat) : PairKind :=
  if 12 < src || 12 < dst then .bad
  else if src = dst then .same
  else if src < 9 && dst < 9 && (src < 4 || dst < 4) && esize src = esize dst then .same
  else if src = 4 && 5 ≤ dst then .convert
  else if dst = 4 && 5 ≤ src && src ≤ 8 then .convert
  else .bad

/-! ## Layout records (R125 to R127) -/

/-- A dimension of a layout record (R126). -/
structure Dim where
  ext : Nat
  stride : Int
  box : Nat
  pad : Nat
  deriving DecidableEq, Repr

/-- A layout record (R125). -/
structure Rec where
  tbase : Nat
  lbase : Nat
  lpitch : Nat
  tf : Nat
  lf : Nat
  ts : Nat
  lsp : Nat
  rnd : Nat
  sat : Bool
  outl : Bool
  verify : Bool
  dims : List Dim
  deriving DecidableEq, Repr

/-- n bytes of a record from byte lo, as a number. -/
def recNum (r : List Byte) (lo n : Nat) : Nat := numOf ((r.drop lo).take n)

/-- Dimension k of a record. -/
def recDim (r : List Byte) (k : Nat) : Dim :=
  let b := 32 + 14 * k
  ⟨recNum r b 4, signed 40 (recNum r (b + 4) 5), recNum r (b + 9) 2, recNum r (b + 11) 1⟩

/-- NDIM as the record has it, at most 16. -/
def recNdim (r : List Byte) : Nat := min 16 (recNum r 15 1 % 32)

/-- A record's fields. -/
def readRec (r : List Byte) : Rec :=
  let conv := recNum r 17 1
  { tbase := recNum r 0 8, lbase := recNum r 8 4, lpitch := recNum r 12 2, tf := recNum r 14 1 % 16
    lf := recNum r 14 1 / 16, ts := recNum r 16 1 % 4, lsp := recNum r 16 1 / 4 % 4, rnd := conv % 8
    sat := conv.testBit 3, outl := conv.testBit 4, verify := conv.testBit 5
    dims := (upTo (recNdim r)).map (recDim r) }

/-- Whether the reserved fields of a record are zero and its used dimensions well formed (R126). -/
def recFields (r : List Byte) : Bool :=
  let nd := recNum r 15 1
  ((r.drop 18).take 14).all (fun b => b = 0#8) && 1 ≤ nd && nd ≤ 16 && recNum r 16 1 < 16 &&
  recNum r 17 1 < 64 && recNum r 17 1 % 8 ≠ 7 &&
  (upTo 16).all fun k =>
    let d := recDim r k
    if k < nd then d.ext ≠ 0 && d.box ≠ 0 && d.pad < 3 && recNum r (32 + 14 * k + 12) 2 = 0
    else ((r.drop (32 + 14 * k)).take 14).all fun b => b = 0#8

/-- The bytes of one dim-0 run in a format (R127). -/
def runBytes (f box0 : Nat) : Nat := if isPk f then box0 / pkElems f * 576 else box0 * esize f
/-- The L-side row pitch in bytes (R127). -/
def Rec.rowBytes (q : Rec) : Nat :=
  if q.lpitch ≠ 0 then q.lpitch * 64 else runBytes q.lf ((q.dims.head?.map fun d => d.box).getD 0)

/-- Source and destination formats of a direction. -/
def Rec.pair (q : Rec) (store : Bool) : Nat × Nat := if store then (q.lf, q.tf) else (q.tf, q.lf)

/-- Whether a record serves a copy, gather or scatter in a direction (R126 to R128). VERIFY is refused with a conversion and ignored
where nothing is packed (DESIGN CHOICE, log entry 49). -/
def recServes (r : List Byte) (store : Bool) : Bool :=
  let q := readRec r
  let p := q.pair store
  let d0 := q.dims.headD ⟨0, 0, 0, 0⟩
  let packedOk := fun (f : Nat) => !isPk f || d0.box % pkElems f = 0
  recFields r && q.lsp ≠ 0 && (if store then q.lsp = 1 else q.ts < 2) && pairKind p.1 p.2 ≠ .bad &&
  ((q.rnd ≠ 6 && !q.outl) || isPk p.2) && !(q.verify && pairKind p.1 p.2 = .convert) &&
  !(pairKind p.1 p.2 = .convert && isPk p.2 && !(q.rnd = 0 || q.rnd = 5 || q.rnd = 6)) &&
  (q.lpitch = 0 || runBytes q.lf d0.box ≤ q.lpitch * 64) &&
  packedOk q.lf && (!isPk q.lf || q.lpitch % 9 = 0) && packedOk q.tf &&
  (!isPk q.tf || (d0.ext % pkElems q.tf = 0 && d0.stride = 0))

/-- Whether a record serves XFILL (R135). -/
def recFills (r : List Byte) : Bool :=
  let q := readRec r
  recFields r && q.tf < 9 && q.ts < 2 && recNum r 17 1 = 0

/-! ## A command's geometry (R127, R129, R134, R136) -/

/-- A command's record. -/
def Cmd.rec_ (c : Cmd) : Rec := readRec c.record
/-- A command's source and destination format codes; XFILL has its destination only. -/
def Cmd.fmts (c : Cmd) : Nat × Nat := if c.kind = .fill then (c.rec_.tf, c.rec_.tf) else c.rec_.pair c.store
/-- Elements in a unit of the destination: a packet, or one. -/
def Cmd.unit (c : Cmd) : Nat := if isPk c.fmts.2 then pkElems c.fmts.2 else 1
/-- Bytes of a unit. -/
def Cmd.unitBytes (c : Cmd) : Nat := if isPk c.fmts.2 then 576 else esize c.fmts.2
/-- The box, its last size the slice count of a gather or scatter (R134). -/
def Cmd.boxes (c : Cmd) : List Nat :=
  let bs := c.rec_.dims.map fun d => d.box
  if c.kind = .gather || c.kind = .scatter then bs.dropLast ++ [c.count] else bs
/-- The units of a command. -/
def Cmd.units (c : Cmd) : Nat := c.boxes.foldl (· * ·) 1 / c.unit
/-- Units of a chunk (R136). -/
def Cmd.perChunk (c : Cmd) : Nat := if isPk c.fmts.2 then 7 else 4096 / c.unitBytes

/-- The box index of a number, lowest dimension first. -/
def splitIndex : List Nat → Nat → List Nat
  | [], _ => []
  | b :: bs, n => n % b :: splitIndex bs (n / b)

/-- A unit of a command: its first element's index along dimension 0, its dim-0 run, and the other indices. -/
structure Unit_ where
  j0 : Nat
  lin : Nat
  rest : List Nat
  deriving DecidableEq, Repr

def Cmd.unitAt (c : Cmd) (k : Nat) : Unit_ :=
  let per := c.boxes.headD 1 / c.unit
  ⟨k % per * c.unit, k / per, splitIndex c.boxes.tail (k / per)⟩

/-- The tensor coordinates of a unit's first element; idx reads a gather's index list (R127, R134). -/
def Cmd.coordsOf (c : Cmd) (idx : Nat → Nat) (u : Unit_) : List Int :=
  let js := u.j0 :: u.rest
  if c.kind = .gather || c.kind = .scatter then
    (List.zipWith (fun (o : Int) (j : Nat) => o + j) c.coords js) ++ [(idx (js.getLastD 0) : Int)]
  else List.zipWith (fun (o : Int) (j : Nat) => o + j) c.coords js

/-- The T-side address of coordinates (R127). -/
def Rec.taddr (q : Rec) (xs : List Int) : Int :=
  let x0 := xs.headD 0
  let first := if isPk q.tf then x0 / (pkElems q.tf : Int) * 576 else x0 * (q.dims.headD ⟨0, 0, 0, 0⟩).stride
  (List.zipWith (fun (x : Int) (d : Dim) => x * d.stride) xs.tail q.dims.tail).foldl (· + ·) ((q.tbase : Int) + first)

/-- The L-side address of a unit (R127). -/
def Cmd.laddr (c : Cmd) (u : Unit_) : Int :=
  let q := c.rec_
  (q.lbase + (if isPk q.lf then u.j0 / pkElems q.lf * 576 else u.j0 * esize q.lf) + u.lin * q.rowBytes : Nat)

/-- Whether a coordinate lies in an extent. -/
def inExt (x : Int) (d : Dim) : Bool := 0 ≤ x && x < (d.ext : Int)

/-- How the extent settles a unit (R129): moved whole, converted with only the elements from lo below hi inside, or
settled by the policy of a dimension. -/
inductive Settle where
  | whole | part (lo hi : Nat) | pad (policy : Nat)
  deriving DecidableEq, Repr

/-- How the extent settles the unit at some indices (R129). A packet that straddles the edge of dimension 0 and lies outside in another
dimension is settled by the policy of dimension 0, the first in which an element of it lies outside (DEDUCED, log entry 49). -/
def Cmd.settleUnit (c : Cmd) (xs : List Int) : Settle :=
  let q := c.rec_
  let d0 := q.dims.headD ⟨0, 0, 0, 0⟩
  let x0 := xs.headD 0
  let u : Int := c.unit
  let lo := max 0 (-x0)
  let hi := min u ((d0.ext : Int) - x0)
  let others := (List.zipWith (fun (x : Int) (d : Dim) => (inExt x d, d.pad)) xs.tail q.dims.tail).find? fun p => !p.1
  if lo = 0 && hi = u then
    match others with
    | some p => .pad p.2
    | none => .whole
  else if lo < hi && others.isNone && d0.pad ≠ 2 then .part lo.toNat hi.toNat
  else .pad d0.pad

/-! ## Reading for an engine -/

/-- Why a chunk does not move: it fails, or waits for a translation or for the host. -/
inductive EFail where
  | cause (c : Cause)
  | miss (va : DWord) (kind : Nat)
  | tr (va : DWord) (kind level : Nat) (c : Cause)
  | ats (page : Nat) (va : DWord)
  deriving DecidableEq, Repr

/-- What a chunk has done so far: the machine, its number, its generator, the words of other devices that it still has to ask
for, the elements with births, capture tags, counts of blocks, and the sectors it has touched. -/
structure Eng where
  st : State
  chunk : Nat
  dice : Word
  asks : List (Nat × Nat) := []
  births : List (Int × CapRec) := []
  nsat : Option Tag
  bsat : Option Tag
  zeros : Nat := 0
  spills : Nat := 0
  sats : Nat := 0
  secs : List Nat := []
  deriving DecidableEq, Repr

/-- Who a command belongs to. -/
structure Who where
  lch : Launch
  tm : Team
  cmd : Cmd
  deriving DecidableEq, Repr

/-- The engine's translation of an address, by its die's shared cache (R112, R115, R137). An address that is not canonical fails the command with VA_CANON: R108
gives a precise trap alone, and R137 does not name the case (DESIGN CHOICE, log entry 24). -/
def engTarget (s : State) (w : Who) (va : DWord) (kind : Nat) : Except EFail Target :=
  match translateDie s (dieOf w.tm.core) w.lch.ctx va kind with
  | .ok t => .ok t
  | .fault c l => .error (.tr va kind l c)
  | .ats p => .error (.ats p va)
  | .miss => .error (.miss va kind)
  | .bad c => .error (.cause c)

/-- One global word read by an engine at its home (R133); a word of another device is one that it has returned for the chunk, or
is still to be asked for (R287). -/
def engWord (g : Eng) (w : Who) (va : DWord) : Except EFail (Cell × Eng) :=
  match engTarget g.st w va 1 with
  | .error f => .error f
  | .ok t =>
    let g := { g with secs := g.secs ++ [homeKey g.st t / 32] }
    if isRemote g.st t then
      let pa := t.pa / 4 * 4
      match w.cmd.heard.find? fun h => h.part = g.chunk && h.dev = t.dev && h.pa = pa with
      | some h => .ok (if t.hostShared then (h.cell.1, hostTag) else h.cell, g)
      | none => .ok ((0#32, 0#16), { g with asks := g.asks ++ [(t.dev, pa)] })
    else
      let r := readGlobal g.st w.lch.id w.tm.core false va.toNat t
      .ok (r.1, { g with st := r.2 })

/-- The words an engine reads from a side: a local store (1 LS, 2 AB, 3 WB) or global memory (0). -/
def engWords (w : Who) (space : Nat) (a : Int) : Nat → Eng → Except EFail (List Cell × Eng)
  | 0, g => .ok ([], g)
  | n + 1, g =>
    let one : Except EFail (Cell × Eng) :=
      if space = 0 then engWord g w (BitVec.ofInt 64 a)
      else
        let k := if space = 1 then Store.ls else if space = 2 then Store.ab else Store.wb
        match findTeam g.st w.tm.tid with
        | some t => .ok (storeWord t k (a.toNat / 4), g)
        | none => .ok ((0#32, 0#16), g)
    match one with
    | .error f => .error f
    | .ok (c, g) =>
      match engWords w space (a + 4) n g with
      | .error f => .error f
      | .ok (cs, g) => .ok (c :: cs, g)

/-- n bytes from an address of a side, each with the tag of the word that supplies it, in address order. -/
def engBytes (w : Who) (space : Nat) (a : Int) (n : Nat) (g : Eng) : Except EFail (List (Byte × Tag) × Eng) :=
  let off := (a % 4).toNat
  match engWords w space (a - off) ((off + n + 3) / 4) g with
  | .error f => .error f
  | .ok (cs, g) => .ok (((cs.flatMap fun c => (bytesOf 4 c.1.toNat).map fun b => (b, c.2)).drop off).take n, g)

/-! ## Conversions and births (R128, R130) -/

/-- The capture of a birth of a command, one record per cause (R130); none where R36 gives none. -/
def engBirth (g : Eng) (w : Who) (cause : Nat) (srcs : List Tag) (r : CapRec) : Option Tag × Eng :=
  if srcs.any (fun t => t.getLsbD 15) || !causeOn w.lch cause || !hasRing g.st w.lch.ctx then (none, g)
  else
    match if cause = 2 then g.nsat else g.bsat with
    | some t => (some t, g)
    | none =>
      let c := capture g.st w.lch.ctx
        { r with cause := cause, lane := 0xFF, split := 0xFF, group := w.cmd.gi, team := w.tm.ordinal
                 launch := w.lch.id, code := w.lch.code, pc := w.cmd.pc, site := w.cmd.tag, flags := r.flags + 16 }
      let s := sideEffect c.2 w.tm.tid
      (some c.1, if cause = 2 then { g with st := s, nsat := some c.1 } else { g with st := s, bsat := some c.1 })

/-- One element converted (R128): FP32 narrowed in RND, or a narrower format widened exactly. A saturation is noted as a
birth, whose record has the source as operand a and the code as RESULT (DESIGN CHOICE, log entry 50). -/
def convElem (w : Who) (space : Nat) (sa da : Int) (g : Eng) : Except EFail (Piece × Eng) :=
  let f := w.cmd.fmts
  let q := w.cmd.rec_
  match engBytes w space sa (esize f.1) g with
  | .error x => .error x
  | .ok (bs, g) =>
    let raw := numOf (bs.map fun b => b.1)
    let ts := bs.map fun b => b.2
    let narrow := f.1 = 4
    let x := if narrow && q.rnd = 5 then diceStep g.dice else g.dice
    let r := roundTo (fpFmt f.2) (if narrow then rndOf q.rnd .rne else .rne) (narrow && q.sat) (decodeFp (fpFmt f.1) raw) x.toNat
    let c : CapRec :=
      { cause := 2, result := BitVec.ofNat 32 r.code, opa := BitVec.ofNat 32 raw, taga := ts.headD 0#16, flags := 1
        w0 := BitVec.ofNat 32 raw }
    .ok ({ addr := da, bytes := bytesOf (esize f.2) r.code, tags := List.replicate (esize f.2) ts },
      { g with dice := x, births := if narrow && r.satur then g.births ++ [(da, c)] else g.births })

/-- The FP32 source elements of a packet: those outside lo and hi enter as +0 with tag PAD (R129). -/
def packSources (w : Who) (space : Nat) (sa step : Int) (lo hi : Nat) : Nat → Nat → Eng →
    Except EFail (List (FVal × Nat) × List Tag × Eng)
  | _, 0, g => .ok ([], [], g)
  | k, n + 1, g =>
    let x := if w.cmd.rec_.rnd = 5 then diceStep g.dice else g.dice
    if k < lo || hi ≤ k then
      match packSources w space sa step lo hi (k + 1) n { g with dice := x } with
      | .error e => .error e
      | .ok (vs, ts, g) => .ok ((fzero, x.toNat) :: vs, padTag :: ts, g)
    else
      match engBytes w space (sa + step * k) 4 { g with dice := x } with
      | .error e => .error e
      | .ok (bs, g) =>
        match packSources w space sa step lo hi (k + 1) n g with
        | .error e => .error e
        | .ok (vs, ts, g) => .ok ((decodeFp .fp32 (numOf (bs.map fun b => b.1)), x.toNat) :: vs, (bs.map fun b => b.2) ++ ts, g)

/-- The tag of a converted word (R38, R130). -/
def convTag (own : Tag) (srcs : List Tag) (born : Option Tag) : Tag :=
  match produce srcs own born.isSome with
  | .tag t => t
  | .birth => born.getD own

/-- Bytes that all take one tag. -/
def fixedPiece (a : Int) (bs : List Byte) (t : Tag) : Piece :=
  { addr := a, bytes := bs, tags := bs.map fun _ => [], fixed := some t }

/-- A packet formed from FP32 sources (R128, R129, R130). The record of a saturated block has no operand, and W1 counts its block
within the packet (DESIGN CHOICE, log entry 50). -/
def convPacket (w : Who) (space : Nat) (sa step da : Int) (lo hi : Nat) (g : Eng) : Except EFail (Piece × Eng) :=
  let q := w.cmd.rec_
  let f := pkFmt w.cmd.fmts.2
  match packSources w space sa step lo hi 0 w.cmd.unit g with
  | .error e => .error e
  | .ok (vs, ts, g) =>
    let form := fun (t : Tag) => formPacket f (rndOf q.rnd .rne) q.outl (if q.outl then 6 else 0) vs t
    let p := form 0#16
    let (b, g) :=
      match p.saturs with
      | [] => (none, g)
      | (k, amax) :: _ =>
        engBirth g w 3 ts
          { cause := 3, result := 0xFE#32, w0 := BitVec.ofNat 32 (roundTo .fp32 .rne false amax 0).code
            w1 := BitVec.ofNat 32 k }
    let tag := convTag w.cmd.tag ts b
    .ok (fixedPiece da (form tag).bytes tag,
      { g with zeros := g.zeros + p.zeros, spills := g.spills + p.spills, sats := g.sats + p.saturs.length })

/-- The whole packet that ZERO writes (R129): zero blocks, FLAGS bit 4, TAG PAD, and its CRC. -/
def zeroPacket (f : BFmt) : List Byte :=
  (formPacket f .rne false 0 (List.replicate (packetElems f) (fzero, 0)) padTag).bytes

/-! ## The units of a chunk -/

/-- An entry of the index list of a gather or scatter in LS (R134). -/
def engIndex (s : State) (w : Who) (i : Nat) : Cell :=
  match findTeam s w.tm.tid with
  | some t => storeWord t .ls (w.cmd.idxBase / 4 + i)
  | none => (0#32, 0#16)

/-- The tensor coordinates of unit k of a command. -/
def unitCoords (s : State) (w : Who) (k : Nat) : List Int :=
  w.cmd.coordsOf (fun i => (engIndex s w i).1.toNat) (w.cmd.unitAt k)

/-- Whether the index that unit k of a gather or scatter uses carries POISON (R45). -/
def badIndex (s : State) (w : Who) (k : Nat) : Bool :=
  (w.cmd.kind = .gather || w.cmd.kind = .scatter) && (engIndex s w ((w.cmd.unitAt k).rest.getLastD 0)).2 = poison

/-- The spaces of source and destination: 0 global, 1 LS, 2 AB, 3 WB. -/
def Cmd.spaces (c : Cmd) : Nat × Nat :=
  let q := c.rec_
  if c.kind = .fill then (q.ts, q.ts) else if c.store then (q.lsp, q.ts) else (q.ts, q.lsp)

/-- One unit of a chunk: what it writes (R129, R133, R135, R138). A packet is moved from and to the place its record gives it,
be that a multiple of 64 or not: R26 states the alignment and no fault for its want (DESIGN CHOICE, log entry 25). -/
def moveUnit (w : Who) (k : Nat) (g : Eng) : Except EFail (List Piece × Eng) :=
  let c := w.cmd
  let q := c.rec_
  let f := c.fmts
  let xs := unitCoords g.st w k
  let ta := q.taddr xs
  let la := c.laddr (c.unitAt k)
  let sp := c.spaces
  let (sa, da) := if c.store then (la, ta) else (ta, la)
  let one := fun (r : Except EFail (Piece × Eng)) => match r with
    | .error e => Except.error e
    | .ok (p, g) => .ok ([p], g)
  if badIndex g.st w k then .error (.cause poisonEscape)
  else
    match c.settleUnit xs with
    | .pad p =>
      if c.kind = .fill then .ok ([], g)
      else if p = 2 then .error (.cause copyBounds)
      else if p = 1 || c.store then .ok ([], g)
      else if isPk f.2 then .ok ([fixedPiece da (zeroPacket (pkFmt f.2)) padTag], g)
      else .ok ([{ addr := da, bytes := List.replicate c.unitBytes 0#8, tags := List.replicate c.unitBytes [padTag] }], g)
    | .part lo hi =>
      one (convPacket w sp.1 sa (if c.store then 4 else (q.dims.headD ⟨0, 0, 0, 0⟩).stride) da lo hi g)
    | .whole =>
      if c.kind = .fill then .ok ([fixedPiece ta (bytesOf c.unitBytes c.fill) fillTag], g)
      else if pairKind f.1 f.2 = .convert then
        one (if isPk f.2 then
            convPacket w sp.1 sa (if c.store then 4 else (q.dims.headD ⟨0, 0, 0, 0⟩).stride) da 0 c.unit g
          else convElem w sp.1 sa da g)
      else
        match engBytes w sp.1 sa c.unitBytes g with
        | .error e => .error e
        | .ok (bs, g) =>
          if q.verify && isPk f.2 && g.asks = [] && !packetOk (pkFmt f.2) (bs.map fun b => b.1) then .error (.cause copyVerify)
          else .ok ([{ addr := da, bytes := bs.map fun b => b.1, tags := bs.map fun b => [b.2] }], g)

/-- Units one after another. -/
def moveUnits (w : Who) : List Nat → Eng → Except EFail (List Piece × Eng)
  | [], g => .ok ([], g)
  | k :: ks, g =>
    match moveUnit w k g with
    | .error e => .error e
    | .ok (p, g) =>
      match moveUnits w ks g with
      | .error e => .error e
      | .ok (ps, g) => .ok (p ++ ps, g)

/-- Draws a unit takes: none unless it rounds in SR (R128). -/
def unitDraws (s : State) (w : Who) (k : Nat) : Nat :=
  let c := w.cmd
  if pairKind c.fmts.1 c.fmts.2 = .convert && c.fmts.1 = 4 && c.rec_.rnd = 5 then
    match c.settleUnit (unitCoords s w k) with
    | .pad _ => 0
    | _ => c.unit
  else 0

/-- Whether a command's draws follow T-side addresses: an SR store (R128). -/
def Cmd.byAddress (c : Cmd) : Bool :=
  c.store && c.fmts.1 = 4 && c.rec_.rnd = 5 && pairKind c.fmts.1 c.fmts.2 = .convert

/-- The units of a chunk in ascending destination address where draws need it, else in box order, and the draws taken
before them. -/
def chunkUnits (s : State) (w : Who) (chunk : Nat) : List Nat × Nat :=
  let c := w.cmd
  let n := c.perChunk
  if c.byAddress then
    let key := fun (k : Nat) => (BitVec.ofInt 64 (c.rec_.taddr (unitCoords s w k))).toNat
    let all := sortBy key (upTo c.units)
    let before := all.take (chunk * n)
    (((all.drop (chunk * n)).take n), (before.map (unitDraws s w)).foldl (· + ·) 0)
  else
    let mine := (upTo (min n (c.units - chunk * n))).map fun i => chunk * n + i
    let drawing := c.fmts.1 = 4 && c.rec_.rnd = 5 && c.kind ≠ .fill
    (mine, if drawing then ((upTo (chunk * n)).map (unitDraws s w)).foldl (· + ·) 0 else 0)

/-- The generator after n draws (R19). -/
def diceAfter : Nat → Word → Word
  | 0, x => x
  | n + 1, x => diceAfter n (diceStep x)

/-! ## Writing a chunk -/

/-- A destination word of a chunk: which bytes it takes, and its tag (R41, R130). -/
structure WordOut where
  addr : Int
  bytes : List (Nat × Byte)
  tag : Tag
  deriving DecidableEq, Repr

/-- The addresses of the words that a piece touches. -/
def Piece.touches (p : Piece) : List Int :=
  (upTo ((((p.addr % 4).toNat) + p.bytes.length + 3) / 4)).map fun (k : Nat) => p.addr - p.addr % 4 + 4 * (k : Int)

/-- Whether a piece has bytes in the word at an address. -/
def Piece.inWord (p : Piece) (a : Int) : Bool := p.addr < a + 4 && a < p.addr + (p.bytes.length : Int)

/-- The bytes of pieces that lie in the word at an address, in address order, with the tags of their sources. -/
def wordParts (ps : List Piece) (a : Int) : List (Nat × Byte × List Tag) :=
  sortBy (fun b : Nat × Byte × List Tag => b.1) <| (ps.filter fun p => p.inWord a).flatMap fun p =>
    (p.bytes.zip p.tags).zipIdx.filterMap fun b =>
      let x := p.addr + (b.2 : Int) - a
      if 0 ≤ x && x < 4 then some (x.toNat, b.1.1, b.1.2) else none

/-- The tags of the source words that supply the word at an address, in address order (R130). -/
def wordSources (ps : List Piece) (a : Int) : List Tag := (wordParts ps a).flatMap fun b => b.2.2

/-- The births of a chunk's elements captured, in their order, where Produce over the sources of the whole destination word
comes to one (R36, R130). -/
def settleBirths (w : Who) (ps : List Piece) (g : Eng) : List Piece × Eng :=
  g.births.foldl (fun (acc : List Piece × Eng) b =>
    match acc.1.find? fun p => p.addr = b.1 with
    | none => acc
    | some p =>
      match (p.touches.map (wordSources (w.cmd.edge ++ ps))).find? fun ts => !(ts.any fun t => t.getLsbD 15) with
      | none => acc
      | some ts =>
        let r := engBirth acc.2 w 2 ts b.2
        (updBy (fun p => p.addr = b.1) (fun p => { p with born := r.1 }) acc.1, r.2)) (ps, g)

/-- The destination words of a chunk's pieces in their order of first touch. A word takes its tag from all that supplies it,
what other chunks of the command have written there included (R41, R130). -/
def wordsOut (w : Who) (ps : List Piece) : List WordOut :=
  let conv := pairKind w.cmd.fmts.1 w.cmd.fmts.2 = .convert && w.cmd.kind ≠ .fill
  let all := w.cmd.edge ++ ps
  ((ps.flatMap Piece.touches).dedup).map fun a =>
    let mine := all.filter fun p => p.inWord a
    let srcs := wordSources mine a
    let tag := if conv then convTag w.cmd.tag srcs (mine.findSome? fun p => p.born) else summarise srcs
    ⟨a, (wordParts (ps.filter fun p => p.inWord a) a).map fun b => (b.1, b.2.1), (mine.findSome? fun p => p.fixed).getD tag⟩

/-- The pieces that a later chunk may share a destination word with. -/
def edgePieces (w : Who) (ps : List Piece) : List Piece :=
  let all := w.cmd.edge ++ ps
  all.filter fun p => p.touches.any fun a => (wordParts all a).length < 4

/-- Bytes put into a word. -/
def mergeBytes (old : Word) (bs : List (Nat × Byte)) : Word :=
  bs.foldl (fun (v : Word) (b : Nat × Byte) => putBytes v (BitVec.ofNat 32 b.2.toNat) b.1 1) old

/-- Destination words that lie in a local store written (R41). -/
def writeLocal (s : State) (tid : Nat) (k : Store) (ws : List WordOut) : State :=
  match findTeam s tid with
  | none => s
  | some t =>
    updTeam s tid fun u => setStoreWords u k (ws.map fun w =>
      let i := w.addr.toNat / 4
      (i, (mergeBytes (storeWord t k i).1 w.bytes, w.tag)))

/-- Every destination word translated, before any is written. -/
def engTargets (s : State) (w : Who) : List WordOut → Except EFail (List (WordOut × Target))
  | [] => .ok []
  | x :: xs =>
    match engTarget s w (BitVec.ofInt 64 x.addr) 2 with
    | .error f => .error f
    | .ok t =>
      match engTargets s w xs with
      | .error f => .error f
      | .ok ts => .ok ((x, t) :: ts)

/-- A global destination word as it stands after the write of its bytes. -/
def mergedWord (w : Who) (s : State) (x : WordOut × Target) : Cell × State :=
  if x.1.bytes.length = 4 then ((mergeBytes 0#32 x.1.bytes, x.1.tag), s)
  else
    let r := oldGlobal s w.lch.id w.tm.core (BitVec.ofInt 64 x.1.addr).toNat x.2
    ((mergeBytes r.1.1 x.1.bytes, x.1.tag), r.2)

/-- A destination word sent to another device, whole or byte by byte (R287). -/
def engSend (w : Who) (chunk : Nat) (s : State) (x : WordOut × Target) : State :=
  let post := fun (s : State) (kind pa : Nat) (c : Cell) =>
    postWrite s w.lch.ctx (.engine w.tm.tid w.cmd.csn) chunk x.2.dev kind pa [c]
  if x.1.bytes.length = 4 then post s 1 x.2.pa (mergeBytes 0#32 x.1.bytes, x.1.tag)
  else x.1.bytes.foldl (fun s b => post s 2 (x.2.pa + b.1) (BitVec.ofNat 32 b.2.toNat, x.1.tag)) s

/-- The words of a chunk written: POISON for an unstaged global address fails the command with nothing written (R45). The issuing
core's copies of the lines written are dropped (R136). What is written on this device is seen from now on (DESIGN CHOICE, log entry 38:
R390 would let another core read the old bytes for a while). -/
def writeChunk (w : Who) (ws : List WordOut) (g : Eng) : Except EFail Eng :=
  match w.cmd.spaces.2 with
  | 0 =>
    (match engTargets g.st w ws with
     | .error f => .error f
     | .ok ts =>
       let va := fun (x : WordOut) => (BitVec.ofInt 64 x.addr).toNat
       if ts.any fun x => x.1.tag = poison && !isStaged g.st w.lch.id (va x.1) x.2 then .error (.cause poisonEscape)
       else
         let s := beforeWrites g.st w.lch.id w.tm.tid (ts.map fun x => (va x.1, x.2))
         let here := ts.filter fun x => !isRemote s x.2
         let r := here.foldl (fun (acc : List (Nat × Target × Cell) × State) x =>
           let c := mergedWord w acc.2 x
           (acc.1 ++ [(va x.1, x.2, c.1)], c.2)) ([], s)
         let s := writeGlobals r.2 w.lch.id w.tm.core r.1
         let s := ((here.filter fun x => x.2.tier ≠ 2).map fun x => x.2.pa / 64).dedup.foldl (fun s l => dropLine s w.tm.core l) s
         .ok { g with st := (ts.filter fun x => isRemote s x.2).foldl (engSend w g.chunk) s })
  | 1 => .ok { g with st := writeLocal g.st w.tm.tid .ls ws }
  | 2 => .ok { g with st := writeLocal g.st w.tm.tid .ab ws }
  | _ => .ok { g with st := writeLocal g.st w.tm.tid .wb ws }

/-! ## Regulators (R121 to R123) -/

/-- The key of a bucket or a count: unit (0 to 95 an engine, 96 and up a sequencer), context, and 0 for L2 or 1 for DRAM. -/
def bucketKey (unit ctx k : Nat) : Nat := unit * 130 + ctx * 2 + k
/-- The key of the lines that a unit has moved in the present window. -/
def movedKey (unit : Nat) : Nat := unit * 130 + 128
/-- GUAR, RATE and BURST of a regulator word. -/
def guarOf (v : DWord) : Nat := bits v.toNat 15 0
def rateOf (v : DWord) : Nat := bits v.toNat 31 16
def burstOf (v : DWord) : Nat := bits v.toNat 47 32
/-- The regulator word, k = 0 for L2 and 1 for DRAM, that a unit uses for a context in its present window (R122, R454). -/
def regWord (c : Ctx) (unit k : Nat) : DWord :=
  let w := mapGet (c.regl, c.regd) c.oldRegs unit
  if k = 0 then w.1 else w.2
/-- The tokens of a bucket; the table holds how far it is below its depth (R122). -/
def tokens (s : State) (c : Ctx) (unit k : Nat) : Int :=
  (burstOf (regWord c unit k) : Int) + mapGet 0 s.dev.buckets (bucketKey unit c.num k)

/-- Whether a unit may issue a request for a context: neither bucket at or below 0 (R122), and fewer than 8,192 lines moved in
the window (R123). -/
def mayRequest (s : State) (ctx unit : Nat) : Bool :=
  mapGet 0 s.dev.used (movedKey unit) < 8192 &&
  match findCtx s ctx with
  | none => true
  | some c => (rateOf (regWord c unit 0) = 0 || 0 < tokens s c unit 0) && (rateOf (regWord c unit 1) = 0 || 0 < tokens s c unit 1)

/-- Whether a context has used fewer than GUAR lines of a unit in the window, so that it is served first (R122): of either word,
as the rule has one GUAR (DESIGN CHOICE, log entry 46). -/
def belowGuar (s : State) (ctx unit : Nat) : Bool :=
  match findCtx s ctx with
  | none => false
  | some c =>
    let below := fun (k : Nat) => mapGet 0 s.dev.used (bucketKey unit ctx k) < guarOf (regWord c unit k)
    below 0 || below 1

/-- Lines charged to a unit for a context: those moved, those sent to L2, and those read from or written to DRAM, whose bucket
does not fall below −BURST (R121, R122). -/
def charge (s : State) (ctx unit moved n dram : Nat) : State :=
  match findCtx s ctx with
  | none => s
  | some c =>
    let take := fun (m : List (Nat × Int)) (k n : Nat) (v : DWord) (floor : Int) =>
      if rateOf v = 0 then m
      else
        let key := bucketKey unit ctx k
        mapSet 0 m key (max floor (mapGet 0 m key - n))
    let count := fun (m : List (Nat × Nat)) (key n : Nat) => mapSet 0 m key (mapGet 0 m key + n)
    updDev s fun d =>
      let l := regWord c unit 0
      let r := regWord c unit 1
      let m := take d.buckets 0 n l (-(burstOf l : Int) - (n : Int))
      { d with buckets := take m 1 dram r (-(2 * burstOf r : Int))
               used := count (count (count d.used (movedKey unit) moved) (bucketKey unit ctx 0) n) (bucketKey unit ctx 1) dram }

/-- A request for one 64-byte line: whether an L2 slice takes it, and whether it reaches DRAM. -/
abbrev LineReq := Bool × Bool

/-- The line requests that reach sectors, named by home: those of this device's HBM4E go to L2 and miss it where a sector is not
there, those of LPDDR-6 go to DRAM (R87, R121). -/
def lineReqs (s : State) (secs : List Nat) : List LineReq :=
  ((secs.map fun k => k / 2).dedup).map fun l =>
    let home := l < 2 ^ 54
    let lp := inLpddr (l * 64)
    (home && !lp, home && (lp || secs.any fun k => k / 2 = l && !(s.mem.l2.any fun e => e.1 = k)))

/-- Line requests issued one after another while the unit may issue for the context and its turn stands: how many have gone out
(R122, R123). -/
def issueLines (turn : State → Bool) (ctx unit : Nat) : List LineReq → State → Nat × State
  | [], s => (0, s)
  | q :: qs, s =>
    if turn s && mayRequest s ctx unit then
      let r := issueLines turn ctx unit qs (charge s ctx unit 1 (if q.1 then 1 else 0) (if q.2 then 1 else 0))
      (r.1 + 1, r.2)
    else (0, s)

/-- The write-backs that a unit's work has caused charged to DRAM (R122), to the unit and the context whose request evicts the line,
whoever wrote it (DESIGN CHOICE, log entry 46). -/
def chargeBacks (s0 s : State) (ctx unit : Nat) : State := charge s ctx unit 0 0 (s.mem.writeBacks - s0.mem.writeBacks)

/-- REGULATOR_WINDOW (R122, R123, R454): the buckets of unit arg.a gain RATE lines, up to BURST, its counts of the window start anew,
and from now on it uses the regulator words of each context as they stand. -/
def execRegulatorWindow (s : State) : Host.Outcome State Fault Refusal :=
  let u := s.arg.a
  let fill := fun (c : Ctx) (m : List (Nat × Int)) (k : Nat) =>
    let key := bucketKey u c.num k
    mapSet 0 m key (min 0 (mapGet 0 m key + rateOf (regWord c u k)))
  let d := { s.dev with
    used := s.dev.used.filter fun e => e.1 / 130 ≠ u
    buckets := s.ctxs.foldl (fun m c => fill c (fill c m 0) 1) s.dev.buckets }
  .next { s with dev := d, ctxs := s.ctxs.map fun c => { c with oldRegs := c.oldRegs.filter fun e => e.1 ≠ u } }

/-! ## Commands moving, ending and failing -/

/-- A command of a team updated where it runs. -/
def updRunning (s : State) (tid csn : Nat) (f : Cmd → Cmd) : State :=
  updTeam s tid fun t => { t with running := updBy (fun c => c.csn = csn) f t.running }

/-- A command leaves its engine (R144, R169). -/
def dropCommand (s : State) (tid : Nat) (c : Cmd) (failed : Bool) : State :=
  let s := updTeam s tid fun t =>
    { t with queue := t.queue.filter fun k => k.csn ≠ c.csn, running := t.running.filter fun k => k.csn ≠ c.csn }
  tryRetire (endCommand s tid c.gi c.csn failed) tid

/-- The bytes of chunk k of a command. -/
def chunkBytes (c : Cmd) (k : Nat) : Nat := (min c.perChunk (c.units - k * c.perChunk)) * c.unitBytes
/-- The bytes a command has delivered. -/
def doneBytes (c : Cmd) : Nat := (c.done.map (chunkBytes c)).foldl (· + ·) 0

/-- A command fails (R137): its undelivered bytes leave BAL with ERR set, and its cause is recorded. -/
def failCommand (s : State) (tid : Nat) (c : Cmd) (cause : Cause) : State :=
  let s := noteFailure s tid c.bar cause
  let s := deliverBytes s tid c.bar (c.total - doneBytes c) true
  dropCommand s tid c true

/-- The engine number of a command, 0 to 95: its quad's engine 0 or 1. -/
def engineOf (t : Team) (c : Cmd) : Nat := quadOf t.core * 2 + c.onEngine.getD 0

/-- A command parks at chunk k on a translation (R115, R116), stalls without a miss slot (R112), or fails. -/
def stopCommand (s : State) (w : Who) (k : Nat) (f : EFail) : State :=
  let who := Requester.engine w.tm.tid w.cmd.csn
  let park := fun (s : State) => updRunning s w.tm.tid w.cmd.csn fun c =>
    { c with parked := true, begun := mapDel c.begun k, out := c.out.filter fun j => j ≠ k }
  match f with
  | .cause c => failCommand s w.tm.tid w.cmd c
  | .miss va kind =>
    if missSlot s.mem (dieOf w.tm.core) w.lch.ctx (va.toNat / 65536) then
      park (addWalk s w.lch.ctx w.tm.core va kind who 0#64)
    else s
  | .tr va kind level c => park (addFault s w.lch.ctx w.tm.core va kind level (engineOf w.tm w.cmd) c who 0#64).2
  | .ats p va => park (addAts s w.lch.ctx w.tm.core va p who 0#64)

/-- Whether a context lets its units work. -/
def ctxLive (s : State) (ctx : Nat) : Bool :=
  match findCtx s ctx with
  | some c => c.fault.isNone
  | none => true

/-- The commands on engine k of a quad, with their teams and launches. -/
def onEngines (s : State) (quad k : Nat) : List Who :=
  (s.teams.filter fun t => quadOf t.core = quad).flatMap fun t =>
    match findLaunch s t.launch with
    | some l => (t.running.filter fun c => c.onEngine = some k).map fun c => ⟨l, t, c⟩
    | none => []

/-- The commands on engine k of a quad. -/
def onEngineCount (s : State) (quad k : Nat) : Nat := (onEngines s quad k).length

/-- Whether a launch's engines and sequencers may work. -/
def unitsRun (s : State) (l : Launch) : Bool := ctxLive s l.ctx && l.rollback.isNone

/-- Whether a command has a chunk whose requests may issue now: on a team that a save is stopping, only one in flight (R150). -/
def wantsChunk (s : State) (w : Who) : Bool :=
  let c := w.cmd
  unitsRun s w.lch && !c.parked && mayRequest s w.lch.ctx (engineOf w.tm c) &&
  (c.begun ≠ [] || (!w.tm.stopping && c.done.length + c.out.length + c.sent.length < c.chunks))

/-- The command whose requests an engine issues next (R122, R124): of the eight it works on, the first of those whose context
is below its GUAR, else the first. -/
def servedNext (s : State) (quad k : Nat) : Option Who :=
  let ws := ((sortBy (fun w : Who => w.cmd.seat) (onEngines s quad k)).take 8).filter (wantsChunk s)
  match ws.find? fun w => belowGuar s w.lch.ctx (engineOf w.tm w.cmd) with
  | some w => some w
  | none => ws.head?

/-- Whether an engine serves a command next. -/
def engineTurn (w : Who) (s : State) : Bool :=
  (servedNext s (quadOf w.tm.core) (w.cmd.onEngine.getD 0)).any fun v => v.tm.tid = w.tm.tid && v.cmd.csn = w.cmd.csn

/-- A chunk run: the words it writes and the pieces they come from. -/
def chunkRun (s : State) (w : Who) (k : Nat) : Except EFail (List WordOut × List Piece × Eng) :=
  let us := chunkUnits s w k
  match moveUnits w us.1
      { st := tidy s, chunk := k, dice := diceAfter us.2 w.cmd.dice, nsat := w.cmd.capNsat, bsat := w.cmd.capBsat } with
  | .error e => .error e
  | .ok (ps, g) =>
    let r := if g.asks = [] then settleBirths w ps g else (ps, g)
    .ok (wordsOut w r.1, r.1, r.2)

/-- The sectors that a chunk reaches and the words of other devices that it reads, found by a run that changes nothing. -/
def chunkReach (s : State) (w : Who) (k : Nat) : Except EFail (List Nat × List (Nat × Nat)) :=
  match chunkRun s w k with
  | .error e => .error e
  | .ok (ws, _, g) =>
    if w.cmd.spaces.2 ≠ 0 then .ok (g.secs, g.asks)
    else
      match engTargets g.st w ws with
      | .error e => .error e
      | .ok ts => .ok (g.secs ++ ts.map fun x => homeKey s x.2 / 32, g.asks)

/-- Reads of words of other devices sent for a requester's part, each once (R287). -/
def askWords (s : State) (ctx : Nat) (who : Requester) (part : Nat) (asks : List (Nat × Nat)) : State :=
  asks.dedup.foldl (fun s a =>
    if s.mem.posts.any fun p => p.read && p.who = who && p.part = part && p.dev = a.1 && p.pa = a.2 then s
    else postRead s ctx who part a.1 a.2 1) s

/-- Whether a requester's part awaits answers from other devices. -/
def awaits (s : State) (who : Requester) (part : Nat) (read : Bool) : Bool :=
  s.mem.posts.any fun p => p.read = read && p.who = who && p.part = part

/-- The requests of chunk k issued, as many as the regulators allow and while the engine serves the command (R122): once all have,
the chunk is out. -/
def issueChunk (s : State) (w : Who) (k : Nat) : State :=
  match chunkReach s w k with
  | .error e => stopCommand s w k e
  | .ok (secs, asks) =>
    let had := mapGet 0 w.cmd.begun k
    let qs := (lineReqs s secs).drop had
    let r := issueLines (engineTurn w) w.lch.ctx (engineOf w.tm w.cmd) qs s
    if r.1 = qs.length then
      let s := updRunning r.2 w.tm.tid w.cmd.csn fun c => { c with begun := mapDel c.begun k, out := c.out ++ [k] }
      askWords s w.lch.ctx (.engine w.tm.tid w.cmd.csn) k asks
    else updRunning r.2 w.tm.tid w.cmd.csn fun c => { c with begun := mapPut c.begun k (had + r.1) }

/-- Chunk k of a command is delivered: all its writes are performed, and its bytes leave BAL (R136). -/
def finishChunk (s : State) (tid csn k : Nat) : State :=
  match (findTeam s tid).bind fun t => t.running.find? fun c => c.csn = csn with
  | none => s
  | some c =>
    let upd := fun (c : Cmd) =>
      { c with done := c.done ++ [k], out := c.out.filter fun j => j ≠ k, sent := c.sent.filter fun j => j ≠ k
               heard := c.heard.filter fun h => h.part ≠ k }
    let s := deliverBytes (updRunning s tid csn upd) tid c.bar (chunkBytes c k) false
    if c.done.length + 1 = c.chunks then dropCommand s tid (upd c) false else s

/-- What a watchpoint sees of a chunk: the tags it writes and the capture records it has made (R440). -/
def chunkFx (ws : List WordOut) (g : Eng) : List Fx := (ws.map fun x => Fx.memTag 64 x.addr.toNat x.tag) ++ g.st.fx

/-- Chunk k moves: it is read, converted and written, and watchpoints count and mark it (R133, R136, R440). It is delivered at once,
or when the devices it wrote to have acknowledged. -/
def moveChunk (s : State) (w : Who) (k : Nat) : State :=
  let who := Requester.engine w.tm.tid w.cmd.csn
  match chunkRun s w k with
  | .error e => stopCommand s w k e
  | .ok (ws, ps, g) =>
    if g.asks ≠ [] then askWords s w.lch.ctx who k g.asks
    else
      match writeChunk w ws g with
      | .error e => stopCommand s w k e
      | .ok g =>
        let s1 := streamWatch { g.st with fx := [] } w.lch w.tm w.cmd.gi w.cmd.pc (chunkFx ws g)
        let s1 := chargeBacks s s1 w.lch.ctx (engineOf w.tm w.cmd)
        let sat := fun (n m : Nat) => min 0xFFFFFFFF (n + m)
        let s1 := updTeam s1 w.tm.tid fun t =>
          { t with zeroBlocks := sat t.zeroBlocks g.zeros, spills := sat t.spills g.spills, satBlocks := sat t.satBlocks g.sats }
        let s1 := updRunning s1 w.tm.tid w.cmd.csn fun c =>
          { c with capNsat := g.nsat, capBsat := g.bsat, edge := edgePieces w ps }
        packetDone s
          (if awaits s1 who k false then
            updRunning s1 w.tm.tid w.cmd.csn fun c => { c with out := c.out.filter fun j => j ≠ k, sent := c.sent ++ [k] }
           else finishChunk s1 w.tm.tid w.cmd.csn k) w.tm.core

/-- CHUNK_DELIVERY (R124, R136): chunk arg.c of command arg.b of team arg.a. Where the engine serves that command next, the
chunk's requests issue; once they are out and other devices have answered, it moves. -/
def execChunkDelivery (s : State) : Host.Outcome State Fault Refusal :=
  .next <|
    match findTeam s s.arg.a with
    | none => s
    | some t =>
      match t.running.find? fun c => c.csn = s.arg.b, findLaunch s t.launch with
      | some c, some l =>
        let w : Who := ⟨l, t, c⟩
        let k := s.arg.c
        if !unitsRun s l then s
        else if c.out.contains k then
          if awaits s (.engine t.tid c.csn) k true then s else moveChunk s w k
        else if c.done.contains k || c.sent.contains k || c.chunks ≤ k then s
        else if engineTurn w s &&
            (c.begun = [] || c.begun.any fun b => b.1 = k) then issueChunk s w k
        else s
      | _, _ => s

/-- COMMAND_TO_ENGINE (R124, R146): the head of team arg.a's queue moves to the engine with more free entries, is
discarded on a FALSE guard, or stays. -/
def execCommandToEngine (s : State) : Host.Outcome State Fault Refusal :=
  .next <|
    match findTeam s s.arg.a with
    | none => s
    | some t =>
      match t.queue with
      | [] => s
      | c :: cs =>
        let v := match c.guard with | none => Guard.true_ | some g => guardOf t g
        let quad := quadOf t.core
        let n0 := onEngineCount s quad 0
        let n1 := onEngineCount s quad 1
        let k := if n0 ≤ n1 then 0 else 1
        let live := match findLaunch s t.launch with
          | some l => unitsRun s l
          | none => false
        if !live || t.stopping then s
        else
          match v with
          | .unresolved => s
          | .false_ => wakeTeam (dropCommand s t.tid c false) t.tid fun x => x.park = .engine
          | .true_ =>
            if min n0 n1 ≥ 64 then s
            else
              let (n, s) := takeId s
              let s := updTeam s t.tid fun t =>
                { t with queue := cs, running := t.running ++ [{ c with onEngine := some k, seat := n }] }
              wakeTeam s t.tid fun x => x.park = .engine

/-! ## The copy instructions (R131 to R135) -/

/-- An address fault of a word whose address is one scalar for the split: every active lane meets it, and its ADDR record is that
of one access (log entry 30). -/
def scalarFault (s : State) (e : Ex) (w : Word) (c : Cause) (va : DWord) : Res :=
  let r := addrTrapAt s e w c e.x.amask 1 0 va
  .trap r.1 r.2

/-- The 64 words of a record at a target, or how the word ends while another device has not returned its four lines (R132, R285,
R287). -/
def readRecord (s : State) (e : Ex) (va : DWord) (t : Target) (k : List Cell → State → Res) : Res :=
  let who := Requester.split e.x.tid e.x.gi e.x.rank
  if isRemote s t then
    if s.mem.posts.any fun p => p.read && p.who = who then .stall
    else
      match e.x.record with
      | some cs =>
        let s := setSplit s e fun x => { x with record := none }
        k (if t.hostShared then cs.map fun c => (c.1, hostTag) else cs) s
      | none => .moved ((upTo 4).foldl (fun s k => postRead s e.lch.ctx who k t.dev (t.pa + 64 * k) 16) s)
  else
    let r := readLane s e.lch.id e.tm.core false va.toNat 64 t
    k r.1 r.2

/-- The registers a copy instruction reads from code c on (R133 to R135). -/
def copyRegs (k : CmdKind) (r : List Byte) : Nat :=
  let nd := recNdim r
  match k with
  | .copy => nd
  | .fill => nd + (if recNum r 14 1 % 16 = 3 then 2 else 1)
  | _ => nd + 1

/-- Whether the n registers from code c lie in the allocation. -/
def regsIn (h : Header) (c n : Nat) : Bool := if c < 0xC0 then c + n ≤ h.regs else c - 0xC0 + n ≤ h.scalars

/-- The command a copy instruction would queue, its bytes and chunks from its geometry. -/
def makeCmd (e : Ex) (k : CmdKind) (store : Bool) (r : List Byte) (vals : List Word) (bar : Nat) : Cmd :=
  let nd := recNdim r
  let ints := fun (l : List Word) => l.map fun v => v.toInt
  let c : Cmd :=
    { csn := e.tm.csn, gi := e.g.gi, kind := k, store := store, record := r, pc := e.x.pc, bar := bar
      guard := modGuard e, tag := own e
      coords := (match k with | .copy => ints vals | .fill => ints (vals.take nd) | _ => ints (vals.drop 2))
      idxBase := (match k with | .copy | .fill => 0 | _ => (vals.headD 0#32).toNat)
      count := (match k with | .copy | .fill => 1 | _ => (vals.getD 1 0#32).toNat)
      fill := (match k with | .fill => (vals.getD nd 0#32).toNat + 2 ^ 32 * (vals.getD (nd + 1) 0#32).toNat | _ => 0)
      dice := diceSeed e.lch.seed (e.tm.csn + e.tm.ordinal * 65536) }
  let units := c.units
  { c with total := units * c.unitBytes, chunks := (units + c.perChunk - 1) / c.perChunk }

/-- The T side's byte range over the whole extent (R132). -/
def tRange (q : Rec) : Int × Int :=
  let ds := q.dims.zipIdx.map fun d =>
    if d.2 = 0 && isPk q.tf then ((d.1.ext / pkElems q.tf : Nat), (576 : Int)) else (d.1.ext, d.1.stride)
  let lo := ds.foldl (fun (m : Int) (d : Nat × Int) => m + min 0 (((d.1 : Int) - 1) * d.2)) (q.tbase : Int)
  let hi := ds.foldl (fun (m : Int) (d : Nat × Int) => m + max 0 (((d.1 : Int) - 1) * d.2)) (q.tbase : Int)
  (lo, hi + (if isPk q.tf then 576 else (esize q.tf : Int)))

/-- The store of a space code 1 to 3. -/
def spaceStore (k : Nat) : Store := if k = 1 then .ls else if k = 2 then .ab else .wb

/-- The bounds check of a copy (R132, R134): a cause and the offset it names. -/
def copyBoundsCheck (h : Header) (c : Cmd) : Option (Cause × Int) :=
  let q := c.rec_
  let runs := c.boxes.tail.foldl (· * ·) 1
  let last : Int := (q.lbase + (runs - 1) * q.rowBytes + runBytes q.lf (c.boxes.headD 0) : Nat)
  let t := tRange q
  if c.kind ≠ .fill && (storeSize h (spaceStore q.lsp) : Int) < last then
    some (boundsCause (spaceStore q.lsp), q.lbase)
  else if q.ts ≠ 0 && (t.1 < 0 || (storeSize h (spaceStore q.ts) : Int) < t.2) then
    some (boundsCause (spaceStore q.ts), t.1)
  else if (c.kind = .gather || c.kind = .scatter) && h.ls < c.idxBase + 4 * c.count then
    some (boundsCause .ls, c.idxBase)
  else none

/-- Whether a record and origin are malformed for a command (R126, R127, R134, R135): a count beyond 1 to 65,535 and a top dimension
whose BOX is not 1 count as such (DESIGN CHOICE, log entry 49). -/
def copyMalformed (c : Cmd) : Bool :=
  let q := c.rec_
  let served := if c.kind = .fill then recFills c.record else recServes c.record c.store
  let indexed := c.kind = .gather || c.kind = .scatter
  !served || 2 ^ 38 < c.total ||
  (isPk q.tf && (c.coords.headD 0) % (pkElems q.tf : Int) ≠ 0) ||
  (indexed && (q.dims.length < 2 || (q.dims.getLastD ⟨0, 0, 0, 0⟩).box ≠ 1 || c.count = 0 || 65535 < c.count))

/-- What a copy instruction does with its record (R132): the checks in order, each precise; then the command is queued. A
coordinate register beyond the allocation has no tag to test. A register that the record names waits for a pending transform
operation (R209). An index list that is not 4-byte aligned is ADDR_MISALIGN (DESIGN CHOICE, log entry 49). -/
def copyChecked (w : Word) (k : CmdKind) (store : Bool) (c rc bar lead : Nat) (cells : List Cell) (e : Ex) (s : State) : Res :=
  let bs := cellBytes cells
  let n := copyRegs k bs
  let pat := if k = .fill then recNdim bs else n
  let codes := (upTo n).map fun j => c + j
  let held := codes.filter fun j => (j < 0xC0) = (c < 0xC0) && regsIn e.lch.hdr j 1
  let bad := held.find? fun j => (regCell e.g j lead).2 = poison
  if (flightsOf s e).any fun f => f.regs.any fun r => codes.contains r then .stall
  else if (cells.take 3).any fun x => x.2 = poison then .trap (escapeTrap e w e.lanes 1 rc) s
  else
    match bad with
    | some j => .trap (escapeTrap e w (if isV c then [lead] else e.lanes) (if j - c < pat then 1 else 0) j) s
    | none =>
      if !regsIn e.lch.hdr c n then .trap (beforeTrap e w regBounds e.x.amask w (BitVec.ofNat 32 c) 0#32) s
      else
        let cmd := makeCmd e k store bs (codes.map fun j => (regCell e.g j lead).1) bar
        if copyMalformed cmd then .trap (ctlTrap e w layoutFormat 0) s
        else if (barOf e.tm bar).exp = 0 then .trap (ctlTrap e w barState bar) s
        else if cmd.idxBase % 4 ≠ 0 then scalarFault s e w addrMisalign (BitVec.ofNat 64 cmd.idxBase)
        else
          match copyBoundsCheck e.lch.hdr cmd with
          | some (cause, off) => scalarFault s e w cause (BitVec.ofInt 64 off)
          | none =>
            if countFull e 2 then fullStop s e
            else
              let s := countUp s e.x.tid e.x.gi 2 1
              let s := setGroup s e fun g => { g with pending := g.pending ++ [cmd.csn] }
              .done (setTeam s e fun t => { t with csn := t.csn + 1, queue := t.queue ++ [cmd] })

/-- The body of XCOPY, XGATHER, XSCATTER and XFILL (R132, R149): nothing without a leader; a full queue stalls; the split's
earlier accesses are released towards the engine; then the record is read and checked. -/
def copyBody (i : Instr) (k : CmdKind) (store : Bool) (c r lp bar : Nat) (e : Ex) (s : State) : Res :=
  let w := wordOf i
  match e.lanes.find? fun l => predBit e.g lp l with
  | none => .done s
  | some lead =>
    let rc := 0xC0 + 2 * r
    let va := (operand64 e false rc 0).1
    if 16 ≤ e.tm.queue.length then .moved (setSplit s e (parkAs .engine w.toNat))
    else if va.toNat % 256 ≠ 0 then scalarFault s e w addrMisalign va
    else if anyPoison e rc 0 then .trap (escapeTrap e w e.lanes 1 rc) s
    else
      match planAccess s e 1 256 (some e.x.amask) [(lead, va)] with
      | .wait t => .moved t
      | .stall => .stall
      | .trap cause _ => scalarFault s e w cause va
      | .go [] => .stall
      | .go ((_, t) :: _) =>
        if !released s e 4 then .stall
        else readRecord s e va t fun cells s => copyChecked w k store c rc bar lead cells e s

/-- XCOPY (R131 to R133). -/
def execXcopy (c : BitVec 8) (r : BitVec 5) (d : BitVec 1) (l : BitVec 3) (b : BitVec 4) (s : State) :
    Host.Outcome State Fault Refusal :=
  groupWord (.xcopy c r d l b) (copyBody (.xcopy c r d l b) .copy (flag d) c.toNat r.toNat l.toNat b.toNat) s
/-- XGATHER (R134). -/
def execXgather (c : BitVec 8) (r : BitVec 5) (l : BitVec 3) (b : BitVec 4) (s : State) :
    Host.Outcome State Fault Refusal :=
  groupWord (.xgather c r l b) (copyBody (.xgather c r l b) .gather false c.toNat r.toNat l.toNat b.toNat) s
/-- XSCATTER (R134). -/
def execXscatter (c : BitVec 8) (r : BitVec 5) (l : BitVec 3) (b : BitVec 4) (s : State) :
    Host.Outcome State Fault Refusal :=
  groupWord (.xscatter c r l b) (copyBody (.xscatter c r l b) .scatter true c.toNat r.toNat l.toNat b.toNat) s
/-- XFILL (R135). -/
def execXfill (c : BitVec 8) (r : BitVec 5) (l : BitVec 3) (b : BitVec 4) (s : State) :
    Host.Outcome State Fault Refusal :=
  groupWord (.xfill c r l b) (copyBody (.xfill c r l b) .fill true c.toNat r.toNat l.toNat b.toNat) s

/-! ## Stalemate (R147) -/

/-- ENGINE_STALEMATE (R147) of team arg.a: every split that waits at a full queue whose head waits on an unresolved guard
takes the cause; with every group exited it is a context fault. -/
def execEngineStalemate (s : State) : Host.Outcome State Fault Refusal :=
  .next <|
    match findTeam s s.arg.a with
    | none => s
    | some t =>
      let stuck := match t.queue.head? with
        | some c => (match c.guard with | some g => guardOf t g = .unresolved | none => false)
        | none => false
      let live := s.splits.filter fun x => x.tid = t.tid
      if !stuck then s
      else if (liveGroups s t.tid) = [] then
        match findLaunch s t.launch with
        | some l => raiseCtx s l.ctx { cause := 0x84#8, launch := l.id, team := some t.ordinal }
        | none => s
      else if t.queue.length = 16 && live ≠ [] && live.all fun x => x.st = .parked && x.park = .engine then
        packetDone s ((sortBy (fun x : Split => x.id.toNat) live).foldl (fun s x =>
          let s := updSplit s x.tid x.gi x.rank unpark
          match exAt s x.tid x.gi x.rank with
          | some e => deliverTrap s e (ctlTrap e (BitVec.ofNat 32 x.parkKey) 0x84#8 0)
          | none => s) (tidy s)) t.core
      else s

end Sys2Proof.Machine
end

