-- ==== Sys2Proof/Machine/Matrix.lean ====
section
/-! DEFINITION. Tile registers (R156, R157), MSTART, and the words of the matrix stream as the uniform sequencer issues
them (R231 to R262, R264, R265): their checks, the logical planes, and the posting of operations. -/

namespace Sys2Proof.Machine

def matrixFormat : Cause := 0x88#8
def matrixState : Cause := 0x89#8
def packetCrc : Cause := 0x8A#8

/-! ## Tile registers (R156) -/

def tileSpace (v : DWord) : Nat := bits v.toNat 63 60
def tileFmt (v : DWord) : Nat := bits v.toNat 59 56
def tileRows (v : DWord) : Nat := bits v.toNat 55 40
def tilePitch (v : DWord) : Nat := bits v.toNat 39 28
def tileBase (v : DWord) : Nat := bits v.toNat 27 0
/-- The byte offset of row r. -/
def tileRow (v : DWord) (r : Nat) : Nat := tileBase v + r * tilePitch v * 64

/-- The store of a SPACE code; a record lies in LS. -/
def spaceOf (k : Nat) : Store := match k with | 1 => .wb | 2 => .ab | 3 => .cb | _ => .ls

/-- Whether the fields of a descriptor keep R156. -/
def tileOk (v : DWord) : Bool :=
  if tileSpace v = 4 then tileFmt v = 0 && tileRows v = 0 && tilePitch v = 0 && tileBase v % 64 = 0
  else tileSpace v < 4 && tileFmt v ≤ 12 && tileRows v ≠ 0 && tilePitch v ≠ 0

/-- The bounds cause of a tile that reaches beyond its allocation (R157). -/
def tileBounds (h : Header) (v : DWord) : Option Cause :=
  let size := if tileSpace v = 4 then 256 else tileRows v * tilePitch v * 64
  let k := spaceOf (tileSpace v)
  if storeSize h k < tileBase v + size then some (boundsCause k) else none

/-- Tile register t. -/
def tileOf (t : Team) (k : Nat) : DWord := mapGet 0#64 t.tiles k
/-- Tile register t written. -/
def setTile (s : State) (tid k : Nat) (v : DWord) : State :=
  updTeam s tid fun t => { t with tiles := mapSet 0#64 t.tiles k v }

/-- TDESC (R157). -/
def execTdesc (t : BitVec 4) (a : BitVec 8) (s : State) : Host.Outcome State Fault Refusal :=
  let w := wordOf (.tdesc t a)
  groupWord (.tdesc t a) (fun e s =>
    let v := (operand64 e false a.toNat 0).1
    if !tileOk v then .trap (beforeTrap e w illField e.x.amask w 0#32 0#32) s
    else if anyPoison e a.toNat 0 || anyPoison e (a.toNat + 1) 0 then .trap (escapeTrap e w e.lanes 1 a.toNat) s
    else
      match tileBounds e.lch.hdr v with
      | some c => scalarFault s e w c (BitVec.ofNat 64 (tileBase v))
      | none => .done (setTile s e.x.tid t.toNat v)) s

/-- MSTART (R251): the stream starts at the pair's address with m0 from b. -/
def execMstart (a b : BitVec 8) (s : State) : Host.Outcome State Fault Refusal :=
  let w := wordOf (.mstart a b)
  groupWord (.mstart a b) (fun e s =>
    let pc := (operand64 e false a.toNat 0).1
    let m0 := (operand e .int b.toNat 0 0#32).1
    if anyPoison e a.toNat 0 then .trap (escapeTrap e w e.lanes 1 a.toNat) s
    else if anyPoison e b.toNat 0 then .trap (escapeTrap e w e.lanes 8 b.toNat) s
    else if pc.toNat % 4 ≠ 0 then scalarFault s e w addrMisalign pc
    else if e.tm.seqState = .running || e.tm.seqState = .parked then .trap (ctlTrap e w matrixState 0) s
    else
      .done (setTeam s e fun t =>
        { t with
          seqState := .running, seqPark := .none, seqPc := pc, seqSkip := false
          seqImm := 0#32, seqMod := 0#32, seqHint := 0#32, mregs := mapSet 0#32 t.mregs 0 m0 })) s

/-! ## Format blocks (R236 to R238) -/

/-- An operand descriptor (R237). -/
structure OpDesc where
  elem : Nat
  pk : Bool
  blen : Nat
  sfmt : Nat
  ocap : Nat
  saddr : Nat
  deriving DecidableEq, Repr

/-- The bits of an element code (R237). -/
def elemBits (k : Nat) : Nat := if k = 1 || k = 2 then 16 else if k = 5 then 4 else 8
/-- K of an element code: the elements of a 512-byte row (R234, R235). -/
def OpDesc.k (d : OpDesc) : Nat := 4096 / elemBits d.elem
/-- The row bytes and the least pitch of an operand (R235). -/
def OpDesc.rowBytes (d : OpDesc) : Nat := if d.pk then 576 else 512
def OpDesc.pitch (d : OpDesc) : Nat := if d.pk then 9 else 8

/-- The descriptor in eight bytes, where it is valid (R237). -/
def opDesc (b : List Byte) : Option OpDesc :=
  let byte := fun (k : Nat) => (b.getD k 0#8).toNat
  let d : OpDesc :=
    { elem := byte 0 % 16, pk := bits (byte 0) 4 4 = 1, blen := byte 1, sfmt := byte 2, ocap := byte 3
      saddr := numOf ((b.drop 4).take 4) }
  let plain := d.blen = 0 && d.sfmt = 0
  let blocks := (d.blen = 16 || d.blen = 32) && d.sfmt = 1
  let shapeOk :=
    if d.elem = 1 || d.elem = 2 then plain && !d.pk
    else if d.elem = 5 then blocks
    else if d.elem = 3 || d.elem = 4 || d.elem = 6 then plain || blocks
    else false
  let pkOk := if d.pk then d.blen = 32 && d.sfmt = 1 && d.saddr = 0 && d.ocap ≤ 6
    else d.ocap = 0 && (d.sfmt = 1 || d.saddr = 0)
  if byte 0 / 32 = 0 && shapeOk && pkOk then some d else none

/-- The accumulator code of a legal pair (R234, R237), 7 FP32 or 8 I32. -/
def pairAcc (a b : OpDesc) : Option Nat :=
  if a.blen ≠ 0 && b.blen ≠ 0 && a.blen ≠ b.blen then none
  else if (a.elem = 3 || a.elem = 4) && (b.elem = 3 || b.elem = 4) then some 7
  else if a.elem ≠ b.elem then none
  else if a.elem = 6 then
    if a.blen = 0 && b.blen = 0 then some 8 else if a.blen ≠ 0 && b.blen ≠ 0 then some 7 else none
  else some 7

/-- The first 32 bytes of a record in LS. -/
def formatBlock (t : Team) (base : Nat) : List Byte :=
  (upTo 8).flatMap fun k => bytesOf 4 (storeWord t .ls (base / 4 + k)).1.toNat
/-- Whether a format block has its TYPE and zero in its reserved bytes (R236). -/
def formatOk (f : List Byte) : Bool := numOf ((f.drop 28).take 4) = 0xFB000000
def fmtA (f : List Byte) : List Byte := f.take 8
def fmtB (f : List Byte) : List Byte := (f.drop 8).take 8
/-- STAT (R236). -/
def fmtStat (f : List Byte) : Nat := numOf ((f.drop 24).take 4)
/-- Byte k of CD (R238). -/
def fmtCd (f : List Byte) (k : Nat) : Nat := (f.getD (16 + k) 0#8).toNat

/-! ## Posting (R232, R248) -/

/-- A tile register that a stream word names, in the SPACE it needs (R156, R235). -/
def needTile (x : Sx) (k space : Nat) : Except Cause DWord :=
  let v := tileOf x.tm k
  if v = 0#64 then .error layoutFormat
  else if tileSpace v ≠ space then .error matrixFormat
  else .ok v

/-- The format block that a stream word names. -/
def needFormat (x : Sx) (k : Nat) : Except Cause (List Byte) :=
  match needTile x k 4 with
  | .error c => .error c
  | .ok v => .ok (formatBlock x.tm (tileBase v))

/-- Matrix-stream scalar m. -/
def mreg (t : Team) (m : Nat) : Word := mapGet 0#32 t.mregs m

/-- The operations posted on a quad's reservation table. -/
def postedOn (s : State) (quad : Nat) : Nat :=
  ((s.teams.filter fun t => quadOf t.core = quad).map fun t => t.posted.length).foldl (· + ·) 0

/-- Whether a team may post another operation: it holds fewer than four entries of its quad's table, which has sixteen (R248). -/
def roomToPost (s : State) (t : Team) : Bool := t.posted.length < 4 && postedOn s (quadOf t.core) < 16

/-- The first operation that a restored team has yet to post again is posted, where there is an entry for it (R262, R366). -/
def repostOne (s : State) (tid : Nat) : State :=
  match findTeam s tid with
  | none => s
  | some t =>
    match t.repost with
    | [] => s
    | p :: ps =>
      if roomToPost s t then
        updTeam s tid fun t => { t with posted := t.posted ++ [{ p with age := s.clock }], repost := ps }
      else s

/-- Every operation of a quad's restored teams posted again that finds an entry. -/
def repostAll (s : State) (quad : Nat) : State :=
  (s.teams.filter fun t => quadOf t.core = quad && t.repost ≠ []).foldl
    (fun s t => (upTo t.repost.length).foldl (fun s _ => repostOne s t.tid) s) s

/-- An operation posted with the logical planes it leaves (R232), or the sequencer parked for want of an entry (R248). -/
def post (s : State) (x : Sx) (w : Word) (op : MatOp) (sh ac : Option Binding) : SRes :=
  if x.tm.repost = [] && roomToPost s x.tm then
    .done (updTeam s x.tm.tid fun t =>
      { t with shadow := sh, active := ac
               posted := t.posted ++
                 [{ op := op, pc := x.tm.seqPc, word := w, shadow := sh, active := ac, age := s.clock }] })
  else .park .entry s

/-- What the checks of a stream word come to, as its end. -/
def checked (s : State) (r : Except Cause SRes) : SRes :=
  match r with
  | .ok q => q
  | .error c => .fault c s

/-! ## The stream words -/

/-- The checks of MLDW (R252). -/
def mldwCheck (x : Sx) (tw tf : Nat) : Except Cause Binding := do
  let tile ← needTile x tw 1
  let f ← needFormat x tf
  match opDesc (fmtB f) with
  | none => .error matrixFormat
  | some d =>
    if !formatOk f || tileRows tile < 256 || tilePitch tile < d.pitch then .error matrixFormat
    else if d.blen ≠ 0 && !d.pk && x.lch.hdr.ls < d.saddr + 256 * (d.k / d.blen) then .error (boundsCause .ls)
    else .ok ⟨tile, fmtB f⟩

/-- MLDW (R252): SHADOW is bound when it is posted. -/
def execMldw (w f : BitVec 4) (s : State) : Host.Outcome State Fault Refusal :=
  streamWord (.mldw w f) (fun x s =>
    checked s ((mldwCheck x w.toNat f.toNat).map fun b =>
      post s x (wordOf (.mldw w f)) (.mldw b) (some b) x.tm.active)) s

/-- MSWAP (R253). -/
def execMswap (s : State) : Host.Outcome State Fault Refusal :=
  streamWord .mswap (fun x s =>
    if x.tm.shadow.isNone then .fault matrixState s
    else post s x (wordOf .mswap) .mswap x.tm.active x.tm.shadow) s

/-- Whether a status granule overlaps the C rows of its pass (R242). -/
def statOverlaps (stat : Nat) (tc : DWord) (rowC m : Nat) : Bool :=
  (upTo m).any fun i => stat < tileRow tc (rowC + i) + 1024 && tileRow tc (rowC + i) < stat + 64

/-- The checks of an MMA in the order of R254: its operation. -/
def mmaCheck (x : Sx) (m ta tc tf tr : Nat) (nz : Bool) (am cm : Nat) : Except Cause MatOp := do
  match x.tm.active with
  | none => .error matrixState
  | some act =>
    let f ← needFormat x tf
    let a ← needTile x ta 2
    let c ← needTile x tc 3
    let rowA := (mreg x.tm am).toNat
    let rowC := (mreg x.tm cm).toNat
    let stat := fmtStat f
    let hasStat := stat ≠ 0xFFFFFFFF
    match opDesc (fmtA f), opDesc act.bd with
    | some d, some b =>
      if !formatOk f || pairAcc d b ≠ some (fmtCd f 0) || tilePitch a < d.pitch || tilePitch c < 16 ||
          (hasStat && (stat % 64 ≠ 0 || statOverlaps stat c rowC m)) then .error matrixFormat
      else if tileRows a < rowA + m then .error (boundsCause .ab)
      else if tileRows c < rowC + m || (hasStat && x.lch.hdr.cb < stat + 64) then .error (boundsCause .cb)
      else if d.blen ≠ 0 && !d.pk && x.lch.hdr.ls < d.saddr + (rowA + m) * (d.k / d.blen) then
        .error (boundsCause .ls)
      else .ok (.mma m a c f act tr nz rowA rowC)
    | _, _ => .error matrixFormat

/-- The body of an MMA of m rows (R254). -/
def mmaBody (i : Instr) (rows : Nat) (a c f : BitVec 4) (t : BitVec 2) (z : BitVec 1) (m n : BitVec 3) (x : Sx)
    (s : State) : SRes :=
  checked s ((mmaCheck x rows a.toNat c.toNat f.toNat t.toNat (flag z) m.toNat n.toNat).map fun op =>
    post s x (wordOf i) op x.tm.shadow x.tm.active)

/-- MMA.M32 (R254). -/
def execMmaM32 (a c f : BitVec 4) (t : BitVec 2) (z : BitVec 1) (m n : BitVec 3) (s : State) :
    Host.Outcome State Fault Refusal :=
  streamWord (.mmaM32 a c f t z m n) (mmaBody (.mmaM32 a c f t z m n) 32 a c f t z m n) s
/-- MMA.M64 (R254). -/
def execMmaM64 (a c f : BitVec 4) (t : BitVec 2) (z : BitVec 1) (m n : BitVec 3) (s : State) :
    Host.Outcome State Fault Refusal :=
  streamWord (.mmaM64 a c f t z m n) (mmaBody (.mmaM64 a c f t z m n) 64 a c f t z m n) s
/-- MMA.M128 (R254). -/
def execMmaM128 (a c f : BitVec 4) (t : BitVec 2) (z : BitVec 1) (m n : BitVec 3) (s : State) :
    Host.Outcome State Fault Refusal :=
  streamWord (.mmaM128 a c f t z m n) (mmaBody (.mmaM128 a c f t z m n) 128 a c f t z m n) s
/-- MMA.M256 (R254). -/
def execMmaM256 (a c f : BitVec 4) (t : BitVec 2) (z : BitVec 1) (m n : BitVec 3) (s : State) :
    Host.Outcome State Fault Refusal :=
  streamWord (.mmaM256 a c f t z m n) (mmaBody (.mmaM256 a c f t z m n) 256 a c f t z m n) s

/-- MZERO (R255). -/
def execMzero (t : BitVec 4) (s : State) : Host.Outcome State Fault Refusal :=
  streamWord (.mzero t) (fun x s =>
    checked s ((needTile x t.toNat 3).map fun v =>
      post s x (wordOf (.mzero t)) (.mzero v) x.tm.shadow x.tm.active)) s

/-- A row of the drain table (R265): the CB rows that one destination row holds, its bytes and its least pitch. -/
structure DrainRow where
  per : Nat
  bytes : Nat
  pitch : Nat
  deriving DecidableEq, Repr

/-- The row of R265 that CD forms, where it forms one. -/
def drainRow (f : List Byte) : Option DrainRow :=
  let acc := fmtCd f 0
  let dfmt := fmtCd f 1
  let rnd := fmtCd f 2
  let cap := fmtCd f 3
  let zero := numOf ((f.drop 20).take 4) = 0
  let plain := acc = 7 && (rnd = 0 || rnd = 5) && cap = 0
  let packet := acc = 7 && (rnd = 0 || rnd = 5 || rnd = 6) && cap ≤ 6
  if !zero then none
  else if dfmt = 0x07 then (if (acc = 7 || acc = 8) && rnd = 0 && cap = 0 then some ⟨1, 1024, 16⟩ else none)
  else if dfmt = 1 || dfmt = 2 then (if plain then some ⟨1, 512, 8⟩ else none)
  else if dfmt = 3 || dfmt = 4 then (if plain then some ⟨1, 256, 4⟩ else none)
  else if dfmt = 0x15 then (if packet then some ⟨4, 576, 9⟩ else none)
  else if dfmt = 0x13 || dfmt = 0x14 || dfmt = 0x16 then (if packet then some ⟨2, 576, 9⟩ else none)
  else none

/-- The checks of MDRAIN in the order of R265: its operation. -/
def mdrainCheck (x : Sx) (td tc tf rows : Nat) (z : Bool) (cm dm : Nat) : Except Cause MatOp := do
  let f ← needFormat x tf
  match drainRow f with
  | none => .error matrixFormat
  | some r =>
    if !formatOk f then .error matrixFormat
    else
      let c ← needTile x tc 3
      let d ← needTile x td 2
      let rowC := (mreg x.tm cm).toNat
      let rowD := (mreg x.tm dm).toNat
      if tilePitch c < 16 || tilePitch d < r.pitch then .error matrixFormat
      else if tileRows c < rowC + rows then .error (boundsCause .cb)
      else if tileRows d < rowD + rows / r.per then .error (boundsCause .ab)
      else .ok (.mdrain rows d c f z rowC rowD)

/-- MDRAIN (R264, R265). -/
def execMdrain (d c f : BitVec 4) (r : BitVec 2) (z : BitVec 1) (m n : BitVec 3) (s : State) :
    Host.Outcome State Fault Refusal :=
  let w := wordOf (.mdrain d c f r z m n)
  streamWord (.mdrain d c f r z m n) (fun x s =>
    checked s ((mdrainCheck x d.toNat c.toNat f.toNat (32 * 2 ^ r.toNat) (flag z) m.toNat n.toNat).map fun op =>
      post s x w op x.tm.shadow x.tm.active)) s

/-- MARRIVE (R256): after every earlier posted operation, one arrival. -/
def execMarrive (b : BitVec 4) (s : State) : Host.Outcome State Fault Refusal :=
  streamWord (.marrive b) (fun x s =>
    if x.tm.posted ≠ [] || x.tm.repost ≠ [] then .park .drain s
    else
      match arriveAt s x.tm.tid b.toNat 0 false false with
      | .ok s => .done s
      | .error c => .fault c s) s

/-- A sequencer left parked in MWAIT or MGUARD with no live group: MATRIX_STATE to Keeper (R247). -/
def streamOrphan (s : State) (tid : Nat) : State :=
  match findTeam s tid with
  | none => s
  | some t =>
    let waits := match t.seqPark with | .bar .. => true | .guard _ => true | _ => false
    if t.seqState = .parked && waits && liveGroups s tid = [] then
      match findLaunch s t.launch with
      | none => s
      | some l =>
        let s := updTeam s tid fun t => { t with seqState := .faulted, seqPark := .none }
        raiseCtx s l.ctx
          { cause := matrixState, launch := l.id, team := some t.ordinal, stream := true
            trap := { cause := matrixState, pc := t.seqPc } }
    else s

/-- A wait of the stream (R256, R259): it parks, which is a fault once every group has exited (R247). -/
def streamPark (s : State) (x : Sx) (p : SeqPark) : SRes :=
  .moved (streamOrphan (updTeam s x.tm.tid fun t => { t with seqState := .parked, seqPark := p }) x.tm.tid)

/-- MWAIT (R256). -/
def execMwait (b : BitVec 4) (q m : BitVec 1) (p : BitVec 3) (s : State) : Host.Outcome State Fault Refusal :=
  streamWord (.mwait b q m p) (fun x s =>
    let par := if flag m then (mreg x.tm p.toNat).getLsbD 0 else flag q
    if (barOf x.tm b.toNat).phase ≠ par then .done s else streamPark s x (.bar b.toNat par)) s

/-- MSETT (R257). -/
def execMsett (t : BitVec 4) (m : BitVec 3) (s : State) : Host.Outcome State Fault Refusal :=
  streamWord (.msett t m) (fun x s =>
    let v := pair64 (mreg x.tm (m.toNat + 1)) (mreg x.tm m.toNat)
    if !tileOk v then .fault illField s
    else
      match tileBounds x.lch.hdr v with
      | some c => .fault c s
      | none => .done (setTile s x.tm.tid t.toNat v)) s

/-- A matrix-stream scalar written. -/
def setMreg (s : State) (tid m : Nat) (v : Word) : State :=
  updTeam s tid fun t => { t with mregs := mapSet 0#32 t.mregs m v }

/-- MADDI (R258). -/
def execMaddi (m : BitVec 3) (st : BitVec 1) (i : BitVec 16) (s : State) : Host.Outcome State Fault Refusal :=
  streamWord (.maddi m st i) (fun x s =>
    let v := if x.tm.seqImm = 0#32 then i.signExtend 32 else x.tm.seqImm.extractLsb' 0 16 ++ i
    .done (setMreg s x.tm.tid m.toNat (if flag st then v else mreg x.tm m.toNat + v))) s

/-- MLOOP (R258). -/
def execMloop (m : BitVec 3) (o : BitVec 16) (s : State) : Host.Outcome State Fault Refusal :=
  streamWord (.mloop m o) (fun x s =>
    let v := mreg x.tm m.toNat - 1#32
    let s := setMreg s x.tm.tid m.toNat v
    if v ≠ 0#32 then .jump (x.tm.seqPc + 4#64 * o.signExtend 64) s else .done s) s

/-- MEND (R260): the sequencer is IDLE and both logical planes are empty. -/
def execMend (s : State) : Host.Outcome State Fault Refusal :=
  streamWord .mend (fun x s =>
    let s := streamComplete s x.tm.tid (x.tm.seqPc + 4#64)
    let s := updTeam s x.tm.tid fun t => { t with seqState := .idle, shadow := none, active := none }
    .moved (tryRetire s x.tm.tid)) s

/-- MGUARD (R259): on a slot that does not hold, the next non-prefix word is skipped with its prefixes. -/
def execMguard (g : BitVec 3) (n : BitVec 1) (s : State) : Host.Outcome State Fault Refusal :=
  streamWord (.mguard g n) (fun x s =>
    match guardOf x.tm g.toNat with
    | .unresolved => streamPark s x (.guard g.toNat)
    | .true_ => .done (updTeam s x.tm.tid fun t => { t with seqSkip := flag n })
    | .false_ => .done (updTeam s x.tm.tid fun t => { t with seqSkip := !flag n })) s

end Sys2Proof.Machine
end

