-- ==== Sys2Proof/Machine/Pass.lean ====
section
/-! DEFINITION. The quad's arbiter and the completion of posted matrix operations: weight loads, the plane exchange,
passes with their sums, tags, births and status granule (R240 to R244, R249 to R255), the check regions of SHADOW
launches (R429), and the delivery of stream faults (R247). -/

namespace Sys2Proof.Machine

/-! ## Bytes of a team's stores -/

/-- n bytes of a store from an offset. -/
def storeBytes (t : Team) (k : Store) (off n : Nat) : List Byte :=
  (upTo n).map fun j => byteAt (storeWord t k ((off + j) / 4)).1.toNat ((off + j) % 4)

/-- The granule tags that a span of AB, WB or CB touches, in address order. -/
def spanTags (t : Team) (k : Store) (off n : Nat) : List Tag :=
  (upTo ((off + n - 1) / 64 + 1 - off / 64)).map fun j => granTag t k (off / 64 + j)

/-- Bytes with their tags put into AB, WB or CB from an offset. A granule takes Summarise over the tags of its written
bytes, followed by its old tag when the span covers it in part (R41). -/
def putSpan (t : Team) (k : Store) (off : Nat) (bs : List (Byte × Tag)) : Team :=
  let n := bs.length
  let words := (upTo ((off + n - 1) / 4 + 1 - off / 4)).map fun j => off / 4 + j
  let put := fun (w : Nat) =>
    (upTo 4).foldl (fun (v : Word) (b : Nat) =>
      if off ≤ 4 * w + b && 4 * w + b < off + n then
        putBytes v (BitVec.ofNat 32 ((bs.getD (4 * w + b - off) (0#8, 0#16)).1).toNat) b 1 else v)
      (storeWord t k w).1
  let u := if n = 0 then t else setStoreData t k (words.map fun w => (w, put w))
  let grans := if n = 0 then [] else (upTo ((off + n - 1) / 64 + 1 - off / 64)).map fun j => off / 64 + j
  grans.foldl (fun u g =>
    let mine := (bs.zipIdx.filter fun b => (off + b.2) / 64 = g).map fun b => b.1.2
    setGranTag u k g (summarise (if mine.length = 64 then mine else mine ++ [granTag t k g]))) u

/-- Zero bytes of one tag. -/
def zeroSpan (t : Team) (k : Store) (off n : Nat) (g : Tag) : Team := putSpan t k off (List.replicate n (0#8, g))

/-! ## Operand rows (R235, R237, R241, R243) -/

/-- A row of A or B as a pass takes it: exact element values, a scale exponent per block, the element codes, the row
tag, whether a NaN or an infinity counts, and the NaN elements and NaN blocks taken as zero. -/
structure RowIn where
  vals : List FVal
  exps : List Int
  codes : List Nat
  tag : Tag
  nan : Bool
  inf : Bool
  nElem : Nat
  nBlock : Nat
  deriving DecidableEq, Repr

/-- The block format of an element code. -/
def elemFmt (k : Nat) : BFmt := match k with | 3 => .e4m3 | 4 => .e5m2 | 5 => .e2m1 | _ => .int8

/-- The value of an element code of a descriptor (R14, R21). -/
def elemVal (d : OpDesc) (c : Nat) : FVal :=
  match d.elem with
  | 1 => decodeFp .bf16 c
  | 2 => decodeFp .fp16 c
  | 6 => if d.blen = 0 then ofInt (signed 8 c) else decodeElem .int8 c
  | k => decodeElem (elemFmt k) c

/-- The element codes of 512 bytes. -/
def elemCodes (d : OpDesc) (bs : List Byte) : List Nat :=
  (upTo d.k).map fun j =>
    match elemBits d.elem with
    | 16 => (bs.getD (2 * j) 0#8).toNat + 256 * (bs.getD (2 * j + 1) 0#8).toNat
    | 4 => (bs.getD (j / 2) 0#8).toNat / (if j % 2 = 0 then 1 else 16) % 16
    | _ => (bs.getD j 0#8).toNat

/-- The offset and length of a row's scales in LS (R237). -/
def scaleSpan (d : OpDesc) (row : Nat) : Nat × Nat :=
  if d.pk || d.blen = 0 then (0, 0) else (d.saddr + row * (d.k / d.blen), d.k / d.blen)

/-- Whether a packed row is well formed, within OCAP and matches its CRC (R27, R28, R276). -/
def rowOk (t : Team) (k : Store) (tile : DWord) (d : OpDesc) (row : Nat) : Bool :=
  !d.pk ||
  (let bs := storeBytes t k (tileRow tile row) 576
   packetOk (elemFmt d.elem) bs && (bs.getD 568 0#8).toNat ≤ d.ocap)

/-- A row of an operand, its NaNs taken as zero where nz is set (R241). A packed row is expanded exactly (R28). -/
def operandRow (t : Team) (k : Store) (tile : DWord) (d : OpDesc) (nz : Bool) (row : Nat) : RowIn :=
  let off := tileRow tile row
  let bs := storeBytes t k off d.rowBytes
  let sp := scaleSpan d row
  let scales :=
    if d.pk then ((bs.drop 512).take (d.k / 32)).map fun b => b.toNat
    else (storeBytes t .ls sp.1 sp.2).map fun b => b.toNat
  let blen := if d.blen = 0 then d.k else d.blen
  let codes := elemCodes d bs
  let dead := fun (j : Nat) => scales.getD (j / blen) 0 = 0xFF && scales ≠ []
  let raw := codes.zipIdx.map fun c =>
    if d.pk then packetElem (elemFmt d.elem) bs c.2
    else if dead c.2 then defaultNaN else elemVal d c.1
  let vals := raw.zipIdx.map fun v => if nz && (dead v.2 || v.1.isNaN) then fzero else v.1
  let scaleTags := (upTo (if sp.2 = 0 then 0 else (sp.1 + sp.2 - 1) / 4 + 1 - sp.1 / 4)).map fun j =>
    (storeWord t .ls (sp.1 / 4 + j)).2
  { vals := vals
    exps := if d.pk then [] else scales.map fun (b : Nat) => if b = 0xFF then (0 : Int) else (b : Int) - 127
    codes := codes, tag := summarise (spanTags t k off d.rowBytes ++ scaleTags)
    nan := vals.any FVal.isNaN, inf := vals.any FVal.isInf
    nElem := if nz then (raw.zipIdx.filter fun v => !dead v.2 && v.1.isNaN).length else 0
    nBlock := if nz then (scales.filter fun b => b = 0xFF).length else 0 }

/-! ## One element of a pass (R25, R240, R244) -/

/-- The exact sum of the products of a group (R25). R25 leaves the sign of a group sum that is exactly zero open: it is +0 here,
whatever the signs of its products (log entry 31, DESIGN CHOICE). -/
def groupSum (ps : List FVal) : FVal :=
  if ps.any FVal.isNaN then firstNaN ps defaultNaN else ps.foldl (fadd .rne) fzero

/-- The scale exponent of a row at element k0. -/
def RowIn.expAt (r : RowIn) (blen k0 : Nat) : Int := if blen = 0 then 0 else r.exps.getD (k0 / blen) 0

/-- What an element comes to: its word, and its birth with the first k of its group. -/
structure ElemOut where
  word : Word
  cause : Option Nat
  k0 : Nat
  deriving DecidableEq, Repr

/-- A class that a value changes to: finite 0, infinite 1, NaN 2. -/
def classOf (v : FVal) : Nat := if v.isNaN then 2 else if v.isInf then 1 else 0

/-- What an element has come to before a group: its accumulator, the first k of the group in which it became special, and whether
it became infinite from finite inputs by overflow (R244). -/
structure Running where
  acc : FVal
  first : Option Nat := none
  spilled : Bool := false
  deriving DecidableEq, Repr

/-- The groups of an element taken in ascending k (R240). Where several of A, B and C are NaN, the rules do not say whose payload
the result keeps: here the accumulator's, then that of the product of lowest k, A before B (log entry 32, DESIGN CHOICE). -/
def passGroups (da db : OpDesc) (a b : RowIn) (gs : Nat) : List Nat → Running → Running
  | [], r => r
  | g :: rest, r =>
    let as := (a.vals.drop (g * gs)).take gs
    let bs := (b.vals.drop (g * gs)).take gs
    let sum := (groupSum (List.zipWith fmul as bs)).scale (a.expAt da.blen (g * gs) + b.expAt db.blen (g * gs))
    let v := decodeFp .fp32 (roundTo .fp32 .rne false (fadd .rne r.acc sum) 0).code
    let first := if r.first.isNone && classOf v ≠ 0 && classOf v ≠ classOf r.acc then some (g * gs) else r.first
    let spilled := v.isInf && r.acc.isFin && as.all FVal.isFin && bs.all FVal.isFin
    passGroups da db a b gs rest ⟨v, first, r.spilled || spilled⟩

/-- The value of an INT8 element. -/
def intOf (v : FVal) : Int := fixedAt 0 v

/-- Element (i, n) of a pass from its accumulator word (R240). -/
def passElem (da db : OpDesc) (a b : RowIn) (c : Word) : ElemOut :=
  if pairAcc da db = some 8 then
    let s := (List.zipWith (fun x y => intOf x * intOf y) a.vals b.vals).foldl (· + ·) 0
    ⟨c + BitVec.ofInt 32 s, none, 0⟩
  else
    let gs := if da.blen = 16 || db.blen = 16 then 16 else 32
    let cv := decodeFp .fp32 c.toNat
    let r := passGroups da db a b gs (upTo (da.k / gs)) ⟨cv, none, false⟩
    let w := BitVec.ofNat 32 (roundTo .fp32 .rne false r.acc 0).code
    let cause :=
      if r.acc.isNaN && !a.nan && !b.nan && !cv.isNaN then some 4
      else if r.spilled then some 5
      else none
    ⟨w, cause, r.first.getD 0⟩

/-- The tag that dominates an element's contributors (R243). -/
def dominant (ts : List Tag) : Option Tag :=
  if ts.contains poison then some poison
  else
    match ts.find? fun t => 0x8000 ≤ t.toNat && t.toNat ≤ 0xFEFF with
    | some t => some t
    | none => ts.find? fun t => 0xFF00 ≤ t.toNat

/-- A capture record of the engine (R244, R272). -/
def engineRecord (l : Launch) (t : Team) (site : Tag) (pc : DWord) (r : CapRec) : CapRec :=
  { r with
    lane := 0xFF, split := 0xFF, group := 0, team := t.ordinal, launch := l.id, code := l.code, pc := pc, site := site
    flags := r.flags + 16 }

/-- An element of a pass: its place, its rows, its accumulator word with the tag of its granule, and what it comes to. -/
structure PassCell where
  i : Nat
  n : Nat
  a : RowIn
  b : RowIn
  c : Word
  tagC : Tag
  out : ElemOut
  deriving DecidableEq, Repr

/-- The tag that decides before any birth (R243). -/
def PassCell.dominant (x : PassCell) : Option Tag := Sys2Proof.Machine.dominant [x.tagC, x.a.tag, x.b.tag]

/-- Row i of a pass over CB as it stands before the pass (R240). -/
def passRow (t : Team) (i : Nat) (da db : OpDesc) (tc : DWord) (rowC : Nat) (a : RowIn) (bs : List RowIn) : List PassCell :=
  let off := tileRow tc (rowC + i)
  bs.zipIdx.map fun b =>
    let c := BitVec.ofNat 32 (numOf (storeBytes t .cb (off + 4 * b.2) 4))
    ⟨i, b.2, a, b.1, c, granTag t .cb ((off + 4 * b.2) / 64), passElem da db a b.1 c⟩

/-- The one capture of a pass for a cause: that of its birth at the lowest row, then the lowest column (R244). -/
def passCapture (l : Launch) (t : Team) (site : Tag) (pc : DWord) (cells : List PassCell) (k : Nat)
    (acc : List (Nat × Tag) × State) : List (Nat × Tag) × State :=
  if !causeOn l k || !hasRing acc.2 l.ctx then acc
  else
    match cells.find? fun x => x.out.cause = some k && x.dominant.isNone with
    | none => acc
    | some x =>
      let r := capture acc.2 l.ctx (engineRecord l t site pc
        { cause := k, result := x.out.word, opa := BitVec.ofNat 32 (x.a.codes.getD x.out.k0 0)
          opb := BitVec.ofNat 32 (x.b.codes.getD x.out.k0 0), opc := x.c, taga := x.a.tag, tagb := x.b.tag, tagc := x.tagC
          flags := 7, w0 := BitVec.ofNat 32 (x.i + x.n * 65536), w1 := BitVec.ofNat 32 x.out.k0 })
      (acc.1 ++ [(k, r.1)], sideEffect r.2 t.tid)

/-- The tag of an element (R243), under the pass's capture tags. -/
def passTag (site : Tag) (tr : Nat) (caps : List (Nat × Tag)) (x : PassCell) : Tag :=
  let plain := match tr with | 1 => x.a.tag | 2 => x.b.tag | 3 => x.tagC | _ => site
  x.dominant.getD (((x.out.cause.bind fun k => caps.find? fun q => q.1 = k).map fun q => q.2).getD plain)

/-- A pass over C: its captures in ascending cause (R36, R244), then every row written (R240, R243). -/
def passWrite (s : State) (l : Launch) (t : Team) (site : Tag) (pc : DWord) (tr : Nat) (tc : DWord) (rowC : Nat)
    (rows : List (List PassCell)) : State :=
  let r := [4, 5].foldl (fun acc k => passCapture l t site pc (rows.flatMap fun r => r) k acc) ([], s)
  let bytes := fun (row : List PassCell) =>
    row.flatMap fun x => (bytesOf 4 x.out.word.toNat).map fun b => (b, passTag site tr r.1 x)
  updTeam r.2 t.tid fun u =>
    rows.zipIdx.foldl (fun u row => putSpan u .cb (tileRow tc (rowC + row.2)) (bytes row.1)) u

/-- The status granule after a pass (R242). -/
def passStat (t : Team) (stat : Nat) (nz : Bool) (site : Tag) (rows : List RowIn) : Team :=
  let w := fun (k : Nat) => numOf (storeBytes t .cb (stat + 4 * k) 4)
  let total := fun (f : RowIn → Nat) => (rows.map f).foldl (· + ·) 0
  let first := (rows.find? fun r => r.nElem ≠ 0 || r.nBlock ≠ 0).map fun r => r.tag.toNat
  let fv := w 2 / 2 ^ 31 = 1
  let w2 := w 2 / 2 ^ 31 * 2 ^ 31 + w 2 % 65536
  let out :=
    if nz then
      [min 0xFFFFFFFF (w 0 + total fun r => r.nElem), min 0xFFFFFFFF (w 1 + total fun r => r.nBlock),
       (match first with | some g => if fv then w2 else 2 ^ 31 + g | none => w2), (w 3 + 1) % 2 ^ 32]
    else [w 0, w 1, w2, (w 3 + 1) % 2 ^ 32]
  putSpan t .cb stat ((out.flatMap (bytesOf 4) ++ List.replicate 48 0#8).map fun b => (b, site))

/-! ## Check regions (R429) -/

/-- The exact column sums of CB rows under an accumulator format. -/
def columnSums (t : Team) (isInt : Bool) (off pitch rows : Nat) : List FVal :=
  (upTo 256).map fun n =>
    let ws := (upTo rows).map fun i => numOf (storeBytes t .cb (off + i * pitch + 4 * n) 4)
    if isInt then ofInt ((ws.map fun w => signed 32 w).foldl (· + ·) 0)
    else groupSum (ws.map fun w => decodeFp .fp32 w)

/-- The column sums that a pass adds: the sum of its scaled A rows times B, exactly. -/
def regionAdds (da db : OpDesc) (as bs : List RowIn) : List FVal :=
  let scaled := fun (d : OpDesc) (r : RowIn) => r.vals.zipIdx.map fun v => v.1.scale (r.expAt d.blen v.2)
  let cols := as.map (scaled da)
  let sumA := (upTo da.k).map fun k => groupSum (cols.map fun r => r.getD k fzero)
  bs.map fun b => groupSum (List.zipWith fmul sumA (scaled db b))

/-- The region that a CB row range equals. -/
def regionAt (t : Team) (off pitch rows : Nat) : Option Region :=
  t.regions.find? fun r => r.off = off && r.pitch = pitch && r.rows = rows

/-- The regions of a SHADOW launch at a pass (R429), in the order in which they opened: t holds C as the pass found it. -/
def regionPass (t : Team) (isInt : Bool) (da db : OpDesc) (tc : DWord) (rowC m : Nat) (as bs : List RowIn) : Team :=
  let off := tileRow tc rowC
  let pitch := tilePitch tc * 64
  let old := (regionAt t off pitch m).map fun r => r.sums
  let h := old.getD (columnSums t isInt off pitch m)
  let fix := fun (v : FVal) =>
    if isInt then ofInt (signed 32 ((fixedAt 0 v) % 2 ^ 32).toNat)
    else decodeFp .fp32 (roundTo .fp32 .rne false v 0).code
  let new : Region := ⟨off, pitch, m, (List.zipWith (fadd .rne) h (regionAdds da db as bs)).map fix⟩
  let same := fun (r : Region) => r.off = off && r.pitch = pitch && r.rows = m
  if old.isSome then { t with regions := t.regions.map fun r => if same r then new else r }
  else if t.regions.length < 4 then { t with regions := t.regions ++ [new] }
  else { t with regions := t.regions.drop 1 ++ [new], unchecked := t.unchecked + 1 }

/-! ## Stream operations, their watchpoints and their faults -/

/-- The own tag of a stream word (R31, R243): its PC with the residue of the team's first group. -/
def streamTag (l : Launch) (t : Team) (pc : DWord) : Tag := siteTag l pc (groupOrdinal l t 0)

/-- CB rows that an operation touches, as a watchpoint sees them. -/
def cbFx (off n : Nat) (wr : Bool) : List Fx :=
  (upTo ((off + n - 1) / 1024 + 1 - off / 1024)).map fun j => .cb 64 (off / 1024 + j) wr

/-- The tags that an operation has given the granules of a span, as a watchpoint sees them. -/
def tagFx (t : Team) (k : Store) (off n : Nat) : List Fx := (spanTags t k off n).map fun g => .memTag 64 off g

/-- A span of CB that an operation has read and written. -/
def spanFx (t : Team) (x : Nat × Nat) : List Fx :=
  cbFx x.1 x.2 false ++ cbFx x.1 x.2 true ++ tagFx t .cb x.1 x.2

/-- A sequencer that waits for an entry or for its own operations looks again once an operation is over (R245). -/
def wakeEntries (s : State) (quad : Nat) : State :=
  { s with
    teams := updBy (fun t => quadOf t.core = quad && t.seqState = .parked && (t.seqPark = .entry || t.seqPark = .drain))
      (fun t => { t with seqState := .running, seqPark := .none }) s.teams }

/-- The oldest posted operation of a team is over: its entry is free (R248). -/
def endPosted (s : State) (tid : Nat) : State :=
  match findTeam s tid with
  | none => s
  | some t =>
    let s := repostAll (updTeam s tid fun t => { t with posted := t.posted.drop 1 }) (quadOf t.core)
    tryRetire (wakeEntries s (quadOf t.core)) tid

/-- A fault at the performance of the oldest posted operation (R247): it and every later one are discarded, the logical
planes return to what its posting left, a failed MLDW leaves SHADOW empty, and the sequencer is FAULTED there. -/
def performFault (s : State) (tid : Nat) (p : Posted) (c : Cause) : State :=
  match findTeam s tid with
  | none => s
  | some t =>
    let s := streamFault s tid p.pc p.word c
    let sh := match p.op with | .mldw _ => none | _ => p.shadow
    let s := updTeam s tid fun t => { t with posted := [], repost := [], seqPc := p.pc, shadow := sh, active := p.active }
    tryRetire (wakeEntries (repostAll s (quadOf t.core)) (quadOf t.core)) tid

/-- The oldest posted operation of team arg.a where the arbiter has granted it. -/
def grantedOp (s : State) : Option (Launch × Team × Posted) :=
  match findTeam s s.arg.a with
  | none => none
  | some t =>
    match findLaunch s t.launch, t.posted with
    | some l, p :: _ => if p.granted then some (l, t, p) else none
    | _, _ => none

/-! ## The arbiter (R249) -/

/-- Whether an operation runs on the drain unit (R275). -/
def isDrain (p : Posted) : Bool := match p.op with | .mdrain .. => true | _ => false
/-- Whether an operation is a pass. -/
def isPass (p : Posted) : Bool := match p.op with | .mma .. => true | _ => false

/-- The physical planes of a quad. -/
def planesOf (s : State) (quad : Nat) : Planes := mapGet {} s.dev.planes quad

/-- The rank of an entry in the arbiter's order, lower first (R249): aged entries by age, then class, plane affinity,
age. Ages are counted in steps of the model (log entry 9). -/
def grantRank (s : State) (quad : Nat) (l : Launch) (t : Team) (p : Posted) : Nat :=
  let cls := if l.rt then 0 else l.cls + 1
  let near : Bool := match p.op, (planesOf s quad).active with
    | .mma _ _ _ _ b _ _ _ _, some q => decide (q = (t.tid, b))
    | _, _ => false
  if p.age + 2048 ≤ s.clock then p.age
  else 2 ^ 64 * (1 + 2 * cls + (if near then 0 else 1)) + p.age

/-- The eligible entries of a quad for the array or for the drain unit, with their ranks. -/
def eligible (s : State) (quad : Nat) (drain : Bool) : List (Nat × Nat) :=
  s.teams.filterMap fun t =>
    match findLaunch s t.launch, t.posted with
    | some l, p :: _ =>
      if quadOf t.core = quad && !p.granted && isDrain p = drain && ctxLive s l.ctx && l.rollback.isNone && !t.stopping
      then some (t.tid, grantRank s quad l t p) else none
    | _, _ => none

/-- Whether the array, or the drain unit, can take a new operation: passes follow one another through the array, any
other operation has it alone (R250, R275). -/
def unitFree (s : State) (quad : Nat) (drain : Bool) : Bool :=
  !(s.teams.any fun t =>
    quadOf t.core = quad &&
    match t.posted with
    | p :: _ => p.granted && isDrain p = drain && !isPass p
    | [] => false)

/-- The physical planes as an operation takes them up (R232, R250). -/
def loadPlanes (q : Planes) (tid : Nat) (op : MatOp) : Planes :=
  match op with
  | .mldw b => { q with shadow := some (tid, b) }
  | .mma _ _ _ _ b _ _ _ _ =>
    if q.active = some (tid, b) then q
    else if q.shadow = some (tid, b) then { active := q.shadow, shadow := q.active }
    else { active := some (tid, b), shadow := q.active }
  | _ => q

/-- ARBITER_GRANT (R249): the oldest posted operation of team arg.a is granted where the arbiter chooses it. -/
def execArbiterGrant (s : State) : Host.Outcome State Fault Refusal :=
  .next <|
    match findTeam s s.arg.a with
    | none => s
    | some t =>
      match t.posted with
      | [] => s
      | p :: ps =>
        let quad := quadOf t.core
        let best := leastBy (fun x : Nat × Nat => x.2) (eligible s quad (isDrain p))
        if unitFree s quad (isDrain p) && best.map (fun x => x.1) = some t.tid then
          let s := updTeam s t.tid fun t => { t with posted := { p with granted := true } :: ps }
          updDev s fun d =>
            { d with planes := mapSet {} d.planes quad (loadPlanes (mapGet {} d.planes quad) t.tid p.op) }
        else s

/-! ## Completions -/

/-- MLDW_COMPLETION (R252): the 256 rows of team arg.a's oldest granted MLDW are read and their packets checked. -/
def execMldwCompletion (s : State) : Host.Outcome State Fault Refusal :=
  .next <|
    match grantedOp s with
    | some (_, t, p) =>
      (match p.op with
       | .mldw b =>
         let ok := match opDesc b.bd with
           | some d => (upTo 256).all (rowOk t .wb b.tile d)
           | none => false
         if ok then endPosted s t.tid else performFault s t.tid p packetCrc
       | _ => s)
    | none => s

/-- MSWAP_EXCHANGE (R253): the physical planes are exchanged. -/
def execMswapExchange (s : State) : Host.Outcome State Fault Refusal :=
  .next <|
    match grantedOp s with
    | some (_, t, p) =>
      (match p.op with
       | .mswap =>
         let quad := quadOf t.core
         let q := planesOf s quad
         let s := updDev s fun d => { d with planes := mapSet {} d.planes quad ⟨q.shadow, q.active⟩ }
         endPosted s t.tid
       | _ => s)
    | none => s

/-- A pass performed (R240 to R244): rows are checked, then every sum, tag and record is written, then the status
granule. -/
def performPass (s : State) (l : Launch) (t : Team) (p : Posted) (m : Nat) (ta tc : DWord) (f : List Byte)
    (act : Binding) (tr : Nat) (nz : Bool) (rowA rowC : Nat) : State :=
  match opDesc (fmtA f), opDesc act.bd with
  | some da, some db =>
    if !((upTo m).all fun i => rowOk t .ab ta da (rowA + i)) then performFault s t.tid p packetCrc
    else
      let site := streamTag l t p.pc
      let as := (upTo m).map fun i => operandRow t .ab ta da nz (rowA + i)
      let bs := (upTo 256).map fun n => operandRow t .wb act.tile db nz n
      let s := if l.shadow then
          updTeam s t.tid fun t => regionPass t (fmtCd f 0 = 8) da db tc rowC m as bs
        else s
      let s := passWrite s l t site p.pc tr tc rowC (as.zipIdx.map fun a => passRow t a.2 da db tc rowC a.1 bs)
      let stat := fmtStat f
      let s := if stat = 0xFFFFFFFF then s
        else updTeam s t.tid fun t => passStat t stat nz site (as ++ bs)
      let spans := ((upTo m).map fun i => (tileRow tc (rowC + i), 1024)) ++ if stat = 0xFFFFFFFF then [] else [(stat, 64)]
      let fx := spans.flatMap (spanFx ((findTeam s t.tid).getD t)) ++ s.fx
      endPosted (streamWatch { s with fx := [] } l t 0 p.pc fx) t.tid
  | _, _ => performFault s t.tid p matrixFormat

/-- An operation whose capture record met a translation fault waits for Keeper (R464) and is not yet over. -/
def orWait (s : State) (t : Team) (r : State) : State :=
  match r.devFail with
  | none => { r with fx := [] }
  | some f => deviceWaitFor (deviceWait s t.core f) t.core f (.stream t.tid)

/-- PASS_COMPLETION (R240) of team arg.a's granted pass. -/
def execPassCompletion (s : State) : Host.Outcome State Fault Refusal :=
  .next <|
    match grantedOp s with
    | some (l, t, p) =>
      (match p.op with
       | .mma m ta tc f act tr nz rowA rowC =>
         orWait s t (performPass (tidy s) l t p m ta tc f act tr nz rowA rowC)
       | _ => s)
    | none => s

/-- MZERO_COMPLETION (R255) of team arg.a's granted MZERO. -/
def execMzeroCompletion (s : State) : Host.Outcome State Fault Refusal :=
  .next <|
    match grantedOp s with
    | some (l, t, p) =>
      (match p.op with
       | .mzero v =>
         let n := tileRows v * tilePitch v * 64
         let u := zeroSpan t .cb (tileBase v) n (streamTag l t p.pc)
         let s1 := updTeam (tidy s) t.tid fun _ => u
         orWait s t (endPosted (streamWatch s1 l t 0 p.pc (cbFx (tileBase v) n true ++ tagFx u .cb (tileBase v) n)) t.tid)
       | _ => s)
    | none => s

/-! ## Stream faults (R247) -/

/-- The waits in which a split takes a stream fault at once. -/
def takesAtOnce (x : Split) : Bool :=
  x.st = .ready || x.st = .deferred || x.st = .waiting ||
  (x.st = .parked && [.bar, .batch, .monitor, .recheck, .lock].contains x.park)

/-- A split that leaves its wait for a trap: it is on no lock's FIFO and no monitor (R103, R107). -/
def leaveWait (s : State) (tid gi rank : Nat) : State :=
  let me := Waiter.split tid gi rank
  let s := updMem s fun m =>
    { m with locks := m.locks.map (fun q => { q with waiters := q.waiters.filter fun w => w ≠ me })
             monitors := m.monitors.filter fun q => q.waiter ≠ me
             rechecks := m.rechecks.filter fun q => q.waiter ≠ me }
  updSplit s tid gi rank fun x => if x.st = .parked then unpark x else if x.st = .waiting then { x with st := .ready } else x

/-- A stream fault as a context fault (R247, R410). -/
def streamK (s : State) (l : Launch) (t : Team) (f : Trap) : State :=
  raiseCtx s l.ctx
    { cause := f.cause, trap := { f with pc := pair64 f.info1 f.info0 }, launch := l.id, team := some t.ordinal
      stream := true, noEntry := l.hdr.trap.isNone }

/-- STREAM_FAULT_DELIVERY (R247) for team arg.a: the lowest live group's split of lowest id takes the fault at its next
issue, or at once where it waits. -/
def execStreamFaultDelivery (s : State) : Host.Outcome State Fault Refusal :=
  .next <|
    match findTeam s s.arg.a with
    | none => s
    | some t =>
      match t.seqFault, findLaunch s t.launch with
      | some f, some l =>
        let done := fun (s : State) => updTeam s t.tid fun t => { t with seqFault := none }
        (match leastBy (fun g : Group => g.gi) (liveGroups s t.tid) with
         | none => tryRetire (streamK (done s) l t f) t.tid
         | some g =>
           match leastBy (fun x : Split => x.id.toNat) (splitsOf s t.tid g.gi) with
           | none => tryRetire (streamK (done s) l t f) t.tid
           | some x =>
             if l.hdr.trap.isNone then streamK (done s) l t f
             else if !takesAtOnce x then s
             else
               let s := leaveWait (done s) x.tid x.gi x.rank
               match exAt s x.tid x.gi x.rank with
               | none => s
               | some e =>
                 let r := deliverTrap (tidy s) e { f with pc := e.x.pc, mask := e.x.amask }
                 (match r.devFail with
                  | some d => waitDevice s e none d
                  | none => tidy r))
      | _, _ => s

end Sys2Proof.Machine
end

