-- ==== Sys2Proof/Machine/Drain.lean ====
section
/-! DEFINITION. What a drain does when it is performed (R266 to R274): unpacked narrowing, packets, draws of the CB row
generators, tags, the MSAT record, zeroing, the team's counters, and the check of a SHADOW launch's region (R429). -/

namespace Sys2Proof.Machine

def shadowDivergence : Cause := 0xB2#8

/-! ## Draws (R269) -/

/-- The number of a source row's generator: the floor of its offset ÷ 1,024. -/
def rowGen (tc : DWord) (row : Nat) : Nat := tileRow tc row / 1024

/-- n draws of a generator, in order. -/
def drawsOf : Nat → Word → List Word
  | 0, _ => []
  | n + 1, x => diceStep x :: drawsOf n (diceStep x)

/-- The 256 draws of a source row and the team with that row's generator advanced; without SR there is no draw. -/
def rowDraws (t : Team) (sr : Bool) (tc : DWord) (row : Nat) : List Nat × Team :=
  if sr then
    let ds := drawsOf 256 (mapGet 0#32 t.cbDice (rowGen tc row))
    (ds.map fun d => d.toNat, { t with cbDice := mapSet 0#32 t.cbDice (rowGen tc row) (ds.getLastD 0#32) })
  else (List.replicate 256 0, t)

/-! ## What is drained -/

/-- A source element: its word, its granule's tag, its source row within the tile, its column and its draw. -/
structure Src where
  word : Nat
  tag : Tag
  row : Nat
  col : Nat
  draw : Nat
  deriving DecidableEq, Repr

/-- The elements of a source row (R266). -/
def srcRow (t : Team) (tc : DWord) (row : Nat) (draws : List Nat) : List Src :=
  (upTo 256).map fun n =>
    let off := tileRow tc row + 4 * n
    ⟨numOf (storeBytes t .cb off 4), granTag t .cb (off / 64), row, n, draws.getD n 0⟩

/-- What a drain has done so far: the capture tag of its one MSAT record, its counts, and the state. -/
structure DrainAcc where
  cap : Option Tag := none
  zeros : Nat := 0
  spills : Nat := 0
  saturs : Nat := 0
  st : State
  deriving DecidableEq, Repr

/-- The capture of an MSAT birth (R272): one record per drain; none where R36 gives none. -/
def drainBirth (l : Launch) (t : Team) (site : Tag) (pc : DWord) (srcs : List Tag) (x : Src) (result : Nat)
    (d : DrainAcc) : Option Tag × DrainAcc :=
  if srcs.any (fun g => g.getLsbD 15) || !causeOn l 6 || !hasRing d.st l.ctx then (none, d)
  else
    match d.cap with
    | some c => (some c, d)
    | none =>
      let r := capture d.st l.ctx (engineRecord l t site pc
        { cause := 6, result := BitVec.ofNat 32 result, opa := BitVec.ofNat 32 x.word, taga := x.tag, flags := 1
          w0 := BitVec.ofNat 32 (x.row % 65536 + x.col * 65536), w1 := BitVec.ofNat 32 x.word })
      (some r.1, { d with cap := some r.1, st := sideEffect r.2 t.tid })

/-- The tag Produce gives with a capture for its birth (R38, R271). -/
def drainTag (site : Tag) (srcs : List Tag) (born : Option Tag) : Tag :=
  match produce srcs site born.isSome with
  | .tag g => g
  | .birth => born.getD site

/-- The format of an unpacked narrowing and the bytes of its element (R265). -/
def narrowFmt (dfmt : Nat) : Fmt × Nat :=
  match dfmt with
  | 1 => (.bf16, 2) | 2 => (.fp16, 2) | 3 => (.e4m3, 1) | _ => (.e5m2, 1)

/-- One element narrowed (R267, R270). -/
def narrowElem (l : Launch) (t : Team) (site : Tag) (pc : DWord) (dfmt : Nat) (rnd : Rnd) (d : DrainAcc) (x : Src) :
    List (Byte × Tag) × DrainAcc :=
  let f := narrowFmt dfmt
  let v := decodeFp .fp32 x.word
  let r := roundTo f.1 rnd true v x.draw
  let b := if r.satur && v.isFin then drainBirth l t site pc [x.tag] x r.code d else (none, d)
  let g := drainTag site [x.tag] b.1
  ((bytesOf f.2 r.code).map fun y => (y, g), { b.2 with saturs := b.2.saturs + if r.satur then 1 else 0 })

/-- The element format of a packet output (R265). -/
def packetFmt (dfmt : Nat) : BFmt :=
  match dfmt with
  | 0x15 => .e2m1 | 0x13 => .e4m3 | 0x14 => .e5m2 | _ => .int8

/-- The element that gave a saturated block its amax: the lowest column of that magnitude (R272). -/
def amaxElem (xs : List Src) (block : Nat) (amax : FVal) : Src :=
  let blk := (xs.drop (32 * block)).take 32
  (blk.find? fun x =>
    let v := decodeFp .fp32 x.word
    v.isFin && fcmp (v.setSign false) amax = .eq).getD (blk.headD ⟨0, 0#16, 0, 0, 0⟩)

/-- One packet formed (R268, R271). -/
def drainPacket (l : Launch) (t : Team) (site : Tag) (pc : DWord) (dfmt : Nat) (rnd : Rnd) (docap : Nat)
    (srcs : List Tag) (xs : List Src) (d : DrainAcc) : List (Byte × Tag) × DrainAcc :=
  let form := fun (g : Tag) =>
    formPacket (packetFmt dfmt) rnd (docap ≠ 0) docap (xs.map fun x => (decodeFp .fp32 x.word, x.draw)) g
  let p := form 0#16
  let b := match p.saturs with
    | [] => (none, d)
    | (k, amax) :: _ => drainBirth l t site pc srcs (amaxElem xs k amax) 0xFE d
  let g := drainTag site srcs b.1
  ((form g).bytes.map fun y => (y, g),
    { b.2 with zeros := b.2.zeros + p.zeros, spills := b.2.spills + p.spills
               saturs := b.2.saturs + p.saturs.length })

/-- Destination row q of a drain (R266): its source rows are read and, with Z, zeroed (R274). -/
def drainRowOut (l : Launch) (t0 : Team) (site : Tag) (pc : DWord) (f : List Byte) (per : Nat) (z : Bool)
    (td tc : DWord) (rowC rowD q : Nat) (d : DrainAcc) : DrainAcc :=
  match findTeam d.st t0.tid with
  | none => d
  | some t =>
    let dfmt := fmtCd f 1
    let rnd := rndOf (fmtCd f 2) .rne
    let rows := (upTo per).map fun k => rowC + q * per + k
    let r := rows.foldl (fun (acc : List Src × List Tag × Team) (row : Nat) =>
      let ds := rowDraws acc.2.2 (fmtCd f 2 = 5) tc row
      (acc.1 ++ srcRow t tc row ds.1, acc.2.1 ++ spanTags t .cb (tileRow tc row) 1024, ds.2)) ([], [], t)
    let d := { d with st := updTeam d.st t.tid fun _ => r.2.2 }
    let o :=
      if dfmt = 0x07 then (r.1.flatMap fun x => (bytesOf 4 x.word).map fun b => (b, x.tag), d)
      else if dfmt < 0x07 then
        r.1.foldl (fun (acc : List (Byte × Tag) × DrainAcc) (x : Src) =>
          let y := narrowElem l t site pc dfmt rnd acc.2 x
          (acc.1 ++ y.1, y.2)) ([], d)
      else drainPacket l t site pc dfmt rnd (fmtCd f 3) r.2.1 r.1 d
    let put := fun (u : Team) =>
      let u := putSpan u .ab (tileRow td (rowD + q)) o.1
      if z then rows.foldl (fun u row => zeroSpan u .cb (tileRow tc row) 1024 site) u else u
    { o.2 with st := updTeam o.2.st t.tid put }

/-! ## The check of a region (R429) -/

/-- Whether a column's checksum holds: equal modulo 2^32 under I32; under FP32 within the bound. What R429 does not
state, a column with a sum that is not finite, is a free value. -/
def columnHolds (isInt : Bool) (free : Bool) (sum h absSum : FVal) : Bool :=
  if isInt then (fixedAt 0 sum - fixedAt 0 h) % 2 ^ 32 = 0
  else if !sum.isFin || !h.isFin || !absSum.isFin then free
  else
    let diff := (fadd .rne sum h.neg).setSign false
    let bound := fadd .rne ((fadd .rne absSum (h.setSign false)).scale (-12)) (.fin false 1 (-126) false)
    fcmp diff bound ≠ .gt

/-- The check of a drain's source rows, and the team after it: the region is closed, or the drain counted. -/
def regionDrain (s : State) (t : Team) (isInt : Bool) (tc : DWord) (rowC rows : Nat) : Bool × State :=
  let off := tileRow tc rowC
  let pitch := tilePitch tc * 64
  match regionAt t off pitch rows with
  | none => (true, updTeam s t.tid fun t => { t with unchecked := t.unchecked + 1 })
  | some r =>
    let sums := columnSums t isInt off pitch rows
    let abs := (upTo 256).map fun n =>
      groupSum ((upTo rows).map fun i => (decodeFp .fp32 (numOf (storeBytes t .cb (off + i * pitch + 4 * n) 4))).setSign false)
    let ok := (upTo 256).all fun n =>
      columnHolds isInt ((Config.freeValue (s.fresh + n)).getLsbD 0) (sums.getD n fzero) (r.sums.getD n fzero)
        (abs.getD n fzero)
    let s := updTeam s t.tid fun t =>
      { t with regions := t.regions.filter fun q => !(q.off = off && q.pitch = pitch && q.rows = rows) }
    (ok, { s with fresh := s.fresh + 256 })

/-- SHADOW_DIVERGENCE of a stream operation: it and the later ones are discarded, so that nothing of the drain is released
(R429); a rollback in a replayable node, else a context fault, follows (R422, R410). -/
def streamDiverge (s : State) (l : Launch) (t : Team) (p : Posted) : State :=
  let s := updTeam s t.tid fun t =>
    { t with posted := [], repost := [], seqState := .faulted, seqPark := .none, seqPc := p.pc }
  let s := wakeEntries (repostAll s (quadOf t.core)) (quadOf t.core)
  if l.node && l.replayable then
    updLaunch s l.id fun l => { l with rollback := some (l.rollback.getD { cause := shadowDivergence, pc := p.pc }) }
  else
    raiseCtx s l.ctx
      { cause := shadowDivergence, trap := { cause := shadowDivergence, pc := p.pc }, launch := l.id
        team := some t.ordinal, stream := true }

/-- A drain performed (R266 to R274, R429). -/
def performDrain (s : State) (l : Launch) (t : Team) (p : Posted) (rows : Nat) (td tc : DWord) (f : List Byte) (z : Bool)
    (rowC rowD : Nat) : State :=
  let site := streamTag l t p.pc
  let per := ((drainRow f).map fun r => r.per).getD 1
  let chk := if l.shadow then regionDrain s t (fmtCd f 0 = 8) tc rowC rows else (true, s)
  if !chk.1 then streamDiverge chk.2 l t p
  else
    let d := (upTo (rows / per)).foldl (fun d q => drainRowOut l t site p.pc f per z td tc rowC rowD q d)
      ({ st := chk.2 } : DrainAcc)
    let sat := fun (a b : Nat) => min 0xFFFFFFFF (a + b)
    let s := updTeam d.st t.tid fun t =>
      { t with
        zeroBlocks := sat t.zeroBlocks d.zeros, spills := sat t.spills d.spills, satBlocks := sat t.satBlocks d.saturs }
    let bytes := ((drainRow f).map fun r => r.bytes).getD 0
    let u := (findTeam s t.tid).getD t
    let ab := (upTo (rows / per)).flatMap fun q =>
      let off := tileRow td (rowD + q)
      Fx.ab 64 off bytes true :: tagFx u .ab off bytes
    let cb := (upTo rows).flatMap fun i =>
      let off := tileRow tc (rowC + i)
      if z then spanFx u (off, 1024) else cbFx off 1024 false
    endPosted (streamWatch { s with fx := [] } l t 0 p.pc (ab ++ cb ++ s.fx)) t.tid

/-- DRAIN_COMPLETION (R273) of team arg.a's granted drain. -/
def execDrainCompletion (s : State) : Host.Outcome State Fault Refusal :=
  .next <|
    match grantedOp s with
    | some (l, t, p) =>
      (match p.op with
       | .mdrain rows td tc f z rowC rowD => orWait s t (performDrain (tidy s) l t p rows td tc f z rowC rowD)
       | _ => s)
    | none => s

end Sys2Proof.Machine
end

