-- ==== Sys2Proof/Machine/Integer.lean ====
section
/-! DEFINITION. The integer family of R176 to R186: scalar and vector operations, immediates, wide adds, compares,
selects and conversions, and the mask words of R187 and R188. -/

namespace Sys2Proof.Machine

/-! ## Operations on words (R177) -/

def noEvents : Events := {}

/-- A shift count as R177 reads it. -/
def shl32 (a b : Word) : Word := if b.toNat ≥ 32 then 0#32 else a <<< b.toNat
def shr32 (a b : Word) : Word := if b.toNat ≥ 32 then 0#32 else a >>> b.toNat
def sra32 (a b : Word) : Word := a.sshiftRight (min b.toNat 31)

/-- The high word of a signed and of an unsigned product (R177). -/
def mulhi32 (a b : Word) : Word := BitVec.ofInt 32 (a.toInt * b.toInt / 2 ^ 32)
def mulhu32 (a b : Word) : Word := BitVec.ofNat 32 (a.toNat * b.toNat / 2 ^ 32)

def smin32 (a b : Word) : Word := if a.toInt ≤ b.toInt then a else b
def smax32 (a b : Word) : Word := if a.toInt ≤ b.toInt then b else a
def umin32 (a b : Word) : Word := if a.toNat ≤ b.toNat then a else b
def umax32 (a b : Word) : Word := if a.toNat ≤ b.toNat then b else a
def absd32 (a b : Word) : Word := BitVec.ofNat 32 (a.toInt - b.toInt).natAbs

/-- An integer clamped to I32, with the saturation event (R177, R178). -/
def sat32 (z : Int) : Word × Events :=
  if z > 2147483647 then (0x7FFFFFFF#32, { isat := true })
  else if z < -2147483648 then (0x80000000#32, { isat := true })
  else (BitVec.ofInt 32 z, {})

def popc32 (a : Word) : Word := BitVec.ofNat 32 ((upTo 32).filter fun i => a.getLsbD i).length
def ffs32 (a : Word) : Word := BitVec.ofNat 32 ((firstIdx 32 fun i => a.getLsbD i).getD 32)
def clz32 (a : Word) : Word := BitVec.ofNat 32 ((firstIdx 32 fun i => a.getLsbD (31 - i)).getD 32)
def brev32 (a : Word) : Word := a.reverse

/-- The field of BFE and BFI (R179): position and length. -/
def bfField (b : Word) : Nat × Nat :=
  let pos := bits b.toNat 4 0
  (pos, min (min (bits b.toNat 13 8) 32) (32 - pos))

/-- Field extract (R179). -/
def bfe32 (a b : Word) : Word :=
  let (pos, len) := bfField b
  let v := a.toNat / 2 ^ pos % 2 ^ len
  if len = 0 then 0#32
  else if bits b.toNat 16 16 = 1 then BitVec.ofInt 32 (signed len v) else BitVec.ofNat 32 v

/-- Field insert (R179). -/
def bfi32 (a b d : Word) : Word :=
  let (pos, len) := bfField b
  let m : Word := BitVec.ofNat 32 ((2 ^ len - 1) * 2 ^ pos)
  (d &&& ~~~m) ||| ((a <<< pos) &&& m)

/-- Unsigned quotient and remainder (R177), with the divide-by-zero event (R178). -/
def divu32 (a b : Word) : Word × Events :=
  if b = 0#32 then (0xFFFFFFFF#32, { dz := true }) else (BitVec.ofNat 32 (a.toNat / b.toNat), {})
def remu32 (a b : Word) : Word × Events :=
  if b = 0#32 then (a, { dz := true }) else (BitVec.ofNat 32 (a.toNat % b.toNat), {})

/-- Byte permute (R180). -/
def prmt32 (a b d : Word) : Word :=
  let src := bytesOf 4 a.toNat ++ bytesOf 4 d.toNat
  let pick := fun (k : Nat) =>
    let n := bits b.toNat (4 * k + 3) (4 * k)
    let x := src.getD (n % 8) 0#8
    if n ≥ 8 then (if x.getLsbD 7 then 0xFF#8 else 0#8) else x
  BitVec.ofNat 32 (numOf ((upTo 4).map pick))

/-! ## The bodies (R178) -/

/-- A scalar operation (R178): one result per split; events go to every active lane. -/
def scalarBody (d a b : BitVec 8) (two : Bool) (f : Word → Word → Word × Events) (e : Ex) (s : State) : State :=
  let x := operand e .int a.toNat 0 0#32
  let y := operand e .int b.toNat 0 0#32
  let r := f x.1 y.1
  let tb := if two then y.2 else 0#16
  let t := ruleTag (ruleOf e) .produce (own e) (if two then [x.2, y.2] else [x.2]) x.2 tb (sreg e.g (d.toNat - 0xC0)).2
  recordAll (putS s e [(d.toNat - 0xC0, (r.1, t))]) e e.lanes (evWord r.2)

/-- One lane of a vector operation (R178); n is the number of sources, and useD says that the old d is the third. -/
def vecLane (d a b : BitVec 8) (n : Nat) (useD : Bool) (f : Word → Word → Word → Word × Events) (e : Ex) (i : Nat) :
    LaneOut :=
  let p := lanePair e .int .int a.toNat (if n = 2 then b.toNat else 0xF0) i
  let c := vreg e.g d.toNat i
  let r := f p.1.1 p.2.1.1 c.1
  { lane := i, lo := r.1, result := r.1, a := some p.1, b := if n = 2 then some p.2.1 else none
    c := if useD then some c else none, old := c.2, ev := r.2, dice := drawn e i p.2.2 }

/-- A vector operation over the active lanes (R174, R178). -/
def vecBody (d a b : BitVec 8) (n : Nat) (useD : Bool) (cls : TagClass) (f : Word → Word → Word → Word × Events)
    (e : Ex) (s : State) : State :=
  commitLanes s e d.toNat cls false (e.lanes.map (vecLane d a b n useD f e))

/-! ## Scalar operations -/

/-- SADD: a + b (R177). -/
def execSadd (d a b : BitVec 8) (s : State) : Host.Outcome State Fault Refusal :=
  plainWord (.sadd d a b) (scalarBody d a b true fun x y => (x + y, noEvents)) s

/-- SSUB: a − b (R177). -/
def execSsub (d a b : BitVec 8) (s : State) : Host.Outcome State Fault Refusal :=
  plainWord (.ssub d a b) (scalarBody d a b true fun x y => (x - y, noEvents)) s

/-- SMUL: the low word of a × b (R177). -/
def execSmul (d a b : BitVec 8) (s : State) : Host.Outcome State Fault Refusal :=
  plainWord (.smul d a b) (scalarBody d a b true fun x y => (x * y, noEvents)) s

/-- SMULHU: the high word of N32(a) × N32(b) (R177). -/
def execSmulhu (d a b : BitVec 8) (s : State) : Host.Outcome State Fault Refusal :=
  plainWord (.smulhu d a b) (scalarBody d a b true fun x y => (mulhu32 x y, noEvents)) s

/-- SAND (R177). -/
def execSand (d a b : BitVec 8) (s : State) : Host.Outcome State Fault Refusal :=
  plainWord (.sand d a b) (scalarBody d a b true fun x y => (x &&& y, noEvents)) s

/-- SOR (R177). -/
def execSor (d a b : BitVec 8) (s : State) : Host.Outcome State Fault Refusal :=
  plainWord (.sor d a b) (scalarBody d a b true fun x y => (x ||| y, noEvents)) s

/-- SXOR (R177). -/
def execSxor (d a b : BitVec 8) (s : State) : Host.Outcome State Fault Refusal :=
  plainWord (.sxor d a b) (scalarBody d a b true fun x y => (x ^^^ y, noEvents)) s

/-- SSHL: 0 for a count of 32 or more (R177). -/
def execSshl (d a b : BitVec 8) (s : State) : Host.Outcome State Fault Refusal :=
  plainWord (.sshl d a b) (scalarBody d a b true fun x y => (shl32 x y, noEvents)) s

/-- SSHR: logical; 0 for a count of 32 or more (R177). -/
def execSshr (d a b : BitVec 8) (s : State) : Host.Outcome State Fault Refusal :=
  plainWord (.sshr d a b) (scalarBody d a b true fun x y => (shr32 x y, noEvents)) s

/-- SSRA: arithmetic; the sign for a count of 32 or more (R177). -/
def execSsra (d a b : BitVec 8) (s : State) : Host.Outcome State Fault Refusal :=
  plainWord (.ssra d a b) (scalarBody d a b true fun x y => (sra32 x y, noEvents)) s

/-- SMIN: signed minimum (R177). -/
def execSmin (d a b : BitVec 8) (s : State) : Host.Outcome State Fault Refusal :=
  plainWord (.smin d a b) (scalarBody d a b true fun x y => (smin32 x y, noEvents)) s

/-- SMAX: signed maximum (R177). -/
def execSmax (d a b : BitVec 8) (s : State) : Host.Outcome State Fault Refusal :=
  plainWord (.smax d a b) (scalarBody d a b true fun x y => (smax32 x y, noEvents)) s

/-- SMINU: unsigned minimum (R177). -/
def execSminu (d a b : BitVec 8) (s : State) : Host.Outcome State Fault Refusal :=
  plainWord (.sminu d a b) (scalarBody d a b true fun x y => (umin32 x y, noEvents)) s

/-- SMAXU: unsigned maximum (R177). -/
def execSmaxu (d a b : BitVec 8) (s : State) : Host.Outcome State Fault Refusal :=
  plainWord (.smaxu d a b) (scalarBody d a b true fun x y => (umax32 x y, noEvents)) s

/-- SPOPC: the number of 1 bits of a (R177). -/
def execSpopc (d a : BitVec 8) (s : State) : Host.Outcome State Fault Refusal :=
  plainWord (.spopc d a) (scalarBody d a 0#8 false fun x _ => (popc32 x, noEvents)) s

/-- SFFS: the index of the lowest 1 bit of a, or 32 (R177). -/
def execSffs (d a : BitVec 8) (s : State) : Host.Outcome State Fault Refusal :=
  plainWord (.sffs d a) (scalarBody d a 0#8 false fun x _ => (ffs32 x, noEvents)) s

/-- SBFE: field extract (R179). -/
def execSbfe (d a b : BitVec 8) (s : State) : Host.Outcome State Fault Refusal :=
  plainWord (.sbfe d a b) (scalarBody d a b true fun x y => (bfe32 x y, noEvents)) s

/-- SDIVU: 0xFFFF_FFFF when b = 0, with a divide-by-zero event (R177, R178). -/
def execSdivu (d a b : BitVec 8) (s : State) : Host.Outcome State Fault Refusal :=
  plainWord (.sdivu d a b) (scalarBody d a b true fun x y => divu32 x y) s

/-- SREMU: a when b = 0, with a divide-by-zero event (R177, R178). -/
def execSremu (d a b : BitVec 8) (s : State) : Host.Outcome State Fault Refusal :=
  plainWord (.sremu d a b) (scalarBody d a b true fun x y => remu32 x y) s

/-! ## Vector operations -/

/-- VADD: a + b (R177). -/
def execVadd (d a b : BitVec 8) (s : State) : Host.Outcome State Fault Refusal :=
  plainWord (.vadd d a b) (vecBody d a b 2 false .produce fun x y _ => (x + y, noEvents)) s

/-- VSUB: a − b (R177). -/
def execVsub (d a b : BitVec 8) (s : State) : Host.Outcome State Fault Refusal :=
  plainWord (.vsub d a b) (vecBody d a b 2 false .produce fun x y _ => (x - y, noEvents)) s

/-- VMUL: the low word of a × b (R177). -/
def execVmul (d a b : BitVec 8) (s : State) : Host.Outcome State Fault Refusal :=
  plainWord (.vmul d a b) (vecBody d a b 2 false .produce fun x y _ => (x * y, noEvents)) s

/-- VMULHI: the high word of I32(a) × I32(b) (R177). -/
def execVmulhi (d a b : BitVec 8) (s : State) : Host.Outcome State Fault Refusal :=
  plainWord (.vmulhi d a b) (vecBody d a b 2 false .produce fun x y _ => (mulhi32 x y, noEvents)) s

/-- VMULHU: the high word of N32(a) × N32(b) (R177). -/
def execVmulhu (d a b : BitVec 8) (s : State) : Host.Outcome State Fault Refusal :=
  plainWord (.vmulhu d a b) (vecBody d a b 2 false .produce fun x y _ => (mulhu32 x y, noEvents)) s

/-- VMAD: the low word of a × b + d (R177). -/
def execVmad (d a b : BitVec 8) (s : State) : Host.Outcome State Fault Refusal :=
  plainWord (.vmad d a b) (vecBody d a b 2 true .produce fun x y c => (x * y + c, noEvents)) s

/-- VAND (R177). -/
def execVand (d a b : BitVec 8) (s : State) : Host.Outcome State Fault Refusal :=
  plainWord (.vand d a b) (vecBody d a b 2 false .produce fun x y _ => (x &&& y, noEvents)) s

/-- VOR (R177). -/
def execVor (d a b : BitVec 8) (s : State) : Host.Outcome State Fault Refusal :=
  plainWord (.vor d a b) (vecBody d a b 2 false .produce fun x y _ => (x ||| y, noEvents)) s

/-- VXOR (R177). -/
def execVxor (d a b : BitVec 8) (s : State) : Host.Outcome State Fault Refusal :=
  plainWord (.vxor d a b) (vecBody d a b 2 false .produce fun x y _ => (x ^^^ y, noEvents)) s

/-- VSHL: 0 for a count of 32 or more (R177). -/
def execVshl (d a b : BitVec 8) (s : State) : Host.Outcome State Fault Refusal :=
  plainWord (.vshl d a b) (vecBody d a b 2 false .produce fun x y _ => (shl32 x y, noEvents)) s

/-- VSHR: logical; 0 for a count of 32 or more (R177). -/
def execVshr (d a b : BitVec 8) (s : State) : Host.Outcome State Fault Refusal :=
  plainWord (.vshr d a b) (vecBody d a b 2 false .produce fun x y _ => (shr32 x y, noEvents)) s

/-- VSRA: arithmetic; the sign for a count of 32 or more (R177). -/
def execVsra (d a b : BitVec 8) (s : State) : Host.Outcome State Fault Refusal :=
  plainWord (.vsra d a b) (vecBody d a b 2 false .produce fun x y _ => (sra32 x y, noEvents)) s

/-- VMIN: signed minimum (R177). -/
def execVmin (d a b : BitVec 8) (s : State) : Host.Outcome State Fault Refusal :=
  plainWord (.vmin d a b) (vecBody d a b 2 false .produce fun x y _ => (smin32 x y, noEvents)) s

/-- VMAX: signed maximum (R177). -/
def execVmax (d a b : BitVec 8) (s : State) : Host.Outcome State Fault Refusal :=
  plainWord (.vmax d a b) (vecBody d a b 2 false .produce fun x y _ => (smax32 x y, noEvents)) s

/-- VMINU: unsigned minimum (R177). -/
def execVminu (d a b : BitVec 8) (s : State) : Host.Outcome State Fault Refusal :=
  plainWord (.vminu d a b) (vecBody d a b 2 false .produce fun x y _ => (umin32 x y, noEvents)) s

/-- VMAXU: unsigned maximum (R177). -/
def execVmaxu (d a b : BitVec 8) (s : State) : Host.Outcome State Fault Refusal :=
  plainWord (.vmaxu d a b) (vecBody d a b 2 false .produce fun x y _ => (umax32 x y, noEvents)) s

/-- VABSD: the exact distance of I32(a) and I32(b), as N32 (R177). -/
def execVabsd (d a b : BitVec 8) (s : State) : Host.Outcome State Fault Refusal :=
  plainWord (.vabsd d a b) (vecBody d a b 2 false .produce fun x y _ => (absd32 x y, noEvents)) s

/-- VADDS: saturated to I32, with its event (R177, R178). -/
def execVadds (d a b : BitVec 8) (s : State) : Host.Outcome State Fault Refusal :=
  plainWord (.vadds d a b) (vecBody d a b 2 false .produce fun x y _ => sat32 (x.toInt + y.toInt)) s

/-- VSUBS: saturated to I32, with its event (R177, R178). -/
def execVsubs (d a b : BitVec 8) (s : State) : Host.Outcome State Fault Refusal :=
  plainWord (.vsubs d a b) (vecBody d a b 2 false .produce fun x y _ => sat32 (x.toInt - y.toInt)) s

/-- VPOPC: the number of 1 bits of a (R177). -/
def execVpopc (d a : BitVec 8) (s : State) : Host.Outcome State Fault Refusal :=
  plainWord (.vpopc d a) (vecBody d a 0#8 1 false .produce fun x _ _ => (popc32 x, noEvents)) s

/-- VCLZ: the leading zeros of a (R177). -/
def execVclz (d a : BitVec 8) (s : State) : Host.Outcome State Fault Refusal :=
  plainWord (.vclz d a) (vecBody d a 0#8 1 false .produce fun x _ _ => (clz32 x, noEvents)) s

/-- VBREV: bit j moved to bit 31 − j (R177). -/
def execVbrev (d a : BitVec 8) (s : State) : Host.Outcome State Fault Refusal :=
  plainWord (.vbrev d a) (vecBody d a 0#8 1 false .produce fun x _ _ => (brev32 x, noEvents)) s

/-- VBFE: field extract (R179). -/
def execVbfe (d a b : BitVec 8) (s : State) : Host.Outcome State Fault Refusal :=
  plainWord (.vbfe d a b) (vecBody d a b 2 false .produce fun x y _ => (bfe32 x y, noEvents)) s

/-- VBFI: field insert into d (R179). -/
def execVbfi (d a b : BitVec 8) (s : State) : Host.Outcome State Fault Refusal :=
  plainWord (.vbfi d a b) (vecBody d a b 2 true .produce fun x y c => (bfi32 x y c, noEvents)) s

/-- VMOV: a, whose tag it carries (R177, R178). -/
def execVmov (d a : BitVec 8) (s : State) : Host.Outcome State Fault Refusal :=
  plainWord (.vmov d a) (vecBody d a 0#8 1 false .carryA fun x _ _ => (x, noEvents)) s

/-- VPRMT: byte permute over a and the old d (R180). -/
def execVprmt (d a b : BitVec 8) (s : State) : Host.Outcome State Fault Refusal :=
  plainWord (.vprmt d a b) (vecBody d a b 2 true .produce fun x y c => (prmt32 x y c, noEvents)) s

/-! ## Immediates and wide adds (R181, R182) -/

/-- The immediate of an F-W word (R61, R181): with IMM the 32-bit imm24[15:0] : imm16, else imm16 sign-extended. -/
def immW (imm : Word) (i : BitVec 16) : Word :=
  if imm = 0#32 then i.signExtend 32 else imm.extractLsb' 0 16 ++ i

/-- A word with its high half replaced. -/
def withHigh (w : Word) (i : BitVec 16) : Word := i ++ w.extractLsb' 0 16

/-- A scalar F-W word: f of the old value; useD says that the old d is a source. -/
def scalarImm (d : BitVec 8) (useD : Bool) (f : Word → Word) (e : Ex) (s : State) : State :=
  let old := sreg e.g (d.toNat - 0xC0)
  let t := ruleTag (ruleOf e) .produce (own e) (if useD then [old.2] else []) 0#16 0#16 old.2
  putS s e [(d.toNat - 0xC0, (f old.1, t))]

/-- A vector F-W word: f of the lane's old value. -/
def vecImm (d : BitVec 8) (useD : Bool) (f : Word → Word) (e : Ex) (s : State) : State :=
  commitLanes s e d.toNat .produce false (e.lanes.map fun i =>
    let old := vreg e.g d.toNat i
    { lane := i, lo := f old.1, result := f old.1, c := if useD then some old else none, old := old.2 })

/-- SMOVI: the immediate (R181). -/
def execSmovi (d : BitVec 8) (i : BitVec 16) (s : State) : Host.Outcome State Fault Refusal :=
  plainWord (.smovi d i) (fun e s => scalarImm d false (fun _ => immW e.x.imm i) e s) s

/-- SMOVHI: bits 31 to 16 replaced (R181). -/
def execSmovhi (d : BitVec 8) (i : BitVec 16) (s : State) : Host.Outcome State Fault Refusal :=
  plainWord (.smovhi d i) (scalarImm d true fun w => withHigh w i) s

/-- SADDI: the immediate added (R181). -/
def execSaddi (d : BitVec 8) (i : BitVec 16) (s : State) : Host.Outcome State Fault Refusal :=
  plainWord (.saddi d i) (fun e s => scalarImm d true (fun w => w + immW e.x.imm i) e s) s

/-- VMOVI: the immediate in each active lane (R181). -/
def execVmovi (d : BitVec 8) (i : BitVec 16) (s : State) : Host.Outcome State Fault Refusal :=
  plainWord (.vmovi d i) (fun e s => vecImm d false (fun _ => immW e.x.imm i) e s) s

/-- VMOVHI: bits 31 to 16 replaced in each active lane (R181). -/
def execVmovhi (d : BitVec 8) (i : BitVec 16) (s : State) : Host.Outcome State Fault Refusal :=
  plainWord (.vmovhi d i) (vecImm d true fun w => withHigh w i) s

/-- SADDW: a 64-bit scalar pair plus a signed 32-bit offset (R182). -/
def execSaddw (d a b : BitVec 8) (s : State) : Host.Outcome State Fault Refusal :=
  plainWord (.saddw d a b) (fun e s =>
    let x := operand64 e false a.toNat 0
    let y := operand e .int b.toNat 0 0#32
    let t := ruleTag (ruleOf e) .produce (own e) [x.2, y.2] x.2 y.2 (sreg e.g (d.toNat - 0xC0)).2
    putPair s e d.toNat (x.1 + y.1.signExtend 64) t) s

/-- VADDW: a 64-bit pair plus a signed 32-bit offset, per active lane (R182). -/
def execVaddw (d a b : BitVec 8) (s : State) : Host.Outcome State Fault Refusal :=
  plainWord (.vaddw d a b) (fun e s =>
    commitLanes s e d.toNat .produce false (e.lanes.map fun i =>
      let x := operand64 e false a.toNat i
      let (y, dx) := laneOne e .int b.toNat i
      let v := x.1 + y.1.signExtend 64
      { lane := i, lo := loWord v, hi := some (hiWord v), result := loWord v, a := some (loWord x.1, x.2)
        b := some y, old := (vreg e.g d.toNat i).2, dice := drawn e i dx })) s

/-! ## Compares (R59, R183) -/

/-- An integer condition of R59. -/
def icond (c : Nat) (sgn : Bool) (x y : Word) : Bool := condHolds c sgn x y

/-- A predicate combined with a condition (R59). -/
def combine (m : Nat) (old new : Bool) : Bool := if m = 1 then old && new else if m = 2 then old || new else new

/-- The register code of a POISON operand, a's before b's (R408). -/
def poisonCode (e : Ex) (a b : Nat) (lanes : List Nat) : Nat :=
  if lanes.any fun i => anyPoison e a i then a else b

/-- A compare over the active lanes: POISON in a source escapes before any lane is written (R45, R183). f answers
a lane's condition, its events and its dice state. -/
def compareBody (w : Word) (m p : Nat) (a b : Nat) (f : Ex → Nat → Bool × Events × Option Word) (e : Ex) (s : State) :
    Res :=
  match e.lanes.filter fun i => anyPoison e a i || anyPoison e b i with
  | _ :: _ =>
    let bad := e.lanes.filter fun i => anyPoison e a i || anyPoison e b i
    .trap (escapeTrap e w bad 3 (poisonCode e a b bad)) s
  | [] =>
    let rs := e.lanes.map fun i => (i, f e i)
    let v := maskOf ((rs.filter fun r => combine m (predBit e.g p r.1) r.2.1).map fun r => r.1)
    let s := setGroup s e fun g => writePred g p (maskOf e.lanes) v
    let s := record s e (rs.map fun r => (r.1, evWord r.2.2.1))
    .done (setGroup s e fun g => writeDice g (rs.filterMap fun r => r.2.2.2.map fun x => (r.1, x)))

/-- One lane of VCMP and VCMPU. -/
def vcmpLane (c : Nat) (sgn : Bool) (a b : Nat) (e : Ex) (i : Nat) : Bool × Events × Option Word :=
  let p := lanePair e .int .int a b i
  (icond c sgn p.1.1 p.2.1.1, {}, drawn e i p.2.2)

/-- VCMP: signed (R183). -/
def execVcmp (c : BitVec 3) (m : BitVec 2) (p : BitVec 3) (a b : BitVec 8) (s : State) :
    Host.Outcome State Fault Refusal :=
  let i := Instr.vcmp c m p a b
  groupWord i (compareBody (wordOf i) m.toNat p.toNat a.toNat b.toNat (vcmpLane c.toNat true a.toNat b.toNat)) s

/-- VCMPU: unsigned (R183). -/
def execVcmpu (c : BitVec 3) (m : BitVec 2) (p : BitVec 3) (a b : BitVec 8) (s : State) :
    Host.Outcome State Fault Refusal :=
  let i := Instr.vcmpu c m p a b
  groupWord i (compareBody (wordOf i) m.toNat p.toNat a.toNat b.toNat (vcmpLane c.toNat false a.toNat b.toNat)) s

/-- SCMP: one signed comparison of scalars, combined in every active lane (R183). A POISON scalar escapes also
when no lane is active. -/
def execScmp (c : BitVec 3) (m : BitVec 2) (p : BitVec 3) (a b : BitVec 8) (s : State) :
    Host.Outcome State Fault Refusal :=
  let i := Instr.scmp c m p a b
  groupWord i (fun e s =>
    if anyPoison e a.toNat 0 || anyPoison e b.toNat 0 then
      .trap (escapeTrap e (wordOf i) e.lanes 3 (poisonCode e a.toNat b.toNat [0])) s
    else
      let r := icond c.toNat true (operand e .int a.toNat 0 0#32).1 (operand e .int b.toNat 0 0#32).1
      let v := maskOf (e.lanes.filter fun i => combine m.toNat (predBit e.g p.toNat i) r)
      .done (setGroup s e fun g => writePred g p.toNat (maskOf e.lanes) v)) s

/-! ## VSEL (R184) -/

/-- VSEL.Pk: the source that the predicate selects, with its tag; the other source takes no part, so that CARRY-A and CARRY-B both
give the selected source's tag (DEDUCED, log entry 52). -/
def execVselPk (p : BitVec 3) (d a b : BitVec 8) (s : State) : Host.Outcome State Fault Refusal :=
  plainWord (.vselPk p d a b) (fun e s =>
    commitLanes s e d.toNat .carryA false (e.lanes.map fun i =>
      let q := lanePair e .int .int a.toNat b.toNat i
      let v := if predBit e.g p.toNat i then q.1 else q.2.1
      { lane := i, lo := v.1, result := v.1, a := some v, b := some v, old := (vreg e.g d.toNat i).2
        dice := drawn e i q.2.2 })) s

/-! ## VCVTI (R185, R186) -/

/-- The width and signedness of an integer type code. -/
def intType (t : Nat) : Nat × Bool :=
  match t with
  | 0 => (32, true) | 1 => (32, false) | 2 => (64, true) | 3 => (64, false) | 4 => (16, true) | 5 => (16, false)
  | 6 => (8, true) | _ => (8, false)

/-- The format of a floating-point type code. -/
def fpType (t : Nat) : Fmt := if t = 8 then .fp32 else if t = 9 then .fp64 else if t = 0xA then .fp16 else .bf16

/-- The value of the low bits of a number in an integer type. -/
def intValue (t n : Nat) : Int :=
  let (w, sg) := intType t
  if sg then signed w n else (n % 2 ^ w : Nat)

/-- The least and the greatest value of an integer type. -/
def intRange (t : Nat) : Int × Int :=
  let (w, sg) := intType t
  if sg then (-(2 ^ (w - 1)), 2 ^ (w - 1) - 1) else (0, 2 ^ w - 1)

/-- An integer as a result of a type: wrapped, then extended to 32 bits or filling a pair (R186). -/
def intResult (t : Nat) (z : Int) : DWord :=
  let (w, sg) := intType t
  let n := (z % 2 ^ w).toNat
  if w = 64 then BitVec.ofNat 64 n
  else
    let v : Word := if sg then BitVec.ofInt 32 (signed w n) else BitVec.ofNat 32 n
    BitVec.ofNat 64 v.toNat

/-- A float settled as an integer of a type (R29): its value, and whether the conversion is invalid. -/
def floatToInt (t : Nat) (r : Rnd) (v : FVal) (draw : Nat) : Int × Bool :=
  let (lo, hi) := intRange t
  match v with
  | .nan .. => (0, true)
  | .inf s => (if s then lo else hi, true)
  | _ =>
    let z := toIntegral r v draw
    if z > hi then (hi, true) else if z < lo then (lo, true) else (z, false)

/-- A source of a conversion: the 64-bit pattern, its cell as a capture record has it, and the lane's dice state. -/
def cvtSource (e : Ex) (t a i : Nat) : Nat × Cell × Word :=
  if is64 t then
    let x := operand64 e (t = 9) a i
    (x.1.toNat, (if t = 9 then hiWord x.1 else loWord x.1, x.2), diceOf e.g i)
  else
    let ty := if t = 8 then OpType.fp32 else if t = 0xA then .fp16 else if t = 0xB then .bf16 else .int
    let (x, dx) := laneOne e ty a i
    (if t = 0xA || t = 0xB then x.1.toNat % 65536 else x.1.toNat, x, dx)

/-- A draw for an SR rounding: the draw and the dice state after it (R19). -/
def srDraw (r : Rnd) (x : Word) : Nat × Word :=
  if r = .sr then (let y := diceStep x; (y.toNat, y)) else (0, x)

/-- An exact integer as a source, negated and made absolute (R186). -/
def modInt (md : FpMod) (z : Int) : Int :=
  let z := if md.absa then (z.natAbs : Int) else z
  if md.nega then -z else z

/-- One lane of VCVTI (R186). -/
def vcvtiLane (d a src dst : Nat) (e : Ex) (i : Nat) : LaneOut :=
  let md := fpMod e .rne
  let (n, cell, x1) := cvtSource e src a i
  let old := (vreg e.g d i).2
  let mk := fun (v : DWord) (ev : Events) (born : Births) (w0 w1 : Word) (x : Word) =>
    { lane := i, lo := loWord v, hi := if is64 dst then some (hiWord v) else none
      result := if dst = 9 then hiWord v else loWord v, a := some cell, old := old, ev := ev, born := born, w0 := w0
      w1 := w1, dice := drawn e i x : LaneOut }
  if src < 8 && dst < 8 then
    let z := modInt md (intValue src n)
    let (lo, hi) := intRange dst
    if md.sat && (z > hi || z < lo) then
      mk (intResult dst (if z > hi then hi else lo)) { isat := true } {} 0#32 0#32 x1
    else mk (intResult dst z) {} {} 0#32 0#32 x1
  else
    let (dr, x2) := srDraw md.rnd x1
    if dst < 8 then
      let f := fpType src
      let v := modA md (readFp f md.ftz n)
      let (z, bad) := floatToInt dst md.rnd (v.scale md.scale) dr
      let w0 : Word := BitVec.ofNat 32 (if src = 9 then n / 2 ^ 32 else n)
      mk (intResult dst z) { inv := bad || v.isSig } { iinv := bad } w0 0#32 x2
    else
      let f := fpType dst
      let z := modInt md (intValue src n)
      let r := finishFp f md true md.ftz [ofInt z] (ofInt z) dr
      mk (BitVec.ofNat 64 r.code) r.ev r.born (BitVec.ofInt 32 (intValue src n))
        (if is64 src then BitVec.ofNat 32 (n / 2 ^ 32) else 0#32) x2

/-- VCVTI (R185, R186). -/
def execVcvti (d a : BitVec 8) (src dst : BitVec 4) (s : State) : Host.Outcome State Fault Refusal :=
  plainWord (.vcvti d a src dst) (fun e s =>
    commitLanes s e d.toNat .produce (src = 9#4 || dst = 9#4)
      (e.lanes.map (vcvtiLane d.toNat a.toNat src.toNat dst.toNat e))) s

/-! ## Masks within a split (R187, R188) -/

/-- MSAV: A into a scalar pair. -/
def execMsav (d : BitVec 8) (s : State) : Host.Outcome State Fault Refusal :=
  plainWord (.msav d) (fun e s => putPair s e d.toNat e.x.amask (own e)) s

/-- A split's mask replaced within L, with its MASK packet where A changes (R187, R437). -/
def setMask (s : State) (e : Ex) (m : DWord) : State :=
  let s := setSplit s e fun x => { x with amask := m &&& x.lset }
  if m &&& e.x.lset = e.x.amask then s else maskPacket s e 0 {}

/-- MRES: A becomes a scalar pair within L; the pair's tags take no part. -/
def execMres (a : BitVec 8) (s : State) : Host.Outcome State Fault Refusal :=
  plainWord (.mres a) (fun e s => setMask s e (operand64 e false a.toNat 0).1) s

/-- MAND: A narrowed by a predicate. -/
def execMand (n : BitVec 1) (p : BitVec 3) (s : State) : Host.Outcome State Fault Refusal :=
  plainWord (.mand n p) (fun e s =>
    let q := pred e.g p.toNat
    setMask s e (e.x.amask &&& (if flag n then ~~~q else q))) s

end Sys2Proof.Machine
end

