-- ==== Sys2Proof/Machine/Float.lean ====
section
/-! DEFINITION. Floating-point, packed and dot-product arithmetic (R190 to R207). -/

namespace Sys2Proof.Machine

/-! ## Operations on values (R191, R195 to R198) -/

/-- Whether x comes before y, with −0 below +0 (R196). -/
def fbelow (x y : FVal) : Bool :=
  match fcmp x y with
  | .lt => true
  | .gt => false
  | .eq => x.sign && !y.sign

/-- Minimum and maximum (R196): one NaN gives the other operand, two give R15. -/
def fminV (x y : FVal) : FVal :=
  if x.isNaN && y.isNaN then firstNaN [x, y] defaultNaN
  else if x.isNaN then y else if y.isNaN then x else if fbelow y x then y else x
def fmaxV (x y : FVal) : FVal :=
  if x.isNaN && y.isNaN then firstNaN [x, y] defaultNaN
  else if x.isNaN then y else if y.isNaN then x else if fbelow x y then y else x

/-- a × 2^n for an integer word n (R195). Beyond ±4,000 every FP32 result is settled by the sign alone. -/
def fscalebV (x : FVal) (b : Word) : FVal := x.quiet.scale (max (-4000) (min 4000 b.toInt))

/-- a − Floor(a) (R195); the floor of a zero is that zero. -/
def ffracV (r : Rnd) (x : FVal) : FVal :=
  match x with
  | .nan .. => x.quiet
  | .inf _ => defaultNaN
  | .fin s m _ _ =>
    let fl := if m = 0 then FVal.fin s 0 0 false else ofInt (ffloor x)
    fadd r x fl.neg

/-- a rounded to an integral value in a mode; a zero keeps a's sign (R195). -/
def frndV (r : Rnd) (x : FVal) (draw : Nat) : FVal :=
  match x with
  | .nan .. => x.quiet
  | .inf _ => x
  | .fin s .. => .fin s (toIntegral r x draw).natAbs 0 false

/-- A floating-point condition of R59. -/
def fcond (c : Nat) (x y : FVal) : Bool :=
  if x.isNaN || y.isNaN then c = 1 || c = 6
  else
    match c with
    | 0 => fcmp x y = .eq
    | 1 => fcmp x y ≠ .eq
    | 2 => fcmp x y = .lt
    | 3 => fcmp x y ≠ .gt
    | 4 => fcmp x y = .gt
    | 5 => fcmp x y ≠ .lt
    | 6 => false
    | _ => true

/-! ## FP32 arithmetic -/

/-- An operation on the modified operands, the accumulator, the raw second word, and the draw. -/
abbrev FpOp := FpMod → FVal → FVal → FVal → Word → Nat → FVal

/-- One lane of an FP32 instruction (R64, R190, R191): n sources, useD for an accumulator, tb the type of b. -/
def fpLane (d a b : BitVec 8) (n : Nat) (useD : Bool) (tb : OpType) (op : FpOp) (e : Ex) (i : Nat) : LaneOut :=
  let md := fpMod e .rne
  let p := lanePair e .fp32 tb a.toNat (if n = 2 then b.toNat else 0xF0) i
  let c := vreg e.g d.toNat i
  let x := modA md (readFp .fp32 md.ftz p.1.1.toNat)
  let y := modB md (readFp .fp32 md.ftz p.2.1.1.toNat)
  let z := readFp .fp32 md.ftz c.1.toNat
  let dr := srDraw md.rnd p.2.2
  let ins := [x] ++ (if n = 2 && tb = .fp32 then [y] else []) ++ (if useD then [z] else [])
  let r := finishFp .fp32 md false md.ftz ins (op md x y z p.2.1.1 dr.1) dr.1
  { lane := i, lo := BitVec.ofNat 32 r.code, result := BitVec.ofNat 32 r.code, a := some p.1
    b := if n = 2 then some p.2.1 else none, c := if useD then some c else none, old := c.2, ev := r.ev
    born := r.born, dice := drawn e i dr.2 }

/-- An FP32 instruction over the active lanes. -/
def fpBody (d a b : BitVec 8) (n : Nat) (useD : Bool) (tb : OpType) (op : FpOp) (e : Ex) (s : State) : State :=
  commitLanes s e d.toNat .produce false (e.lanes.map (fpLane d a b n useD tb op e))

/-- FADD: a + b (R195). -/
def execFadd (d a b : BitVec 8) (s : State) : Host.Outcome State Fault Refusal :=
  plainWord (.fadd d a b) (fpBody d a b 2 false .fp32 fun md x y _ _ _ => fadd md.rnd x y) s

/-- A difference: a NaN operand keeps its own sign (R15). -/
def fsubV (r : Rnd) (x y : FVal) : FVal := if x.isNaN || y.isNaN then firstNaN [x, y] defaultNaN else fadd r x y.neg

/-- FSUB: a − b (R195). -/
def execFsub (d a b : BitVec 8) (s : State) : Host.Outcome State Fault Refusal :=
  plainWord (.fsub d a b) (fpBody d a b 2 false .fp32 fun md x y _ _ _ => fsubV md.rnd x y) s

/-- FMUL: a × b (R195). -/
def execFmul (d a b : BitVec 8) (s : State) : Host.Outcome State Fault Refusal :=
  plainWord (.fmul d a b) (fpBody d a b 2 false .fp32 fun _ x y _ _ _ => fmul x y) s

/-- FFMA: a × b + d, rounded once (R195). -/
def execFfma (d a b : BitVec 8) (s : State) : Host.Outcome State Fault Refusal :=
  plainWord (.ffma d a b) (fpBody d a b 2 true .fp32 fun md x y z _ _ => ffma md.rnd x y z) s

/-- FMIN (R196). -/
def execFmin (d a b : BitVec 8) (s : State) : Host.Outcome State Fault Refusal :=
  plainWord (.fmin d a b) (fpBody d a b 2 false .fp32 fun _ x y _ _ _ => fminV x y) s

/-- FMAX (R196). -/
def execFmax (d a b : BitVec 8) (s : State) : Host.Outcome State Fault Refusal :=
  plainWord (.fmax d a b) (fpBody d a b 2 false .fp32 fun _ x y _ _ _ => fmaxV x y) s

/-- FSCALEB: a × 2^I32(b) (R195). -/
def execFscaleb (d a b : BitVec 8) (s : State) : Host.Outcome State Fault Refusal :=
  plainWord (.fscaleb d a b) (fpBody d a b 2 false .int fun _ x _ _ w _ => fscalebV x w) s

/-- FFRAC: a − Floor(a) (R195). -/
def execFfrac (d a : BitVec 8) (s : State) : Host.Outcome State Fault Refusal :=
  plainWord (.ffrac d a) (fpBody d a 0#8 1 false .fp32 fun md x _ _ _ _ => ffracV md.rnd x) s

/-- FRND: a rounded to an integral value (R195). -/
def execFrnd (d a : BitVec 8) (s : State) : Host.Outcome State Fault Refusal :=
  plainWord (.frnd d a) (fpBody d a 0#8 1 false .fp32 fun md x _ _ _ dr => frndV md.rnd x dr) s

/-- The class bit of an FP32 code (R197). -/
def fclassBit (n : Nat) : Nat :=
  let sub := isSubnormal .fp32 n
  match decodeFp .fp32 n with
  | .nan _ sig _ => if sig then 8 else 9
  | .inf s => if s then 0 else 7
  | .fin s m _ _ => if m = 0 then (if s then 3 else 4) else if sub then (if s then 2 else 5) else (if s then 1 else 6)

/-- FCLASS (R197): no event, no FTZ. -/
def execFclass (d a : BitVec 8) (s : State) : Host.Outcome State Fault Refusal :=
  plainWord (.fclass d a) (fun e s =>
    commitLanes s e d.toNat .produce false (e.lanes.map fun i =>
      let p := laneOne e .fp32 a.toNat i
      let v : Word := BitVec.ofNat 32 (2 ^ fclassBit p.1.1.toNat)
      { lane := i, lo := v, result := v, a := some p.1, old := (vreg e.g d.toNat i).2, dice := drawn e i p.2 })) s

/-- One lane of FCMP and DCMP (R198): a signalling NaN records invalid. -/
def fcmpLane (dbl : Bool) (c a b : Nat) (e : Ex) (i : Nat) : Bool × Events × Option Word :=
  let md := fpMod e .rne
  let p := lanePair e .fp32 .fp32 a b i
  let f := if dbl then Fmt.fp64 else .fp32
  let x := modA md (readFp f md.ftz (if dbl then (operand64 e true a i).1.toNat else p.1.1.toNat))
  let y := modB md (readFp f md.ftz (if dbl then (operand64 e true b i).1.toNat else p.2.1.1.toNat))
  (fcond c x y, { inv := x.isSig || y.isSig }, if dbl then none else drawn e i p.2.2)

/-- FCMP (R198). -/
def execFcmp (c : BitVec 3) (m : BitVec 2) (p : BitVec 3) (a b : BitVec 8) (s : State) :
    Host.Outcome State Fault Refusal :=
  let i := Instr.fcmp c m p a b
  groupWord i (compareBody (wordOf i) m.toNat p.toNat a.toNat b.toNat (fcmpLane false c.toNat a.toNat b.toNat)) s

/-- DCMP (R198): FP64, no FTZ. -/
def execDcmp (c : BitVec 3) (m : BitVec 2) (p : BitVec 3) (a b : BitVec 8) (s : State) :
    Host.Outcome State Fault Refusal :=
  let i := Instr.dcmp c m p a b
  groupWord i (compareBody (wordOf i) m.toNat p.toNat a.toNat b.toNat (fcmpLane true c.toNat a.toNat b.toNat)) s

/-! ## FP64 arithmetic (R199) -/

/-- One lane of an FP64 instruction: the pair's tag is that of its low register (R40). -/
def dpLane (d a b : BitVec 8) (n : Nat) (useD : Bool) (op : FpOp) (e : Ex) (i : Nat) : LaneOut :=
  let md := fpMod e .rne
  let p := operand64 e true a.toNat i
  let q := operand64 e true (if n = 2 then b.toNat else 0xF0) i
  let c := operand64 e true d.toNat i
  let x := modA md (readFp .fp64 false p.1.toNat)
  let y := modB md (readFp .fp64 false q.1.toNat)
  let z := readFp .fp64 false c.1.toNat
  let dr := srDraw md.rnd (diceOf e.g i)
  let ins := [x] ++ (if n = 2 then [y] else []) ++ (if useD then [z] else [])
  let r := finishFp .fp64 md false false ins (op md x y z 0#32 dr.1) dr.1
  let v := BitVec.ofNat 64 r.code
  { lane := i, lo := loWord v, hi := some (hiWord v), result := hiWord v, a := some (hiWord p.1, p.2)
    b := if n = 2 then some (hiWord q.1, q.2) else none, c := if useD then some (hiWord c.1, c.2) else none
    old := c.2, ev := r.ev, born := r.born, dice := drawn e i dr.2 }

/-- An FP64 instruction over the active lanes. -/
def dpBody (d a b : BitVec 8) (n : Nat) (useD : Bool) (op : FpOp) (e : Ex) (s : State) : State :=
  commitLanes s e d.toNat .produce true (e.lanes.map (dpLane d a b n useD op e))

/-- DADD (R199). -/
def execDadd (d a b : BitVec 8) (s : State) : Host.Outcome State Fault Refusal :=
  plainWord (.dadd d a b) (dpBody d a b 2 false fun md x y _ _ _ => fadd md.rnd x y) s

/-- DSUB (R199). -/
def execDsub (d a b : BitVec 8) (s : State) : Host.Outcome State Fault Refusal :=
  plainWord (.dsub d a b) (dpBody d a b 2 false fun md x y _ _ _ => fsubV md.rnd x y) s

/-- DMUL (R199). -/
def execDmul (d a b : BitVec 8) (s : State) : Host.Outcome State Fault Refusal :=
  plainWord (.dmul d a b) (dpBody d a b 2 false fun _ x y _ _ _ => fmul x y) s

/-- DFMA (R199). -/
def execDfma (d a b : BitVec 8) (s : State) : Host.Outcome State Fault Refusal :=
  plainWord (.dfma d a b) (dpBody d a b 2 true fun md x y z _ _ => ffma md.rnd x y z) s

/-! ## Conversions between floating-point formats (R200) -/

/-- Whether every value of f is a value of g: a widening. -/
def widens (f g : Fmt) : Bool := f.exp ≤ g.exp && f.mant ≤ g.mant

/-- A value's FP32 code, for a cause word (R35). -/
def asFp32 (f : Fmt) (n : Nat) : Word := BitVec.ofNat 32 (roundTo .fp32 .rne false (decodeFp f n) 0).code

/-- One lane of FCVT and DCVT (R200). -/
def cvtLane (d a src dst : Nat) (e : Ex) (i : Nat) : LaneOut :=
  let md := fpMod e .rne
  let (n, cell, x1) := cvtSource e src a i
  let f := fpType src
  let g := fpType dst
  let (dr, x2) := srDraw md.rnd x1
  let v := modA md (readFp f md.ftz n)
  let r := finishFp g md (!widens f g) md.ftz [v] (if v.isNaN then v.quiet else v) dr
  let w := BitVec.ofNat 64 r.code
  { lane := i, lo := loWord w, hi := if dst = 9 then some (hiWord w) else none
    result := if dst = 9 then hiWord w else loWord w, a := some cell, old := (vreg e.g d i).2, ev := r.ev
    born := r.born, w0 := if src = 9 then BitVec.ofNat 32 (n / 2 ^ 32) else asFp32 f n
    w1 := if src = 9 then BitVec.ofNat 32 n else 0#32, dice := drawn e i x2 }

/-- FCVT: among FP32, FP16 and BF16 (R200). -/
def execFcvt (d a : BitVec 8) (src dst : BitVec 4) (s : State) : Host.Outcome State Fault Refusal :=
  plainWord (.fcvt d a src dst) (fun e s =>
    commitLanes s e d.toNat .produce false (e.lanes.map (cvtLane d.toNat a.toNat src.toNat dst.toNat e))) s

/-- DCVT: between FP64 and one of those (R200). -/
def execDcvt (d a : BitVec 8) (src dst : BitVec 4) (s : State) : Host.Outcome State Fault Refusal :=
  plainWord (.dcvt d a src dst) (fun e s =>
    commitLanes s e d.toNat .produce true (e.lanes.map (cvtLane d.toNat a.toNat src.toNat dst.toNat e))) s

/-! ## Packed arithmetic (R201) -/

/-- Element j of a container of w-bit elements. -/
def elem (w : Nat) (v : Word) (j : Nat) : Nat := v.toNat / 2 ^ (w * j) % 2 ^ w

/-- One lane of a packed instruction: two elements, each rounded once, with one draw each, the low one first. -/
def packedLane (f : Fmt) (t : OpType) (d a b : BitVec 8) (useD : Bool) (op : FpOp) (e : Ex) (i : Nat) : LaneOut :=
  let md := fpMod e .rne
  let p := lanePair e t t a.toNat b.toNat i
  let c := vreg e.g d.toNat i
  let d0 := srDraw md.rnd p.2.2
  let d1 := srDraw md.rnd d0.2
  let one := fun (j : Nat) (dr : Nat) =>
    let x := modA md (readFp f md.ftz (elem 16 p.1.1 j))
    let y := modB md (readFp f md.ftz (elem 16 p.2.1.1 j))
    let z := readFp f md.ftz (elem 16 c.1 j)
    finishFp f md false md.ftz ([x, y] ++ if useD then [z] else []) (op md x y z 0#32 dr) dr
  let r0 := one 0 d0.1
  let r1 := one 1 d1.1
  let v : Word := BitVec.ofNat 32 (r0.code + 65536 * r1.code)
  { lane := i, lo := v, result := v, a := some p.1, b := some p.2.1, c := if useD then some c else none, old := c.2
    ev := r0.ev.or r1.ev, born := r0.born.or r1.born, dice := drawn e i d1.2 }

/-- A packed instruction over the active lanes. -/
def packedBody (f : Fmt) (t : OpType) (d a b : BitVec 8) (useD : Bool) (op : FpOp) (e : Ex) (s : State) : State :=
  commitLanes s e d.toNat .produce false (e.lanes.map (packedLane f t d a b useD op e))

/-- BADD2: BF16 sums (R201). -/
def execBadd2 (d a b : BitVec 8) (s : State) : Host.Outcome State Fault Refusal :=
  plainWord (.badd2 d a b) (packedBody .bf16 .bf16 d a b false fun md x y _ _ _ => fadd md.rnd x y) s

/-- BMUL2: BF16 products (R201). -/
def execBmul2 (d a b : BitVec 8) (s : State) : Host.Outcome State Fault Refusal :=
  plainWord (.bmul2 d a b) (packedBody .bf16 .bf16 d a b false fun _ x y _ _ _ => fmul x y) s

/-- BFMA2: BF16 products plus d (R201). -/
def execBfma2 (d a b : BitVec 8) (s : State) : Host.Outcome State Fault Refusal :=
  plainWord (.bfma2 d a b) (packedBody .bf16 .bf16 d a b true fun md x y z _ _ => ffma md.rnd x y z) s

/-- HADD2: FP16 sums (R201). -/
def execHadd2 (d a b : BitVec 8) (s : State) : Host.Outcome State Fault Refusal :=
  plainWord (.hadd2 d a b) (packedBody .fp16 .fp16 d a b false fun md x y _ _ _ => fadd md.rnd x y) s

/-- HMUL2: FP16 products (R201). -/
def execHmul2 (d a b : BitVec 8) (s : State) : Host.Outcome State Fault Refusal :=
  plainWord (.hmul2 d a b) (packedBody .fp16 .fp16 d a b false fun _ x y _ _ _ => fmul x y) s

/-- HFMA2: FP16 products plus d (R201). -/
def execHfma2 (d a b : BitVec 8) (s : State) : Host.Outcome State Fault Refusal :=
  plainWord (.hfma2 d a b) (packedBody .fp16 .fp16 d a b true fun md x y z _ _ => ffma md.rnd x y z) s

/-! ## Dot products (R202, R203) -/

/-- One lane of a floating-point dot: the exact sum of d and n products of w-bit elements, rounded once in RNE. -/
def dotLane (f : Fmt) (t : OpType) (n w : Nat) (d a b : BitVec 8) (e : Ex) (i : Nat) : LaneOut :=
  let md := { fpMod e .rne with rnd := .rne }
  let p := lanePair e t t a.toNat b.toNat i
  let c := vreg e.g d.toNat i
  let xs := (upTo n).map fun j => decodeFp f (elem w p.1.1 j)
  let ys := (upTo n).map fun j => decodeFp f (elem w p.2.1.1 j)
  let z := decodeFp .fp32 c.1.toNat
  let ins := xs ++ ys ++ [z]
  let v := if ins.any FVal.isNaN then firstNaN ins defaultNaN
    else (List.zipWith fmul xs ys).foldl (fadd .rne) z
  let r := finishFp .fp32 md false false ins v 0
  { lane := i, lo := BitVec.ofNat 32 r.code, result := BitVec.ofNat 32 r.code, a := some p.1, b := some p.2.1
    c := some c, old := c.2, ev := r.ev, born := r.born, dice := drawn e i p.2.2 }

/-- A floating-point dot over the active lanes. -/
def dotBody (f : Fmt) (t : OpType) (n w : Nat) (d a b : BitVec 8) (e : Ex) (s : State) : State :=
  commitLanes s e d.toNat .produce false (e.lanes.map (dotLane f t n w d a b e))

/-- VDOT2.BF (R202, R203). -/
def execVdot2Bf (d a b : BitVec 8) (s : State) : Host.Outcome State Fault Refusal :=
  plainWord (.vdot2Bf d a b) (dotBody .bf16 .bf16 2 16 d a b) s

/-- VDOT4.E4 (R202, R203). -/
def execVdot4E4 (d a b : BitVec 8) (s : State) : Host.Outcome State Fault Refusal :=
  plainWord (.vdot4E4 d a b) (dotBody .e4m3 .e4m3 4 8 d a b) s

/-- VDOT4.E5 (R202, R203). -/
def execVdot4E5 (d a b : BitVec 8) (s : State) : Host.Outcome State Fault Refusal :=
  plainWord (.vdot4E5 d a b) (dotBody .e5m2 .e5m2 4 8 d a b) s

/-- VDOT8.F4 (R202, R203). -/
def execVdot8F4 (d a b : BitVec 8) (s : State) : Host.Outcome State Fault Refusal :=
  plainWord (.vdot8F4 d a b) (dotBody .e2m1 .e2m1 8 4 d a b) s

/-- VDOT2.H (R202, R203). -/
def execVdot2H (d a b : BitVec 8) (s : State) : Host.Outcome State Fault Refusal :=
  plainWord (.vdot2H d a b) (dotBody .fp16 .fp16 2 16 d a b) s

/-- One lane of VDOT4.I8 (R202, R203): plain integers, modulo 2^32, or clamped to I32 with SAT. -/
def dotI8Lane (d a b : BitVec 8) (e : Ex) (i : Nat) : LaneOut :=
  let p := lanePair e .i8 .i8 a.toNat b.toNat i
  let c := vreg e.g d.toNat i
  let z := ((upTo 4).map fun j => signed 8 (elem 8 p.1.1 j) * signed 8 (elem 8 p.2.1.1 j)).foldl
    (fun (t u : Int) => t + u) c.1.toInt
  let r := if modBit e.x.mod 23 then sat32 z else (BitVec.ofInt 32 z, noEvents)
  { lane := i, lo := r.1, result := r.1, a := some p.1, b := some p.2.1, c := some c, old := c.2, ev := r.2
    dice := drawn e i p.2.2 }

/-- VDOT4.I8 (R202, R203). -/
def execVdot4I8 (d a b : BitVec 8) (s : State) : Host.Outcome State Fault Refusal :=
  plainWord (.vdot4I8 d a b) (fun e s => commitLanes s e d.toNat .produce false (e.lanes.map (dotI8Lane d a b e))) s

/-! ## Narrowing and unpacking (R204 to R206) -/

/-- One lane of a narrowing of two FP32 operands: the codes of a and b go where put puts them; useD says that the
old container is a source. NEGA and ABSA act on a alone; a draws before b. -/
def narrowLane (f : Fmt) (flush useD : Bool) (put : Word → Nat → Nat → Word) (d a b : BitVec 8) (e : Ex) (i : Nat) :
    LaneOut :=
  let md := fpMod e .rne
  let p := lanePair e .fp32 .fp32 a.toNat b.toNat i
  let c := vreg e.g d.toNat i
  let d0 := srDraw md.rnd p.2.2
  let d1 := srDraw md.rnd d0.2
  let one := fun (v : FVal) (dr : Nat) => finishFp f md true flush [v] (if v.isNaN then v.quiet else v) dr
  let r0 := one (modA md (readFp .fp32 md.ftz p.1.1.toNat)) d0.1
  let r1 := one (readFp .fp32 md.ftz p.2.1.1.toNat) d1.1
  let v := put c.1 r0.code r1.code
  { lane := i, lo := v, result := v, a := some p.1, b := some p.2.1, c := if useD then some c else none, old := c.2
    ev := r0.ev.or r1.ev, born := r0.born.or r1.born, w0 := if r0.born.nsat then p.1.1 else p.2.1.1
    dice := drawn e i d1.2 }

/-- A narrowing over the active lanes. -/
def narrowBody (f : Fmt) (flush useD : Bool) (put : Word → Nat → Nat → Word) (d a b : BitVec 8) (e : Ex) (s : State) :
    State :=
  commitLanes s e d.toNat .produce false (e.lanes.map (narrowLane f flush useD put d a b e))

/-- Two 16-bit codes as a pair. -/
def putPk (_ : Word) (x y : Nat) : Word := BitVec.ofNat 32 (x + 65536 * y)
/-- Two FP8 codes in the low half, and in the high half, of a container. -/
def putLow8 (c : Word) (x y : Nat) : Word := BitVec.ofNat 32 (x + 256 * y + c.toNat / 65536 * 65536)
def putHigh8 (c : Word) (x y : Nat) : Word := BitVec.ofNat 32 (c.toNat % 65536 + 65536 * (x + 256 * y))

/-- CVTPK.BF (R204). -/
def execCvtpkBf (d a b : BitVec 8) (s : State) : Host.Outcome State Fault Refusal :=
  plainWord (.cvtpkBf d a b) (fun e s => narrowBody .bf16 e.lch.ftz false putPk d a b e s) s

/-- CVTPK.H (R204). -/
def execCvtpkH (d a b : BitVec 8) (s : State) : Host.Outcome State Fault Refusal :=
  plainWord (.cvtpkH d a b) (fun e s => narrowBody .fp16 e.lch.ftz false putPk d a b e s) s

/-- CVT8.E4L (R205). -/
def execCvt8E4l (d a b : BitVec 8) (s : State) : Host.Outcome State Fault Refusal :=
  plainWord (.cvt8E4l d a b) (fun e s => narrowBody .e4m3 false true putLow8 d a b e s) s

/-- CVT8.E4H (R205). -/
def execCvt8E4h (d a b : BitVec 8) (s : State) : Host.Outcome State Fault Refusal :=
  plainWord (.cvt8E4h d a b) (fun e s => narrowBody .e4m3 false true putHigh8 d a b e s) s

/-- CVT8.E5L (R205). -/
def execCvt8E5l (d a b : BitVec 8) (s : State) : Host.Outcome State Fault Refusal :=
  plainWord (.cvt8E5l d a b) (fun e s => narrowBody .e5m2 false true putLow8 d a b e s) s

/-- CVT8.E5H (R205). -/
def execCvt8E5h (d a b : BitVec 8) (s : State) : Host.Outcome State Fault Refusal :=
  plainWord (.cvt8E5h d a b) (fun e s => narrowBody .e5m2 false true putHigh8 d a b e s) s

/-- The value, the FP32 word for a cause record, and the operand type of element sel of a container (R206). -/
def unpkElem (f sel : Nat) (v : Word) : FVal × Word :=
  match f with
  | 0 => (decodeFp .bf16 (elem 16 v sel), asFp32 .bf16 (elem 16 v sel))
  | 1 => (decodeFp .fp16 (elem 16 v sel), asFp32 .fp16 (elem 16 v sel))
  | 2 => (decodeFp .e4m3 (elem 8 v sel), asFp32 .e4m3 (elem 8 v sel))
  | 3 => (decodeFp .e5m2 (elem 8 v sel), asFp32 .e5m2 (elem 8 v sel))
  | 4 => (decodeFp .e2m1 (elem 4 v sel), asFp32 .e2m1 (elem 4 v sel))
  | _ =>
    let z := ofInt (signed 8 (elem 8 v sel))
    (z, BitVec.ofNat 32 (roundTo .fp32 .rne false z 0).code)

/-- The type in which UNPK reads its container. -/
def unpkType (f : Nat) : OpType :=
  match f with
  | 0 => .bf16 | 1 => .fp16 | 2 => .e4m3 | 3 => .e5m2 | 4 => .e2m1 | _ => .i8

/-- One lane of UNPK (R206): one element widened to FP32; births only under SCALE. -/
def unpkLane (d a : BitVec 8) (f k : BitVec 4) (e : Ex) (i : Nat) : LaneOut :=
  let md := fpMod e .rne
  let p := laneOne e (unpkType f.toNat) a.toNat i
  let x := unpkElem f.toNat k.toNat p.1.1
  let dr := srDraw md.rnd p.2
  let v := modA md x.1
  let r := finishFp .fp32 md (md.scale ≠ 0) false [v] (if v.isNaN then v.quiet else v) dr.1
  { lane := i, lo := BitVec.ofNat 32 r.code, result := BitVec.ofNat 32 r.code, a := some p.1
    old := (vreg e.g d.toNat i).2, ev := r.ev, born := r.born, w0 := x.2, dice := drawn e i dr.2 }

/-- UNPK (R206). -/
def execUnpk (d a : BitVec 8) (f k : BitVec 4) (s : State) : Host.Outcome State Fault Refusal :=
  plainWord (.unpk d a f k) (fun e s => commitLanes s e d.toNat .produce false (e.lanes.map (unpkLane d a f k e))) s

/-- DICE (R207): one draw per active lane; the result has no source. -/
def execDice (d : BitVec 8) (s : State) : Host.Outcome State Fault Refusal :=
  plainWord (.dice d) (fun e s =>
    commitLanes s e d.toNat .produce false (e.lanes.map fun i =>
      let x := diceStep (diceOf e.g i)
      { lane := i, lo := x, result := x, old := (vreg e.g d.toNat i).2, dice := some x })) s

end Sys2Proof.Machine
end

