-- ==== Sys2Proof/Machine/Collective.lean ====
section
/-! DEFINITION. Communicators and collectives (R290 to R308): COMMQ, COLL and its gathers, the states of a submitted
collective, chunk steps, reductions, the transposing all-to-all, and failure. -/

namespace Sys2Proof.Machine

def collState : Cause := 0xA0#8
def commInvalid : Cause := 0xA1#8
def collFormat : Cause := 0xA2#8
def collOperands : Cause := 0xA3#8
def collMismatch : Cause := 0xA4#8
def collTimeout : Cause := 0xA5#8
def collAbortCause : Cause := 0xA6#8

/-! ## The fields of a COLL word and of its map (R294, R306) -/

/-- cop, tile, redop, type and SYNC of a COLL word (R294). -/
def collOp (w : Word) : Nat := bits w.toNat 23 21
def collRed (w : Word) : Nat := bits w.toNat 6 4
def collType (w : Word) : Nat := bits w.toNat 3 1
def collSync (w : Word) : Bool := w.getLsbD 0
/-- Bytes of an element of a type code (R294). -/
def collSize (t : Nat) : Nat := [4, 4, 4, 8, 2, 2, 8, 1].getD t 4
/-- The floating-point format of a type code, where it has one. -/
def collFmt (t : Nat) : Option Fmt :=
  match t with | 2 => some .fp32 | 3 => some .fp64 | 4 => some .bf16 | 5 => some .fp16 | _ => none

/-- n bytes of a map from byte lo, as a number (R306). -/
def mapNum (m : List Byte) (lo n : Nat) : Nat := numOf ((m.drop lo).take n)
def mapKind (m : List Byte) : Nat := mapNum m 24 1
def mapNdim (m : List Byte) : Nat := min 8 (mapNum m 25 1)

/-- A dimension of a map: extent, source parts and destination parts (R306). -/
structure MapDim where
  ext : Nat
  sp : Nat
  dp : Nat
  deriving DecidableEq, Repr

/-- Dimension k. -/
def mapDim (m : List Byte) (k : Nat) : MapDim :=
  ⟨mapNum m (64 + 16 * k) 4, mapNum m (68 + 16 * k) 2, mapNum m (70 + 16 * k) 2⟩
/-- The dimensions of a map. -/
def mapDims (m : List Byte) : List MapDim := (upTo (mapNdim m)).map (mapDim m)
/-- PERM of a map (R306). -/
def mapPerm (m : List Byte) : List Nat := (upTo (mapNdim m)).map fun j => mapNum m (32 + j) 1

/-- The product of a list. -/
def prod (l : List Nat) : Nat := l.foldl (· * ·) 1
/-- Whether bytes are all zero. -/
def allZero (l : List Byte) : Bool := l.all fun b => b = 0#8

/-- Whether a dimension entry is well formed (R306). -/
def dimOk (m : List Byte) (k : Nat) : Bool :=
  let d := mapDim m k
  allZero ((m.drop (72 + 16 * k)).take 8) && d.ext ≠ 0 && 1 ≤ d.sp && d.sp ≤ 1024 && 1 ≤ d.dp && d.dp ≤ 1024 &&
  d.ext % d.sp = 0 && d.ext % d.dp = 0

/-- Whether a map is valid for an operation, a member count and an element size (R295, R297, R306). -/
def layoutOk (m : List Byte) (cop nmem e : Nat) : Bool :=
  let nd := mapNum m 25 1
  let kind := mapKind m
  let ds := mapDims m
  allZero (m.drop 192) && allZero ((m.drop 40).take 24) && allZero ((m.drop 26).take 5) && mapNum m 31 1 = 0xA2 &&
  mapNum m 0 8 % e = 0 && mapNum m 8 8 % e = 0 &&
  (if cop = 7 then
    kind = 1 && 1 ≤ nd && nd ≤ 8 && mapNum m 16 8 = 0 && (upTo nd).all (dimOk m) &&
    allZero ((m.drop (64 + 16 * nd)).take (128 - 16 * nd)) &&
    prod (ds.map fun d => d.sp) = nmem && prod (ds.map fun d => d.dp) = nmem &&
    (upTo nd).all (fun k => (mapPerm m).contains k) &&
    ((m.drop (32 + nd)).take (8 - nd)).all fun b => b = 0xFF#8
  else
    kind = 0 && nd = 0 && 1 ≤ mapNum m 16 8 && mapNum m 16 8 ≤ 2 ^ 40 && allZero ((m.drop 64).take 128) &&
    ((m.drop 32).take 8).all fun b => b = 0xFF#8)

/-- The 256 bytes of a map at an offset of LS. -/
def layoutBytes (t : Team) (base : Nat) : List Byte :=
  (upTo 64).flatMap fun k => bytesOf 4 (storeWord t .ls (base / 4 + k)).1.toNat

/-! ## Communicators (R290 to R293) -/

/-- The communicator of a handle in a context (R290). -/
def commIn (s : State) (ctx h : Nat) : Option Comm := s.comms.find? fun c => c.handle = h && c.ctx = ctx
/-- Whether a collective is submitted and not complete on this device. -/
def Coll.live (c : Coll) : Bool := c.st ≠ .done && c.st ≠ .failed
/-- The collectives of a handle that are not complete. -/
def collsOf (s : State) (h : Nat) : List Coll := s.colls.filter fun c => c.handle = h && c.live

/-- The reserved bits of a handle scalar (R291). -/
def handleReserved (v : Word) : Bool := v.toNat.land 0xFC00F000 ≠ 0
/-- The handle and the root of a handle scalar (R291). -/
def handleOf (v : Word) : Nat := bits v.toNat 11 0
def rootOf (v : Word) : Nat := bits v.toNat 25 16

/-- A failure recorded in ERRW (R293). -/
def noteComm (s : State) (h : Nat) (c : Cause) : State :=
  updComm s h fun q =>
    let n := q.errw.toNat % 65536
    let head := if n = 0 then c.toNat * 2 ^ 24 else q.errw.toNat / 65536 * 65536
    { q with errw := BitVec.ofNat 32 (head + min 65535 (n + 1)), failure := true }

/-- The value COMMQ reads (R293). -/
def commValue (s : State) (c : Comm) (sel : Nat) : Word :=
  match sel with
  | 0 => BitVec.ofNat 32 c.nmem
  | 1 => BitVec.ofNat 32 c.rank
  | 2 => BitVec.ofNat 32 c.seq
  | 3 => BitVec.ofNat 32 (c.seq / 2 ^ 32)
  | 4 => BitVec.ofNat 32 (c.seqr * 65536 + c.logc * 256 + c.cls)
  | 5 =>
    BitVec.ofNat 32 (min 65535 c.births * 65536 + min 255 (collsOf s c.handle).length * 256 +
      (if c.failure then 4 else 0) + (if c.activeSlot then 2 else 0) + 1)
  | _ => c.errw

/-- COMMQ (R293): a read of ERRW clears it. -/
def execCommq (d a : BitVec 8) (sel : BitVec 4) (s : State) : Host.Outcome State Fault Refusal :=
  let w := wordOf (.commq d a sel)
  groupWord (.commq d a sel) (fun e s =>
    let h := sreg e.g (a.toNat - 0xC0)
    if h.2 = poison then .trap (escapeTrap e w e.lanes 5 a.toNat) s
    else if handleReserved h.1 then .trap (ctlTrap e w commInvalid 0) s
    else
      let v := match commIn s e.lch.ctx (handleOf h.1) with
        | some c => commValue s c sel.toNat
        | none => 0#32
      let s := putS s e [(d.toNat - 0xC0, (v, own e))]
      .done (match commIn s e.lch.ctx (handleOf h.1) with
        | some c =>
          if sel = 6#4 then updComm s c.handle fun q => { q with errw := 0#32, failure := false } else s
        | none => s)) s

/-! ## What a collective moves (R297, R307) -/

/-- The members, this device's rank, COUNT and the element size of a collective. -/
structure CollCtx where
  c : Coll
  comm : Comm
  deriving DecidableEq, Repr

def CollCtx.n (x : CollCtx) : Nat := x.comm.nmem
def CollCtx.op (x : CollCtx) : Nat := collOp x.c.word
def CollCtx.e (x : CollCtx) : Nat := collSize (collType x.c.word)
def CollCtx.count (x : CollCtx) : Nat := mapNum x.c.map 16 8
/-- Cells of an element. -/
def CollCtx.cells (x : CollCtx) : Nat := if x.e = 8 then 2 else 1
/-- Elements of a chunk (R304). -/
def CollCtx.per (x : CollCtx) : Nat := 2 ^ x.comm.logc / x.e

/-- The coordinates of a rank over a list of part counts (R307). -/
def rankCoords (r : Nat) (parts : List Nat) : List Nat := splitIndex parts r

/-- The start and length of a rank's source, or destination, block along each dimension (R307). -/
def srcBlock (m : List Byte) (r : Nat) : List (Nat × Nat) :=
  let ds := mapDims m
  List.zipWith (fun (c : Nat) (d : MapDim) => (c * (d.ext / d.sp), d.ext / d.sp)) (rankCoords r (ds.map fun d => d.sp)) ds
def dstBlock (m : List Byte) (r : Nat) : List (Nat × Nat) :=
  let ds := mapDims m
  List.zipWith (fun (c : Nat) (d : MapDim) => (c * (d.ext / d.dp), d.ext / d.dp)) (rankCoords r (ds.map fun d => d.dp)) ds

/-- The elements that rank j's source block and rank q's destination block share, along each dimension. -/
def sharedBlock (m : List Byte) (j q : Nat) : List (Nat × Nat) :=
  List.zipWith (fun (a b : Nat × Nat) =>
    let lo := max a.1 b.1
    (lo, min (a.1 + a.2) (b.1 + b.2) - lo)) (srcBlock m j) (dstBlock m q)

/-- The offset of global coordinates in a block, its first dimension fastest. -/
def blockIndex (xs : List Nat) (blk : List (Nat × Nat)) : Nat :=
  (List.zip xs blk).foldr (fun (p : Nat × (Nat × Nat)) (acc : Nat) => p.1 - p.2.1 + p.2.2 * acc) 0

/-- The global coordinates of the element at an offset of a block. -/
def blockCoords (i : Nat) (blk : List (Nat × Nat)) : List Nat :=
  List.zipWith (fun (j : Nat) (b : Nat × Nat) => b.1 + j) (splitIndex (blk.map fun b => b.2) i) blk

/-- The rank that owns global coordinates at the destination (R307). -/
def dstOwner (m : List Byte) (xs : List Nat) : Nat :=
  (List.zip xs (mapDims m)).foldr (fun (p : Nat × MapDim) (acc : Nat) => p.1 / (p.2.ext / p.2.dp) + p.2.dp * acc) 0

/-- The rank that owns global coordinates at the source (R307). -/
def srcOwner (m : List Byte) (xs : List Nat) : Nat :=
  (List.zip xs (mapDims m)).foldr (fun (p : Nat × MapDim) (acc : Nat) => p.1 / (p.2.ext / p.2.sp) + p.2.sp * acc) 0

/-- The elements of this device's SRC (R297). -/
def CollCtx.nSrc (x : CollCtx) : Nat :=
  match x.op with
  | 0 => 0
  | 1 => if x.comm.rank = x.c.root then x.count else 0
  | 4 | 6 => x.n * x.count
  | 7 => prod ((srcBlock x.c.map x.comm.rank).map fun b => b.2)
  | _ => x.count

/-- The elements of this device's DST (R297). -/
def CollCtx.nDst (x : CollCtx) : Nat :=
  match x.op with
  | 0 => 0
  | 2 => if x.comm.rank = x.c.root then x.count else 0
  | 5 | 6 => x.n * x.count
  | 7 => prod ((dstBlock x.c.map x.comm.rank).map fun b => b.2)
  | _ => x.count

/-- The elements that rank j sends to rank q, or keeps where they are the same (R297). -/
def CollCtx.sent (x : CollCtx) (j q : Nat) : Nat :=
  match x.op with
  | 0 => 0
  | 1 => if j = x.c.root then x.count else 0
  | 2 => if q = x.c.root then x.count else 0
  | 7 => prod ((sharedBlock x.c.map j q).map fun b => b.2)
  | _ => x.count

/-- Whether element i of this device's SRC goes to rank q (R297). -/
def CollCtx.goesTo (x : CollCtx) (i q : Nat) : Bool :=
  match x.op with
  | 2 => q = x.c.root
  | 4 | 6 => i / x.count = q
  | 7 => dstOwner x.c.map (blockCoords i (srcBlock x.c.map x.comm.rank)) = q
  | _ => true

/-- Which element of this device's DST the one at a place in what rank j sent becomes (R297, R307). -/
def CollCtx.dstIndex (x : CollCtx) (j p : Nat) : Nat :=
  match x.op with
  | 5 | 6 => j * x.count + p
  | 7 =>
    let m := x.c.map
    let xs := blockCoords p (sharedBlock m j x.comm.rank)
    let blk := dstBlock m x.comm.rank
    blockIndex ((mapPerm m).map fun k => xs.getD k 0) ((mapPerm m).map fun k => blk.getD k (0, 1))
  | _ => p

/-- Chunk steps over SRC (R304). -/
def CollCtx.srcSteps (x : CollCtx) : Nat := (x.nSrc + x.per - 1) / x.per

/-- Whether an operation reduces. -/
def CollCtx.reduces (x : CollCtx) : Bool := collRed x.c.word ≠ 0

/-- Elements of DST written so far of those that rank j sent, or under 0 of a reduction's. -/
def CollCtx.done (x : CollCtx) (j : Nat) : Nat := mapGet 0 x.c.wrote j

/-! ## Reductions (R298) -/

/-- Two values combined, and whether a NaN or infinity is born (R298). -/
def collCombine (red t : Nat) (x y : Nat) : Nat × Bool :=
  let w := 8 * collSize t
  match red, collFmt t with
  | 1, some f =>
    let u := decodeFp f x
    let v := decodeFp f y
    let c := (roundTo f .rne false (fadd .rne u v) 0).code
    let r := decodeFp f c
    (c, (r.isNaN && !u.isNaN && !v.isNaN) || (r.isInf && u.isFin && v.isFin))
  | 2, some f => ((roundTo f .rne false (fminV (decodeFp f x) (decodeFp f y)) 0).code, false)
  | 3, some f => ((roundTo f .rne false (fmaxV (decodeFp f x) (decodeFp f y)) 0).code, false)
  | 1, none => ((x + y) % 2 ^ w, false)
  | 2, none => (if t = 1 || t = 7 then min x y else if signed w y < signed w x then y else x, false)
  | 3, none => (if t = 1 || t = 7 then max x y else if signed w x < signed w y then y else x, false)
  | 4, _ => (x.land y, false)
  | 5, _ => (x.lor y, false)
  | _, _ => (x.xor y, false)

/-- One level of the tree over adjacent nodes (R224, R298). -/
def collLevel (red t : Nat) : List (Nat × Bool) → List (Nat × Bool)
  | a :: b :: xs =>
    let c := collCombine red t a.1 b.1
    (c.1, a.2 || b.2 || c.2) :: collLevel red t xs
  | xs => xs

/-- The tree over the members, until one node remains (R298). -/
def collTree (red t : Nat) : Nat → List (Nat × Bool) → Nat × Bool
  | 0, xs => xs.headD (0, false)
  | n + 1, xs => collTree red t n (collLevel red t xs)

/-! ## Ending a collective (R299, R302) -/

/-- The members other than this device. -/
def others (c : Comm) : List Nat := (c.members.zipIdx.filter fun m => m.2 ≠ c.rank).map fun m => m.1

/-- An arrival on the team's barrier, or on the barrier in the team's image (R299, R308). -/
def arriveColl (s : State) (tid b : Nat) (err : Bool) : Except Cause State :=
  match findTeam s tid, s.images.find? fun m => m.team.tid = tid with
  | some _, _ => arriveAt s tid b 0 false err
  | none, none => .ok s
  | none, some m =>
    let inside := { s with
      teams := s.teams ++ [m.team], groups := s.groups ++ m.groups, splits := s.splits ++ m.splits }
    match arriveAt inside tid b 0 false err with
    | .error c => .error c
    | .ok r =>
      let put := fun (q : Image) =>
        { q with
          team := (findTeam r tid).getD q.team
          groups := r.groups.filter fun g => g.tid = tid
          splits := r.splits.filter fun x => x.tid = tid }
      .ok { r with
        teams := s.teams.filter fun t => t.tid ≠ tid
        groups := r.groups.filter fun g => g.tid ≠ tid
        splits := r.splits.filter fun x => x.tid ≠ tid
        images := updBy (fun q => q.id = m.id) put r.images }

/-- The splits of a context that wait for a collective look again. -/
def wakeColl (s : State) (ctx : Nat) : State :=
  let mine := (s.teams.filter fun t =>
    match findLaunch s t.launch with | some l => l.ctx = ctx | none => false).map fun t => t.tid
  { s with splits := updBy (fun x => mine.contains x.tid && x.st = .parked && x.park = .coll) unpark s.splits }

/-- The value a collective signs (R303). -/
def collSignature (c : Coll) : Nat :=
  let op := collOp c.word
  let kind := mapKind c.map
  let v := if kind = 1 then crc32c ((c.map.drop 32).take 160) else mapNum c.map 16 8
  crc32c ([byteAt op 0, byteAt (collRed c.word) 0, byteAt (collType c.word) 0, byteAt kind 0] ++
    bytesOf 2 (if op = 1 || op = 2 then c.root else 0) ++ [0#8, 0#8] ++ bytesOf 8 v ++ bytesOf 8 c.seq)

/-- A collective leaves HANDSHAKE or RUNNING (R299, R302): a failure goes to ERRW; either way it arrives. SYNC makes
the completion an acquire at SYS scope (R301). -/
def endColl (s : State) (id : Nat) (fail : Option Cause) : State :=
  match findColl s id with
  | none => s
  | some c =>
    let s := updColl s id fun c => { c with st := if fail.isSome then .failed else .done, got := [], heard := [], edge := [] }
    let s := match fail with
      | some k => noteComm s c.handle k
      | none => s
    let s := match findTeam s c.tid with
      | some t => if collSync c.word then acquireL1 s t.core else s
      | none => s
    let s := match arriveColl s c.tid c.bar fail.isSome with
      | .ok s => s
      | .error k => noteComm s c.handle k
    tryRetire (wakeColl s c.ctx) c.tid

/-- Aborts sent to every other member. -/
def sendAborts (s : State) (c : Coll) : State :=
  match findComm s c.handle with
  | none => s
  | some q => (others q).foldl (fun s d => sendColl s d q.cls (.abort d q.key c.seq)) s

/-! ## Slots, turns and the handshake (R292, R302) -/

/-- Whether a communicator holds a slot on its sequencer, and the state with one given to it where that is possible
(R292). -/
def activate (s : State) (h : Nat) : Bool × State :=
  match findComm s h with
  | none => (false, s)
  | some q =>
    let take := fun (s : State) => updComm s h fun q => { q with activeSlot := true, used := s.clock }
    if q.activeSlot then (true, take s)
    else
      let act := s.comms.filter fun c => c.seqr = q.seqr && c.activeSlot
      if act.length < 16 then (true, take s)
      else
        match leastBy (fun c : Comm => c.used) (act.filter fun c => (collsOf s c.handle) = []) with
        | some v => (true, take (updComm s v.handle fun c => { c with activeSlot := false }))
        | none => (false, s)

/-- The handshake judged (R302): a different signature fails the collective; every one equal starts its steps, and a
credit for a chunk goes to every other member (R305), which tells it that HANDSHAKE has passed here. A BARRIER has nothing to
move and is then over. -/
def judge (s : State) (id : Nat) : State :=
  match findColl s id with
  | none => s
  | some c =>
    match findComm s c.handle with
    | none => s
    | some q =>
      if c.st ≠ .handshake then s
      else if c.sigs.any fun v => v.2 ≠ collSignature c then endColl s id (some collMismatch)
      else if (upTo q.nmem).all fun r => c.sigs.any fun v => v.1 = r then
        let x : CollCtx := ⟨c, q⟩
        let s := updColl s id fun c => { c with st := .running, since := s.clock }
        let s := (others q).foldl (fun s d => sendColl s d q.cls (.credit d q.key c.seq)) s
        if x.nSrc + x.nDst = 0 then endColl s id none else s
      else s

/-- A queued collective whose turn it is enters HANDSHAKE once its communicator has a slot (R292, R302). -/
def startOne (s : State) (c : Coll) : State :=
  let ahead := (collsOf s c.handle).any fun k => k.seq < c.seq
  if c.st ≠ .queued || ahead then s
  else
    match activate s c.handle, findComm s c.handle with
    | (true, s), some q =>
      let v := collSignature c
      let s := updColl s c.id fun c => { c with st := .handshake, since := s.clock, sigs := (q.rank, v) :: c.sigs }
      judge ((others q).foldl (fun s d => sendColl s d q.cls (.signature d q.key c.seq v)) s) c.id
    | (_, s), _ => s

/-- Every queued collective considered, oldest submission first. -/
def startColls (s : State) : State :=
  (sortBy (fun c : Coll => c.id) (s.colls.filter fun c => c.st = .queued)).foldl
    (fun s c => match findColl s c.id with | some c => startOne s c | none => s) s

/-! ## Gathers and submission (R296) -/

/-- A team on a core, or in an image (R308). -/
def anyTeam (s : State) (tid : Nat) : Option Team :=
  (findTeam s tid).or ((s.images.find? fun m => m.team.tid = tid).map fun m => m.team)

/-- A team updated wherever it is. -/
def updAnyTeam (s : State) (tid : Nat) (f : Team → Team) : State :=
  let s := updTeam s tid f
  { s with images := updBy (fun m => m.team.tid = tid) (fun m => { m with team := f m.team }) s.images }

/-- The groups of a team that have not exited, wherever it is. -/
def anyGroups (s : State) (tid : Nat) : List Group :=
  liveGroups s tid ++ ((s.images.filter fun m => m.team.tid = tid).flatMap fun m => m.groups.filter fun g => !g.exited)

/-- Whether every group of a team that has not exited is marked in a gather. -/
def gatherFull (s : State) (tid : Nat) (g : Gather) : Bool := (anyGroups s tid).all fun q => g.marked.contains q.gi

/-- Whether a communicator can take another collective (R292). -/
def queueRoom (s : State) (h : Nat) : Bool := (collsOf s h).length < 16

/-- A complete gather submitted (R296): it takes the communicator's next SEQ, and the node it belongs to becomes
non-replayable. -/
def submit (s : State) (tid : Nat) (g : Gather) : State :=
  match anyTeam s tid with
  | none => s
  | some t =>
    match findLaunch s t.launch with
    | none => s
    | some l =>
      let h := handleOf g.handle.1
      let s := updAnyTeam s tid fun t => { t with gathers := t.gathers.filter fun q => q.num ≠ g.num, sideEffect := true }
      let s := unreplay s l.id
      match commIn s l.ctx h with
      | none => wakeColl s l.ctx
      | some q =>
        let (id, s) := takeId s
        let map := if collOp g.word = 0 then List.replicate 256 0#8
          else layoutBytes t (tileBase (tileOf t (bits g.word.toNat 16 13)))
        let c : Coll :=
          { id := id, handle := h, seq := q.seq, tid := tid, launch := l.id, ordinal := t.ordinal, ctx := l.ctx
            word := g.word, root := rootOf g.handle.1, bar := bits g.word.toNat 20 17, map := map
            tag := siteTag l g.pc (groupOrdinal l t g.gi), since := s.clock }
        let s := updComm s h fun q => { q with seq := q.seq + 1 }
        wakeColl { s with colls := s.colls ++ [c] } l.ctx

/-- Whether a gather of a team can be submitted. -/
def canSubmit (s : State) (x : Nat × Gather) : Bool := gatherFull s x.1 x.2 && queueRoom s (handleOf x.2.handle.1)

/-- The open gathers with their teams, those of saved teams among them (R308). -/
def openGathers (s : State) : List (Nat × Gather) :=
  (s.teams ++ s.images.map fun m => m.team).flatMap fun t => t.gathers.map fun g => (t.tid, g)

/-- Every complete gather submitted whose communicator has room, and queued collectives started, over at most fuel
rounds (R292, R296). -/
def submitRounds : Nat → State → State
  | 0, s => startColls s
  | n + 1, s =>
    let s := startColls s
    if (openGathers s).any (canSubmit s) then
      submitRounds n ((openGathers s).foldl (fun s x => if canSubmit s x then submit s x.1 x.2 else s) s)
    else s

/-- Complete gathers and queued collectives take what room there is. -/
def submitReady (s : State) : State := submitRounds ((openGathers s).length + 1) s

/-! ## COLL (R294 to R296) -/

/-- Checks 4 to 6 of R295. -/
def collCheck (s : State) (e : Ex) (w : Word) (b t : Nat) (v : Word) : Option (Cause × Nat) :=
  let op := collOp w
  match commIn s e.lch.ctx (handleOf v) with
  | none => some (commInvalid, 0)
  | some q =>
    if handleReserved v || ((op = 1 || op = 2) && q.nmem ≤ rootOf v) then some (commInvalid, 0)
    else if (barOf e.tm b).exp = 0 then some (barState, b)
    else if op = 0 then none
    else if tileOf e.tm t = 0#64 then some (layoutFormat, 0)
    else if tileSpace (tileOf e.tm t) ≠ 4 ||
        !layoutOk (layoutBytes e.tm (tileBase (tileOf e.tm t))) op q.nmem (collSize (collType w)) then some (collFormat, 0)
    else none

/-- The execution marked in its gather, and the gather submitted where it is complete (R296). -/
def collMark (e : Ex) (w : Word) (h : Cell) (s : State) : Res :=
  let n := e.g.collOrd + 1
  let old := e.tm.gathers.find? fun g => g.num = n
  let wait : Res := .moved (setSplit s e (parkAs .coll 0))
  let g : Gather :=
    match old with
    | some g => { g with marked := g.marked ++ [e.g.gi], gi := e.g.gi, pc := e.x.pc }
    | none => ⟨n, w, h, [e.g.gi], e.g.gi, e.x.pc⟩
  if old.any fun g => g.word ≠ w || g.handle.1 ≠ h.1 then .trap (ctlTrap e w collOperands 0) s
  else if old.isNone && 4 ≤ e.tm.gathers.length then wait
  else if gatherFull s e.x.tid g && !queueRoom s (handleOf h.1) then wait
  else
    let put := fun (t : Team) => { t with gathers := (t.gathers.filter fun q => q.num ≠ n) ++ [g] }
    let s := setGroup (setTeam s e put) e fun q => { q with collOrd := n }
    .done (submitReady s)

/-- COLL (R294 to R296): each execution is a release, at DEV scope or with SYNC at SYS scope (R300, R301). -/
def execColl (o : BitVec 3) (b t : BitVec 4) (h : BitVec 6) (r y : BitVec 3) (z : BitVec 1) (s : State) :
    Host.Outcome State Fault Refusal :=
  let w := wordOf (.coll o b t h r y z)
  groupWord (.coll o b t h r y z) (fun e s =>
    let v := sreg e.g h.toNat
    if notAlone s e then .trap (ctlTrap e w collState 0) s
    else if v.2 = poison then .trap (escapeTrap e w e.lanes 5 (0xC0 + h.toNat)) s
    else
      match collCheck s e w b.toNat t.toNat v.1 with
      | some (c, i) => .trap (ctlTrap e w c i) s
      | none => if !released s e (if collSync w then 5 else 4) then .stall else collMark e w v s) s

/-! ## Chunk steps (R304, R305) -/

/-- A collective with its communicator. -/
def collAt (s : State) (id : Nat) : Option CollCtx :=
  match findColl s id with
  | none => none
  | some c => (findComm s c.handle).map fun q => ⟨c, q⟩

/-- What a member has sent so far. -/
def Coll.have_ (c : Coll) (r : Nat) : List Cell := ((c.got.find? fun g => g.1 = r).map fun g => g.2).getD []
/-- Cells added to what a member has sent. -/
def Coll.addGot (c : Coll) (r : Nat) (ws : List Cell) : Coll :=
  { c with got := (r, c.have_ r ++ ws) :: c.got.filter fun g => g.1 ≠ r }

/-- The elements of what a member sends that have come. -/
def CollCtx.here (x : CollCtx) (j : Nat) : Nat := (x.c.have_ j).length / x.cells

/-- Whether every member is known to have passed HANDSHAKE, so that DST may be written (R302). -/
def CollCtx.allPassed (x : CollCtx) : Bool := (upTo x.n).all fun r => r = x.comm.rank || x.c.passed.contains r

/-- The ranks whose elements this device writes to its DST one after another; a reduction's go under 0. -/
def CollCtx.senders (x : CollCtx) : List Nat := if x.reduces then [0] else upTo x.n

/-- How many elements of DST come from a sender in all, and how many can be written so far. -/
def CollCtx.due (x : CollCtx) (j : Nat) : Nat := if x.reduces then x.nDst else x.sent j x.comm.rank
def CollCtx.can (x : CollCtx) (j : Nat) : Nat :=
  if x.reduces then (upTo x.n).foldl (fun m r => min m (x.here r)) x.nDst else x.here j

/-- Whether every element of DST has been written. -/
def CollCtx.allWritten (x : CollCtx) : Bool := x.senders.all fun j => x.done j = x.due j

/-- The ranks that the next SRC chunk sends to. -/
def CollCtx.targets (x : CollCtx) : List Nat :=
  let is := ((upTo x.per).map fun k => x.c.steps * x.per + k).filter fun i => i < x.nSrc
  (upTo x.n).filter fun q => q ≠ x.comm.rank && is.any fun i => x.goesTo i q

/-- The credits a member has granted (R305). -/
def Coll.credit (c : Coll) (r : Nat) : Nat := mapGet 0 c.credits r

/-- Whether a step of a running collective can be made (R302, R305): 0 a chunk of SRC sent, against a credit of each receiver; j + 1
a chunk of DST written of what rank j sent, once every member has passed HANDSHAKE. -/
def CollCtx.can_ (x : CollCtx) (k : Nat) : Bool :=
  match k with
  | 0 => x.c.steps < x.srcSteps && x.targets.all fun q => 0 < x.c.credit q
  | j + 1 => x.senders.contains j && x.allPassed && x.done j < x.can j

/-- The steps of a collective that can be made; one whose requests are partly issued goes first. -/
def CollCtx.steps_ (x : CollCtx) : List Nat :=
  match x.c.now with
  | some (k, _) => [k]
  | none => (upTo (x.n + 1)).filter x.can_

/-- Whether a running collective has a step to make that nothing of its own holds back: no translation, no word that another
device still owes it, no regulator (R122, R305). In a faulted context only a step in flight goes on (R410). -/
def CollCtx.ready (s : State) (x : CollCtx) : Bool :=
  x.c.st = .running && !x.c.parked && x.steps_ ≠ [] && (ctxLive s x.c.ctx || x.c.now.isSome) && mayRequest s x.c.ctx (96 + x.comm.seqr) &&
  !awaits s (.coll x.c.id) x.c.steps true

/-- The key of what a sequencer has served last in a class. -/
def servedKey (c : Comm) : Nat := c.seqr * 4 + c.cls

/-- How far a communicator stands behind the one its sequencer served last in its class (R304). -/
def turnsAway (s : State) (c : Comm) : Nat := (c.handle + 4096 - mapGet 0 s.dev.served (servedKey c) - 1) % 4096

/-- The sequencer's order (R304): steps that have waited 16,384 of the model's steps or more, oldest first; then class; then
round-robin within the class. A context below its GUAR goes before any other (R122). -/
def CollCtx.order (s : State) (x : CollCtx) : Nat :=
  (if belowGuar s x.c.ctx (96 + x.comm.seqr) then 0 else 2 ^ 72) +
  (if s.clock - x.c.since ≥ 16384 then x.c.since else 2 ^ 64 * (x.comm.cls + 1) + turnsAway s x.comm)

/-- Whether a collective is within a chunk step. -/
def Coll.within (c : Coll) : Bool := c.st = .running && c.now.isSome

/-- Whether a collective's step is its sequencer's choice (R304): the step that the sequencer is within, else the first in order of
those that can be made. A step that waits for its regulator is not left for another's, be that one's context below its GUAR (DEDUCED,
log entry 43). -/
def chosen (s : State) (x : CollCtx) : Bool :=
  let all := (s.colls.filterMap fun c => collAt s c.id).filter fun y => y.comm.seqr = x.comm.seqr
  if all.any fun y => y.c.within then x.c.within
  else
    match leastBy (CollCtx.order s) (all.filter fun y => y.ready s) with
    | some y => y.c.id = x.c.id
    | none => false

/-- Cells received from other members taken into the communicator's buffers, as far as they are expected, with a new
credit for each sender (R305); who sends has passed HANDSHAKE. -/
def absorb (s : State) (x : CollCtx) (data : List (Nat × List Cell)) : State :=
  data.foldl (fun s d =>
    match findColl s x.c.id with
    | none => s
    | some c =>
      if c.st ≠ .running || d.1 = x.comm.rank || x.n ≤ d.1 || d.2 = [] then s
      else
        let room := x.cells * x.sent d.1 x.comm.rank - (c.have_ d.1).length
        let s := updColl s c.id fun c => { c.addGot d.1 (d.2.take room) with passed := d.1 :: c.passed.filter fun r => r ≠ d.1 }
        sendColl s (x.comm.members.getD d.1 0) x.comm.cls (.credit (x.comm.members.getD d.1 0) x.comm.key x.c.seq)) s

/-- The die of a sequencer, by a core on it (log entry 5). -/
def seqCore (seqr : Nat) : Nat := seqr / 2 * 48

/-- The core whose stores a collective sees first: its team's (R300). -/
def collCore (s : State) (x : CollCtx) : Nat :=
  match findTeam s x.c.tid with
  | some t => t.core
  | none => seqCore x.comm.seqr

/-- A sequencer's translation of an address, by its die's shared cache (R112). An address that is not canonical fails the collective with VA_CANON, which R297 does
not name (DESIGN CHOICE, log entry 24). -/
def collTarget (s : State) (x : CollCtx) (va : DWord) (kind : Nat) : Except EFail Target :=
  match translateDie s (dieOf (seqCore x.comm.seqr)) x.c.ctx va kind with
  | .ok t => .ok t
  | .fault c l => .error (.tr va kind l c)
  | .ats p => .error (.ats p va)
  | .miss => .error (.miss va kind)
  | .bad c => .error (.cause c)

/-- What a step's reading has come to: the machine, the words of other devices to be asked for, and the sectors touched. -/
structure Reading where
  st : State
  asks : List (Nat × Nat) := []
  secs : List Nat := []
  deriving DecidableEq, Repr

/-- One word of SRC (R297): POISON fails the collective. -/
def collWord (x : CollCtx) (va : DWord) (g : Reading) : Except EFail (Cell × Reading) :=
  match collTarget g.st x va 1 with
  | .error f => .error f
  | .ok t =>
    let g := { g with secs := g.secs ++ [homeKey g.st t / 32] }
    let pa := t.pa / 4 * 4
    let r : Cell × Reading :=
      if isRemote g.st t then
        match x.c.heard.find? fun h => h.part = x.c.steps && h.dev = t.dev && h.pa = pa with
        | some h => (if t.hostShared then (h.cell.1, hostTag) else h.cell, g)
        | none => ((0#32, 0#16), { g with asks := g.asks ++ [(t.dev, pa)] })
      else
        let r := readGlobal g.st x.c.launch (collCore g.st x) false va.toNat t
        (r.1, { g with st := r.2 })
    if r.1.2 = poison then .error (.cause poisonEscape) else .ok r

/-- The cells of element i of SRC. -/
def collElem (x : CollCtx) (i : Nat) (g : Reading) : Except EFail (List Cell × Reading) :=
  let a := BitVec.ofNat 64 (mapNum x.c.map 0 8 + x.e * i)
  match collWord x (a &&& ~~~3#64) g with
  | .error f => .error f
  | .ok (c, g) =>
    if x.e = 8 then
      match collWord x (a + 4#64) g with
      | .error f => .error f
      | .ok (d, g) => .ok ([c, d], g)
    else .ok ([(BitVec.ofNat 32 (c.1.toNat >>> (8 * (a.toNat % 4)) % 2 ^ (8 * min 4 x.e)), c.2)], g)

/-- Elements of SRC one after another, each with its index. -/
def collElems (x : CollCtx) : List Nat → Reading → Except EFail (List (Nat × List Cell) × Reading)
  | [], g => .ok ([], g)
  | i :: is, g =>
    match collElem x i g with
    | .error f => .error f
    | .ok (cs, g) =>
      match collElems x is g with
      | .error f => .error f
      | .ok (r, g) => .ok ((i, cs) :: r, g)

/-- A step that cannot be made (R112, R115, R297): it waits for a translation, stalls without a miss slot, or the collective fails
and every member is told. -/
def collStop (s : State) (x : CollCtx) (f : EFail) : State :=
  let park := fun (s : State) => updColl s x.c.id fun c => { c with parked := true, now := none }
  match f with
  | .miss va kind =>
    let core := seqCore x.comm.seqr
    if missSlot s.mem (dieOf core) x.c.ctx (va.toNat / 65536) then park (addWalk s x.c.ctx core va kind (.coll x.c.id) 0#64) else s
  | .tr va kind level c =>
    park (addFault s x.c.ctx (seqCore x.comm.seqr) va kind level x.comm.seqr c (.coll x.c.id) 0#64).2
  | .ats p va => park (addAts s x.c.ctx (seqCore x.comm.seqr) va p (.coll x.c.id) 0#64)
  | .cause c => submitReady (endColl (sendAborts s x.c) x.c.id (some c))

/-- The local part of a collective judged (R299): it is complete when SRC is sent, DST is written, and the devices written to
have acknowledged. -/
def endIfDone (s : State) (id : Nat) : State :=
  match collAt s id with
  | none => s
  | some x =>
    if x.c.st = .running && x.c.steps = x.srcSteps && x.allWritten && !awaits s (.coll id) 0 false then
      submitReady (endColl s id none)
    else s

/-- A step made: the next one begins to wait, and the last one ends the collective. -/
def stepDone (s : State) (x : CollCtx) : State :=
  endIfDone (updColl s x.c.id fun c => { c with since := s.clock, now := none }) x.c.id

/-- The indices of the SRC elements of the next chunk. -/
def CollCtx.srcChunk (x : CollCtx) : List Nat :=
  ((upTo x.per).map fun k => x.c.steps * x.per + k).filter fun i => i < x.nSrc

/-- The cells that the elements of a 64-byte line make (R285). -/
def CollCtx.lineCells (x : CollCtx) : Nat := x.cells * (64 / x.e)

/-- The elements of SRC that were read sent, a flit for each line, to every member that takes some of them, against a credit of each (R304, R305). -/
def sendChunk (s : State) (x : CollCtx) (es : List (Nat × List Cell)) : State :=
  let forRank := fun (q : Nat) => (es.filter fun e => x.goesTo e.1 q).flatMap fun e => e.2
  let s := x.targets.foldl (fun s q =>
    let s := updColl s x.c.id fun c => { c with credits := mapSet 0 c.credits q (c.credit q - 1) }
    let d := x.comm.members.getD q 0
    (payloadFlits d x.comm.key x.c.seq x.lineCells (forRank q)).foldl (fun s f => sendColl s d x.comm.cls f) s) s
  let s := updColl s x.c.id fun c =>
    { c.addGot x.comm.rank (forRank x.comm.rank) with
      steps := c.steps + 1, heard := c.heard.filter fun h => h.part ≠ c.steps }
  stepDone s x

/-- The cells of an element at a place in what a rank sent. -/
def CollCtx.cellsAt (x : CollCtx) (p : Nat × Nat) : List Cell := ((x.c.have_ p.1).drop (x.cells * p.2)).take x.cells

/-- The number that an element's cells hold. -/
def cellsNum (cs : List Cell) : Nat := cs.foldr (fun (c : Cell) (n : Nat) => c.1.toNat + 2 ^ 32 * n) 0

/-- An element of DST: what it writes, and whether a NaN or infinity was born in it (R297, R298). A copied element carries its
source words' tags, a reduced one takes the own tag. -/
def CollCtx.result (x : CollCtx) (j p : Nat) : Piece × Bool :=
  let addr := fun (i : Nat) => ((mapNum x.c.map 8 8 + x.e * i : Nat) : Int)
  if x.reduces then
    let r := collTree (collRed x.c.word) (collType x.c.word) 11
      ((upTo x.n).map fun j => (cellsNum (x.cellsAt (j, p)), false))
    (fixedPiece (addr p) (bytesOf x.e r.1) x.c.tag, r.2)
  else
    let cs := x.cellsAt (j, p)
    ({ addr := addr (x.dstIndex j p), bytes := bytesOf x.e (cellsNum cs)
       tags := (upTo x.e).map fun b => [(cs.getD (b / 4) (0#32, 0#16)).2] }, false)

/-- The chunk of DST that a write step of what rank j sent makes: its pieces and the births in it. -/
def CollCtx.dstChunk (x : CollCtx) (j : Nat) : List Piece × Nat :=
  let rs := ((upTo x.per).map fun k => x.done j + k).filter (fun p => p < x.can j) |>.map (x.result j)
  (rs.map fun r => r.1, (rs.filter fun r => r.2).length)

/-- The DST words of pieces: a copied word takes Summarise over the tags of all that supplies it (R130, R298). -/
def collWords (x : CollCtx) (ps : List Piece) : List WordOut :=
  let all := x.c.edge ++ ps
  ((ps.flatMap Piece.touches).dedup).map fun a =>
    let fixed := (all.filter fun p => p.inWord a).findSome? fun p => p.fixed
    ⟨a, (wordParts ps a).map fun b => (b.1, b.2.1), fixed.getD (summarise (wordSources all a))⟩

/-- Every DST word translated, before any is written. -/
def collTargets (s : State) (x : CollCtx) : List WordOut → Except EFail (List (WordOut × Target))
  | [] => .ok []
  | w :: ws =>
    match collTarget s x (BitVec.ofInt 64 w.addr) 2 with
    | .error f => .error f
    | .ok t =>
      match collTargets s x ws with
      | .error f => .error f
      | .ok ts => .ok ((w, t) :: ts)

/-- DST words performed at their homes, the team's core losing its copies (R136, R299), or sent to another device. -/
def collPut (x : CollCtx) (ts : List (WordOut × Target)) (s : State) : State :=
  let core := collCore s x
  let va := fun (w : WordOut) => (BitVec.ofInt 64 w.addr).toNat
  let here := ts.filter fun w => !isRemote s w.2
  let r := here.foldl (fun (acc : List (Nat × Target × Cell) × State) w =>
    let o := if w.1.bytes.length = 4 then ((0#32, 0#16), acc.2) else oldGlobal acc.2 x.c.launch core (va w.1) w.2
    (acc.1 ++ [(va w.1, w.2, (mergeBytes o.1.1 w.1.bytes, w.1.tag))], o.2)) ([], s)
  let s := writeGlobals r.2 x.c.launch core r.1
  let s := ((here.filter fun w => w.2.tier ≠ 2).map fun w => w.2.pa / 64).dedup.foldl (fun s l => dropLine s core l) s
  let post := fun (s : State) (w : WordOut × Target) (kind pa : Nat) (c : Cell) =>
    postWrite s x.c.ctx (.coll x.c.id) 0 w.2.dev kind pa [c]
  (ts.filter fun w => isRemote s w.2).foldl (fun s w =>
    if w.1.bytes.length = 4 then post s w 1 w.2.pa (mergeBytes 0#32 w.1.bytes, w.1.tag)
    else w.1.bytes.foldl (fun s b => post s w 2 (w.2.pa + b.1) (BitVec.ofNat 32 b.2.toNat, w.1.tag)) s) s

/-- A chunk of DST written (R297 to R299); births are counted. -/
def writeDst (s : State) (x : CollCtx) (j : Nat) (ts : List (WordOut × Target)) : State :=
  let ch := x.dstChunk j
  let all := x.c.edge ++ ch.1
  let s := collPut x ts s
  let s := updComm s x.c.handle fun q => { q with births := min 65535 (q.births + ch.2) }
  stepDone (updColl s x.c.id fun c =>
    { c with wrote := mapSet 0 c.wrote j (x.done j + ch.1.length)
             edge := all.filter fun p => p.touches.any fun a => (wordParts all a).length < 4 }) x

/-- The requests of a step issued, as many as the regulators allow; once all have, what it comes to (R122, R304). -/
def issueStep (s : State) (x : CollCtx) (k : Nat) (secs : List Nat) (act : State → State) : State :=
  let unit := 96 + x.comm.seqr
  let had := (x.c.now.map fun n => n.2).getD 0
  let qs := (lineReqs s secs).drop had
  let r := issueLines (fun _ => true) x.c.ctx unit qs s
  let s1 := updDev r.2 fun d => { d with served := mapSet 0 d.served (servedKey x.comm) x.comm.handle }
  if r.1 = qs.length then
    let s2 := act s1
    chargeBacks s s2 x.c.ctx unit
  else updColl s1 x.c.id fun c => { c with now := some (k, had + r.1) }

/-- Step k of a collective: SRC is read, with what other devices still owe asked for first (R287), and sent; or DST is written,
where POISON fails the collective (R297). -/
def collStep (s : State) (x : CollCtx) (k : Nat) : State :=
  match k with
  | 0 =>
    (match collElems x x.srcChunk { st := s } with
     | .error f => collStop s x f
     | .ok (_, g) =>
       if g.asks ≠ [] then askWords s x.c.ctx (.coll x.c.id) x.c.steps g.asks
       else issueStep s x 0 g.secs fun s1 =>
         match collElems x x.srcChunk { st := s1 } with
         | .error f => collStop s1 x f
         | .ok (es, g) => sendChunk g.st x es)
  | j + 1 =>
    let ws := collWords x (x.dstChunk j).1
    match collTargets s x ws with
    | .error f => collStop s x f
    | .ok ts =>
      if ws.any fun w => w.tag = poison then collStop s x (.cause poisonEscape)
      else issueStep s x k (ts.map fun t => homeKey s t.2 / 32) fun s1 => writeDst s1 x j ts

/-- CHUNK_STEP (R304, R305): what other members sent of collective arg.a is taken in, and its step arg.b (0 SRC, j + 1 what rank j
sent) is made where it can be and the collective is the sequencer's choice. -/
def execChunkStep (s : State) : Host.Outcome State Fault Refusal :=
  .next <|
    match collAt s s.arg.a with
    | none => s
    | some x0 =>
      let s1 := absorb s x0 s.arg.data
      match collAt s1 s.arg.a with
      | none => s1
      | some x => if x.ready s1 && x.steps_.contains s.arg.b && chosen s1 x then collStep s1 x s.arg.b else s1

/-! ## Messages of the other members (R302, R305) -/

/-- SIGNATURE_RECEIPT (R302): the signature of rank arg.b for collective arg.a; a signature that comes before this
device's turn is kept. -/
def execSignatureReceipt (s : State) : Host.Outcome State Fault Refusal :=
  .next <|
    match collAt s s.arg.a with
    | none => s
    | some x =>
      if (x.c.st ≠ .queued && x.c.st ≠ .handshake) || x.n ≤ s.arg.b || x.c.sigs.any (fun v => v.1 = s.arg.b) then s
      else
        let put := fun (c : Coll) => { c with sigs := c.sigs ++ [(s.arg.b, s.arg.v.toNat)], since := s.clock }
        submitReady (judge (updColl s x.c.id put) x.c.id)

/-- CHUNK_CREDIT (R305): rank arg.b, which has passed HANDSHAKE, grants collective arg.a a credit. -/
def execChunkCredit (s : State) : Host.Outcome State Fault Refusal :=
  .next <|
    match collAt s s.arg.a with
    | none => s
    | some x =>
      if !x.c.live || x.n ≤ s.arg.b then s
      else updColl s x.c.id fun c =>
        { c with credits := mapSet 0 c.credits s.arg.b (c.credit s.arg.b + 1)
                 passed := s.arg.b :: c.passed.filter fun r => r ≠ s.arg.b }

/-- COLL_ABORT (R302): an abort received fails collective arg.a. -/
def execCollAbort (s : State) : Host.Outcome State Fault Refusal :=
  .next <|
    match findColl s s.arg.a with
    | none => s
    | some c =>
      if c.st = .handshake || c.st = .running then submitReady (endColl s c.id (some collAbortCause)) else s

/-- SEQUENCER_TIMEOUT (R302): collective arg.a has made no progress for the sequencer timeout. -/
def execSequencerTimeout (s : State) : Host.Outcome State Fault Refusal :=
  .next <|
    match findColl s s.arg.a with
    | none => s
    | some c =>
      if c.st = .handshake || c.st = .running then submitReady (endColl s c.id (some collTimeout)) else s

end Sys2Proof.Machine
end

