-- ==== Sys2Proof/Machine/Control.lean ====
section
/-! DEFINITION. Control flow (R323 to R333): branches of a whole split, BRD and its forks, REJOIN with pops, waits,
merges and stalemate, YIELD, EXIT and the exit of a group, and the ENALL bracket. -/

namespace Sys2Proof.Machine

def unifBranch : Cause := 0x60#8
def splitSpill : Cause := 0x61#8
def splitStalemate : Cause := 0x62#8

/-! ## Branches that move the whole split (R323, R324) -/

/-- The target of an F-B word (R53). -/
def branchTarget (e : Ex) (o : BitVec 16) : DWord := e.x.pc + 4#64 * o.signExtend 64

/-- A jump at which some active lanes would go elsewhere: UNIF, and UNIF_BRANCH after the word where the launch sets
UNIFTRAP (R323, R324). -/
def unifJump (s : State) (e : Ex) (w : Word) (pc : DWord) (diff : List Nat) : Res :=
  let s := noteUnif s e (diff ≠ [])
  if diff ≠ [] && e.lch.unifTrap then
    .after pc { cause := unifBranch, pc := pc, mask := maskOf diff, info0 := loWord e.x.pc, info1 := hiWord e.x.pc
                info2 := w } s
  else .jump pc s

/-- BR (R323). -/
def execBr (o : BitVec 16) (s : State) : Host.Outcome State Fault Refusal :=
  groupWord (.br o) (fun e s => .jump (branchTarget e o) s) s

/-- BRU (R323): the lowest active lane decides; with A empty it is not taken. -/
def execBru (n : BitVec 1) (p : BitVec 3) (o : BitVec 16) (s : State) : Host.Outcome State Fault Refusal :=
  groupWord (.bru n p o) (fun e s =>
    let val := fun (i : Nat) => predBit e.g p.toNat i != flag n
    let taken := match e.low with | some j => val j | none => false
    let diff := e.lanes.filter fun i => val i ≠ taken
    unifJump (branchBit s e taken) e (wordOf (.bru n p o)) (if taken then branchTarget e o else e.x.pc + 4#64) diff) s

/-- BRZ (R323). -/
def execBrz (n : BitVec 1) (o : BitVec 16) (s : State) : Host.Outcome State Fault Refusal :=
  groupWord (.brz n o) (fun e s =>
    let taken := (e.lanes = []) != flag n
    .jump (if taken then branchTarget e o else e.x.pc + 4#64) (branchBit s e taken)) s

/-- CALL (R324). -/
def execCall (c : BitVec 8) (o : BitVec 16) (s : State) : Host.Outcome State Fault Refusal :=
  groupWord (.call c o) (fun e s =>
    .jump (branchTarget e o) (putPair s e c.toNat (e.x.pc + 4#64) (own e))) s

/-- The body of JMPI and RET (R324); kind is that of the ADDR packet (R437). -/
def jumpPair (i : Instr) (kind : Nat) (a : Nat) (e : Ex) (s : State) : Res :=
  let w := wordOf i
  let tgt := fun (l : Nat) => (operand64 e false a l).1
  let bad := e.lanes.filter fun l => anyPoison e a l
  let lead := if isS a then some 0 else if e.lanes = [] then lowLane e.x.lset else e.low
  match lead with
  | none => .trap (ctlTrap e w maskState 0) s
  | some l =>
    if bad ≠ [] then .trap (escapeTrap e w bad 2 a) s
    else if (tgt l).toNat % 4 ≠ 0 then scalarFault s e w addrMisalign (tgt l)
    else
      let s := trace s e 2 (bytesOf 8 (tgt l).toNat ++ bytesOf 1 kind)
      unifJump s e w (tgt l) (if isS a then [] else e.lanes.filter fun j => tgt j ≠ tgt l)

/-- JMPI (R324). -/
def execJmpi (a : BitVec 8) (s : State) : Host.Outcome State Fault Refusal :=
  groupWord (.jmpi a) (jumpPair (.jmpi a) 0 a.toNat) s
/-- RET (R324). -/
def execRet (a : BitVec 8) (s : State) : Host.Outcome State Fault Refusal :=
  groupWord (.ret a) (jumpPair (.ret a) 1 a.toNat) s

/-! ## Join sets and the spill area (R320, R321) -/

/-- JOIN[k] of a group. -/
def joinSet (g : Group) (k : Nat) : List Nat := g.joins.getD k []
/-- Ranks added to JOIN[k]. -/
def joinAdd (g : Group) (k : Nat) (rs : List Nat) : Group :=
  { g with joins := g.joins.set k (rs.foldl (fun l r => if l.contains r then l else l ++ [r]) (joinSet g k)) }
/-- A rank removed from JOIN[k]. -/
def joinDrop (g : Group) (k r : Nat) : Group := { g with joins := g.joins.set k ((joinSet g k).filter fun q => q ≠ r) }
/-- A rank removed from every join set. -/
def joinClear (g : Group) (r : Nat) : Group := { g with joins := g.joins.map fun l => l.filter fun q => q ≠ r }

/-- The spill slots that stacks of given lengths need (R320). -/
def spillNeed (lens : List Nat) : Nat := (lens.map fun n => n - 4).foldl (· + ·) 0

/-- Whether the group's spill area holds its stacks with one split's stack of another length. -/
def spillFits (s : State) (e : Ex) (len : Nat) : Bool :=
  let rest := (splitsOf s e.x.tid e.x.gi).filter fun x => x.rank ≠ e.x.rank
  spillNeed (len :: rest.map fun x => x.stack.length) ≤ e.lch.hdr.spill / 16

/-! ## BRD (R325, R326) -/

/-- What BRD makes of a split: its taken and fallen lanes, the lanes of a new split, and the lanes deferred. -/
structure Fork where
  t : DWord
  f : DWord
  fm : DWord
  fd : DWord
  rank : Option Nat
  deriving DecidableEq, Repr

/-- The lanes of a group slice. -/
def sliceLanes (k : Nat) : DWord := 0xF#64 <<< (4 * k)

/-- The fork of BRD under a predicate and polarity (R325). -/
def forkOf (s : State) (e : Ex) (p : Nat) (n : Bool) : Fork :=
  let pv := if n then ~~~(pred e.g p) else pred e.g p
  let q := e.x.lset &&& pv
  let t := e.x.amask &&& q
  let f := e.x.amask &&& ~~~q
  let h := fun (k : Nat) => allLanes e.x &&& sliceLanes k
  let full := (upTo 16).filter fun k => h k ≠ 0#64 && h k &&& ~~~f = 0#64
  let fm := full.foldl (fun m k => m ||| h k) 0#64
  let live := (splitsOf s e.x.tid e.x.gi).map fun x => x.rank
  let free := firstIdx e.lch.hdr.splits fun r => !live.contains r
  if fm ≠ 0#64 && free.isSome then ⟨t, f, fm, f &&& ~~~fm, free⟩ else ⟨t, f, 0#64, f, none⟩

/-- BRD (R325, R326). -/
def execBrd (k : BitVec 4) (n : BitVec 1) (p : BitVec 3) (o : BitVec 16) (s : State) :
    Host.Outcome State Fault Refusal :=
  let w := wordOf (.brd k n p o)
  groupWord (.brd k n p o) (fun e s =>
    match strictCause e with
    | some c => .trap (ctlTrap e w c 0) s
    | none =>
      let fk := forkOf s e p.toNat (flag n)
      let next := e.x.pc + 4#64
      if fk.t = 0#64 then .done (branchBit s e false)
      else if fk.f = 0#64 then .jump (branchTarget e o) (branchBit s e true)
      else
        let en : DefEntry := { lanes := fk.fd, pc := next, mark := k.toNat, arr := false }
        let stack := if fk.fd = 0#64 then e.x.stack else en :: e.x.stack
        if !spillFits s e stack.length then .trap (ctlTrap e w splitSpill k.toNat) s
        else
          let s := branchBit s e true
          let s := setSplit s e fun x => { x with lset := fk.t, amask := fk.t, stack := stack }
          let s := match fk.rank with
            | none => s
            | some r =>
              let id := e.g.entries.getD r r
              let new : Split :=
                { tid := e.x.tid, gi := e.x.gi, rank := r, id := BitVec.ofNat 6 id, pc := next, lset := fk.fm
                  amask := fk.fm }
              let s := { s with splits := s.splits ++ [new] }
              let s := shareOrder (renewRank s e.x.tid e.x.gi r) e.x.tid e.x.gi [e.x.rank] r
              let s := setGroup s e fun g => joinAdd g k.toNat [e.x.rank, r]
              trace s e 3 (bytesOf 2 id ++ bytesOf 2 (sliceMask fk.fm).toNat ++
                bytesOf 4 (next - e.lch.code).toNat)
          let s := reslice s e.x.tid e.x.gi e.width
          let s := if fk.fd = 0#64 then s else maskPacket s e 1 en
          .jump (branchTarget e o) s) s

/-! ## Merging (R327, R328) -/

/-- A waiting split continues behind its REJOIN, its latch consumed. -/
def passRejoin (x : Split) : Split :=
  { x with pc := x.pc + 4#64, st := .ready, imm := 0#32, mod := 0#32, hint := 0#32 }

/-- SPLIT_SPILL or SPLIT_STALEMATE raised at the REJOIN of several splits, in ascending entry index (R328, R329, R406). -/
def rejoinTraps (s : State) (xs : List Split) (c : Cause) : State :=
  (sortBy (fun x : Split => x.id.toNat) xs).foldl (fun s x =>
    match exAt s x.tid x.gi x.rank with
    | some e => deliverTrap s e (ctlTrap e (wordOf (.rejoin (BitVec.ofNat 4 x.wm))) c x.wm)
    | none => s) s

/-- The merge of the members of JOIN[k], in ascending entry index, with the survivor first (R328). -/
def mergeSplits (s : State) (k : Nat) (m : Split) (rest : List Split) : State :=
  match exAt s m.tid m.gi m.rank with
  | none => s
  | some e =>
    let stack := (rest.reverse.flatMap fun x => x.stack) ++ m.stack
    let gone := rest.map fun x => x.rank
    let rem := (splitsOf s m.tid m.gi).filter fun x => x.rank ≠ m.rank && !gone.contains x.rank
    if e.lch.hdr.spill / 16 < spillNeed (stack.length :: rem.map fun x => x.stack.length) then
      rejoinTraps s (m :: rest) splitSpill
    else
      let s := rest.foldl (fun s x => match exAt s x.tid x.gi x.rank with | some f => flushBranch s f | none => s) s
      let lanes := rest.foldl (fun (l : DWord) x => l ||| x.lset) m.lset
      let s := updSplit s m.tid m.gi m.rank fun x => { passRejoin x with lset := lanes, amask := lanes, stack := stack }
      let s := { s with splits := s.splits.filter fun x => !(x.tid = m.tid && x.gi = m.gi && gone.contains x.rank) }
      let heir := fun (l : List Nat) => (l.map fun r => if gone.contains r then m.rank else r).dedup
      let s := updGroup s m.tid m.gi fun g => { g with joins := (g.joins.map heir).set k [] }
      let own := fun (f : Flight) => f.tid = m.tid && f.gi = m.gi && gone.contains f.rank
      let s := updMem s fun q => { q with flights := updBy own (fun f => { f with rank := m.rank }) q.flights }
      let s := shareOrder s m.tid m.gi gone m.rank
      let s := updTeam s m.tid fun t => { t with retWords := t.retWords + rest.length + 1 }
      let s := reslice s m.tid m.gi e.width
      let freed := rest.foldl (fun (n : Nat) x => n + 2 ^ x.id.toNat) 0
      trace s e 5 (bytesOf 8 lanes.toNat ++ bytesOf 8 freed ++ bytesOf 1 k)

/-- JOIN[k] evaluated (R327): its live members all wait on k, and one alone is released, or they merge. -/
def evalJoin (s : State) (tid gi k : Nat) : State :=
  match findGroup s tid gi with
  | none => s
  | some g =>
    let xs := sortBy (fun x : Split => x.id.toNat) ((joinSet g k).filterMap fun r => findSplit s tid gi r)
    if !(xs.all fun x => x.st = .waiting && x.wm = k) then s
    else
      match xs with
      | [] => s
      | [x] =>
        let s := updGroup s tid gi fun g => joinDrop g k x.rank
        let s := updSplit s tid gi x.rank passRejoin
        updTeam s tid fun t => { t with retWords := t.retWords + 1 }
      | x :: rest => mergeSplits s k x rest

/-- Every join set of a group evaluated, whenever a split of it enters WAITING or ends (R327). -/
def evalJoins (s : State) (tid gi : Nat) : State := (upTo 16).foldl (fun s k => evalJoin s tid gi k) s

/-! ## REJOIN (R327) -/

/-- The stack after an arrival at mark k: the lanes join X's arrived entry of that mark, or a new one on top. -/
def arriveEntry (stack : List DefEntry) (k : Nat) (lanes pc : DWord) : List DefEntry :=
  if stack.any fun en => en.arr && en.mark = k then
    updBy (fun en => en.arr && en.mark = k) (fun en => { en with lanes := en.lanes ||| lanes }) stack
  else { lanes := lanes, pc := pc, mark := k, arr := true } :: stack

/-- The first element of a list that a test selects, and the list without it. -/
def takeFirst {α : Type} (p : α → Bool) : List α → Option (α × List α)
  | [] => none
  | x :: xs => if p x then some (x, xs) else (takeFirst p xs).map fun r => (r.1, x :: r.2)

/-- The state of a split after a pop: DEFERRED while an arrived entry is on its stack (R322). -/
def afterPop (stack : List DefEntry) : SplitState := if stack.any fun en => en.arr then .deferred else .ready

/-- The body of REJOIN #k (R327). Its third case makes the split READY, as R327 has it, whatever arrived entries of other marks it
holds (log entry 44). -/
def rejoinBody (k : Nat) (w : Word) (e : Ex) (s : State) : Res :=
  match strictCause e with
  | some c => .trap (ctlTrap e w c 0) s
  | none =>
    match takeFirst (fun (en : DefEntry) => !en.arr && en.mark = k) e.x.stack with
    | some (en, rest) =>
      let s := setSplit s e fun x =>
        { x with lset := en.lanes, amask := en.lanes, st := .deferred, stack := arriveEntry rest k x.lset x.pc }
      .jump en.pc (maskPacket (reslice s e.x.tid e.x.gi e.width) e 2 en)
    | none =>
      let arrived := e.x.stack.filter fun en => en.arr && en.mark = k
      let lanes := arrived.foldl (fun (l : DWord) en => l ||| en.lanes) e.x.lset
      let s := setSplit s e fun x =>
        { x with lset := lanes, amask := lanes, stack := x.stack.filter fun en => !(en.arr && en.mark = k) }
      let s := match arrived.head? with
        | some en => maskPacket s e 2 en
        | none => s
      let members := joinSet e.g k
      let alone := (members.filter fun r => r ≠ e.x.rank).all fun r => (findSplit s e.x.tid e.x.gi r).isNone
      if !members.contains e.x.rank || alone then
        .done (setGroup (setSplit s e fun x => { x with st := .ready }) e fun g => joinDrop g k e.x.rank)
      else .moved (evalJoins (setSplit s e fun x => { x with st := .waiting, wm := k }) e.x.tid e.x.gi)

/-- REJOIN (R327). -/
def execRejoin (k : BitVec 4) (s : State) : Host.Outcome State Fault Refusal :=
  groupWord (.rejoin k) (rejoinBody k.toNat (wordOf (.rejoin k))) s

/-- SPLIT_STALEMATE (R329) of group arg.b of team arg.a: every live split waits, and for each a live member of its join
set waits on another mark. -/
def execSplitStalemate (s : State) : Host.Outcome State Fault Refusal :=
  .next <|
    match findGroup s s.arg.a s.arg.b with
    | none => s
    | some g =>
      let xs := splitsOf s s.arg.a s.arg.b
      let crossed := fun (x : Split) => (joinSet g x.wm).any fun r => xs.any fun y => y.rank = r && y.wm ≠ x.wm
      let core := ((findTeam s s.arg.a).map fun t => t.core).getD deviceCore
      if xs ≠ [] && xs.all fun x => x.st = .waiting && crossed x then packetDone s (rejoinTraps (tidy s) xs splitStalemate) core
      else s

/-! ## YIELD and EXIT (R330, R331) -/

/-- YIELD (R330): what it asks of the scheduler is timing. -/
def execYield (s : State) : Host.Outcome State Fault Refusal := groupWord .yield (fun _ s => .done s) s

/-- An entry inserted below every pending entry of its mark. -/
def insertBelow (en : DefEntry) (stack : List DefEntry) : List DefEntry :=
  let isPending := fun (x : DefEntry) => !x.arr && x.mark = en.mark
  match (upTo stack.length).reverse.find? fun j => (stack[j]?).any isPending with
  | some j => stack.take (j + 1) ++ en :: stack.drop (j + 1)
  | none => en :: stack

/-- YIELD.D (R330, R326). -/
def execYieldD (s : State) : Host.Outcome State Fault Refusal :=
  let w := wordOf .yieldD
  groupWord .yieldD (fun e s =>
    match strictCause e with
    | some c => .trap (ctlTrap e w c 0) s
    | none =>
      match takeFirst (fun (en : DefEntry) => !en.arr) e.x.stack with
      | none => .done s
      | some (en, rest) =>
        let back : DefEntry := { lanes := e.x.lset, pc := e.x.pc + 4#64, mark := en.mark, arr := false }
        let stack := match takeFirst (fun (x : DefEntry) => !x.arr && x.mark = en.mark) rest with
          | some _ => insertBelow back rest
          | none =>
            let j := (e.x.stack.findIdx? fun x => x = en).getD 0
            rest.take j ++ back :: rest.drop j
        let s := setSplit s e fun x => { x with lset := en.lanes, amask := en.lanes, stack := stack, st := afterPop stack }
        .jump en.pc (maskPacket (reslice s e.x.tid e.x.gi e.width) e 3 en)) s

/-- A group exits with its last split (R331): the grid barrier (R381), the team's gathers (R296), its parked sequencer
(R247) and the team's retirement (R153) are looked at again. -/
def exitGroup (s : State) (tid gi lid : Nat) : State :=
  let s := updGroup s tid gi fun g => { g with exited := true }
  tryRetire (streamOrphan (submitReady (evalGrid s lid)) tid) tid

/-- A split ends (R331). -/
def endSplit (s : State) (e : Ex) : State :=
  let s := flushBranch s e
  let tid := e.x.tid
  let gi := e.x.gi
  let s := updTeam s tid fun t => { t with retWords := t.retWords + 1 }
  let s := { s with splits := s.splits.filter fun x => !(x.tid = tid && x.gi = gi && x.rank = e.x.rank) }
  let s := setGroup s e fun g => joinClear g e.x.rank
  let s := evalJoins (reslice s tid gi e.width) tid gi
  if splitsOf s tid gi = [] then exitGroup s tid gi e.lch.id else s

/-- EXIT (R331). -/
def execExit (s : State) : Host.Outcome State Fault Refusal :=
  let w := wordOf .exit
  groupWord .exit (fun e s =>
    if e.x.br then .trap (ctlTrap e w bracketState 0) s
    else
      let left := e.x.lset &&& ~~~e.x.amask
      let s1 := setSplit s e fun x => { x with lset := left, amask := 0#64 }
      if left ≠ 0#64 then
        let s1 := reslice s1 e.x.tid e.x.gi e.width
        .done (if e.x.amask = 0#64 then s1 else maskPacket s1 e 0 {})
      else
        match e.x.stack with
        | en :: rest =>
          let s1 := setSplit s1 e fun x =>
            { x with lset := en.lanes, amask := en.lanes, stack := rest, st := afterPop rest }
          .jump en.pc (maskPacket (reslice s1 e.x.tid e.x.gi e.width) e 2 en)
        | [] => .moved (endSplit s1 e)) s

/-! ## Brackets (R333) -/

/-- ENALL (R333). -/
def execEnall (s : State) : Host.Outcome State Fault Refusal :=
  groupWord .enall (fun e s =>
    if e.x.br then .trap (ctlTrap e (wordOf .enall) bracketState 0) s
    else
      let s := setSplit s e fun x => { x with ba := x.amask, amask := x.lset, br := true }
      .done (if e.x.amask = e.x.lset then s else maskPacket s e 0 {})) s

/-- ENRES (R333). -/
def execEnres (s : State) : Host.Outcome State Fault Refusal :=
  groupWord .enres (fun e s =>
    if !e.x.br then .trap (ctlTrap e (wordOf .enres) bracketState 0) s
    else
      let a := e.x.ba &&& e.x.lset
      let s := setSplit s e fun x => { x with amask := a, br := false }
      .done (if e.x.amask = a then s else maskPacket s e 0 {})) s

end Sys2Proof.Machine
end

