-- ==== Sys2Proof/Machine/Mailbox.lean ====
section
/-! DEFINITION. The Keeper mailbox (R452, R453): its request and response areas, and how a command is answered. -/

namespace Sys2Proof.Machine

/-- Bytes as a map of the mailbox's request or response area. -/
def areaOf (bs : List Byte) : List (Nat × Byte) :=
  mapSetMany 0#8 [] ((bs.take 256).zipIdx.map fun b => (b.2, b.1))

/-- The 256 bytes of an area. -/
def areaBytes (m : List (Nat × Byte)) : List Byte := (upTo 256).map fun k => mapGet 0#8 m k

/-- A field of a request, as a number. -/
def reqNum (r : List Byte) (lo n : Nat) : Nat := numOf ((r.drop lo).take n)

/-- A response (R453): data from byte 8 upward, the rest 0. -/
def responseOf (r : List Byte) (result : Nat) (data : List Byte) : List Byte :=
  r.take 1 ++ bytesOf 1 result ++ bytesOf 2 0 ++ (r.drop 4).take 4 ++ data

/-- The bytes of a response that is undefined, because the host changed the request while Keeper worked on it (R12, R452): free
values. -/
def freeResponse (s : State) : List Byte := (upTo 32).flatMap fun k => bytesOf 8 (Config.freeValue (s.fresh + k)).toNat

/-- Keeper's answer to the request in the mailbox (R452, R453): the response, done, not busy, and MSI-X vector 0. -/
def answer (s : State) (result : Nat) (data : List Byte) : State :=
  let bytes := if s.dev.spoiled then freeResponse s else responseOf (areaBytes s.dev.request) result data
  let s := updDev { s with fresh := if s.dev.spoiled then s.fresh + 32 else s.fresh } fun d =>
    { d with response := areaOf bytes, busy := false, done := true, result := result, spoiled := false, going := false }
  sendMsg s (.msix 0)

/-- How a command's work ends for now. -/
inductive Reply where
  | done (result : Nat) (data : List Byte) (s : State)
  | wait (s : State)
  deriving DecidableEq, Repr

/-- Whether the bytes of a request that no range names are 0 (R453); a range is its first byte and its length. -/
def onlyNamed (r : List Byte) (named : List (Nat × Nat)) : Bool :=
  (upTo 256).all fun k =>
    k = 0 || (4 ≤ k && k < 8) || named.any (fun p => p.1 ≤ k && k < p.1 + p.2) || r.getD k 0#8 = 0#8

/-- Whether a request names a command. -/
def isCmd (k : Nat) (r : List Byte) : Bool := reqNum r 0 1 = k

/-- The command of a DOORBELL carried out, where its request is the one wanted (R452): Keeper reads the request area once busy is
set; a command that waits is taken up again while busy. Before READY there is none (R446). -/
def command (want : List Byte → Bool) (body : List Byte → Bool → State → Reply) (s : State) : State :=
  let r := areaBytes s.dev.request
  if !s.dev.ready || !s.dev.busy || !want r then s
  else
    match body r s.dev.going s with
    | .done k data t => answer t k data
    | .wait t => updDev t fun d => { d with going := true }

end Sys2Proof.Machine
end

