-- ==== Sys2Proof/Machine/Reply.lean ====
section
/-! DEFINITION. What comes back to the cores: replies and acknowledgements (R89, R90, R210, R287, R288), walks and
Keeper's fault service (R112, R115), ATS and PRI (R114), re-checks of monitored words (R106), host and Florix requests
(R43, R287), and the packets a group owes its trace ring (R437). -/

namespace Sys2Proof.Machine

/-! ## Replies -/

/-- The register cells of the lanes a remote home answers, in order; a word that does not come is 0 tagged POISON
(R288, R289), one of a HOSTSHARED page reads HOST (R43), and a register that takes the own site takes it whatever came (R48). -/
def fillCells : List Fill → List Cell → List (Bool × Nat × Cell)
  | [], _ => []
  | f :: fs, ws =>
    let word := fun (c : Cell) => if f.host then ((c.1, hostTag) : Cell) else c
    let mine := (upTo f.words).map fun k => ((ws[k]?).map word).getD (0#32, poison)
    let regs := loadRegs f.w f.off mine
    let cells := if f.words = 0 then [] else
      destKeys f.reg f.lane (if f.owned then regs.map fun c => (c.1, f.site) else loadTags f.rule f.site f.olds regs)
    (cells.map fun c => (isV f.reg, c)) ++ fillCells fs (ws.drop f.words)

/-- The events of the lanes a remote home answers (R396, R97). -/
def fillEvents (fs : List Fill) (evs : List Nat) : List (Nat × Word) :=
  (fs.zipIdx.map fun f => (f.1.lane, BitVec.ofNat 32 (evs.getD f.2 0 % 256))).filter fun e => e.1 < 64 && e.2 ≠ 0#32

/-- Written register cells as a watchpoint sees them. -/
def regFx (cells scalars : List (Nat × Cell)) : List Fx :=
  (cells.map fun c => Fx.reg (c.1 / 64) (c.1 % 64) c.2.2) ++ scalars.map fun c => Fx.reg (c.1 + 0xC0) 64 c.2.2

/-- A load that watchpoints have waited for completes: they are judged on what it read and wrote, before its split's next word
(R440, R441). -/
def landWatch (s : State) (f : Flight) (cells scalars : List (Nat × Cell)) : State :=
  if f.fx = [] then s
  else
    match exAt s f.tid f.gi f.rank with
    | none => s
    | some e =>
      judgeWatches { tidy s with fx := f.fx ++ regFx cells scalars } { e with x := { e.x with pc := f.pc } } f.word e.x.pc none

/-- An operation comes back (R89, R90, R210): its cells are written, its events recorded, its counter falls and its
request number is free. The words a store left unregistered are registered with their homes, and an acquire at CLU scope or wider
drops the core's non-owned words (R375). An acquire sees what has been released by then (R372). A watchpoint's packet that meets
a translation fault keeps the operation in flight (R464). -/
def landFlight (s : State) (f : Flight) (ws : List Cell) (evs : List Nat) : State :=
  let got := fillCells f.fills ws
  let cells := f.cells ++ (got.filter fun c => c.1).map fun c => c.2
  let scalars := f.scalars ++ (got.filter fun c => !c.1).map fun c => c.2
  let s0 := tidy s
  let s := updGroup s0 f.tid f.gi fun g =>
    recordBits (writeScalars (writeCells g cells) scalars) (f.events ++ fillEvents f.fills (if f.status then evs else []))
  let s := updMem s fun m => { m with flights := m.flights.filter fun q => q.id ≠ f.id }
  let s := f.unreg.foldl (fun s w => registerWord s w.1 w.2) s
  let s := match f.counter with
    | some k => countDown s f.tid f.gi k
    | none => s
  let s := match findTeam s f.tid with
    | some t => if f.inval then acquireL1 s t.core else s
    | none => s
  let s := if f.acquire then seeReleased s (f.tid, f.gi, f.rank) else s
  let s := landWatch s f cells scalars
  match s.devFail, findTeam s0 f.tid with
  | some d, some t => deviceWaitFor (deviceWait s0 t.core d) t.core d (.split f.tid f.gi f.rank)
  | _, _ => tryRetire (tidy s) f.tid

/-- The operation of a request number and a kind. -/
def flightAt (s : State) (id : Nat) (k : FlightKind) : Option Flight :=
  s.mem.flights.find? fun f => f.id = id && f.kind = k

/-- The numbered causes of an access of another device (R288, R137). -/
def fabricLost : Cause := 0xA8#8

/-- Whether a word makes one access for its split from a scalar address (R34, R463; log entry 30). -/
def onceWord (w : Word) : Bool :=
  match decode w with
  | some (.ldu ..) | some (.ldul ..) | some (.xcopy ..) | some (.xgather ..) | some (.xscatter ..) | some (.xfill ..) => true
  | some (.tcap d _ _) => isS d.toNat
  | some (.lock a) | some (.unlock a) | some (.waitc _ _ a _) => isS a.toNat
  | _ => false

/-- The address fault of a split that comes back from Keeper or from a replay (R34 to R36, R115, R401). -/
def lateFault (s : State) (e : Ex) (w : Word) (c : Cause) (mask : DWord) (va : DWord) : Trap × State :=
  if onceWord w then addrTrapAt (tidy s) e w c mask 1 0 va
  else addrTrapAt (tidy s) e w c mask (laneCount mask) ((lowLane mask).getD 0xFF) va

/-- A load that a save dropped meets a cause when it is replayed: it goes, and its split takes the cause at the load's PC with an
ADDR capture (R35, R36, R115, R401), before it issues any further word. -/
def failLoad (s : State) (e : Ex) (q : Flight) (c : Cause) (bad : List (Fill × DWord)) : State :=
  let s1 := updMem s fun m => { m with flights := m.flights.filter fun k => k.id ≠ q.id }
  let s1 := match q.counter with | some k => countDown s1 q.tid q.gi k | none => s1
  let lanes := (bad.map fun a => a.1.lane).filter fun i => i < 64
  let mask := if lanes = [] then e.x.amask else maskOf lanes
  let here := { e with x := { e.x with pc := q.pc } }
  let va := (bad.head?.map fun a => a.2).getD 0#64
  let r := lateFault s1 here q.word c mask va
  match r.2.devFail with
  | some d => deviceWaitFor (deviceWait s e.tm.core d) e.tm.core d (.split q.tid q.gi q.rank)
  | none => tidy (deliverTrap (if r.2.fx = [] then r.2 else sideEffect r.2 q.tid) here r.1)

/-- Where the lanes of a dropped load lie now (R366). -/
def replayTargets (s : State) (core ctx : Nat) (f : Flight) : List (Fill × DWord × TrRes) :=
  f.again.map fun a => (a.1, a.2, if canonical a.2 then translate s core ctx a.2 1 else .bad vaCanon)

/-- One lane of a dropped load performed anew: its cells, or the words asked of another device. -/
def replayLane (lid core : Nat) (acc : List (Bool × Nat × Cell) × List Fill × State) (x : Fill × DWord × Target) :
    List (Bool × Nat × Cell) × List Fill × State :=
  let f := { x.1 with off := x.2.2.pa % 4, host := x.2.2.hostShared }
  if isRemote acc.2.2 x.2.2 then
    (acc.1, acc.2.1 ++ [f], sendAccess acc.2.2 x.2.2.dev 0 x.2.2.pa (List.replicate f.words (0#32, 0#16)))
  else
    let r := readLane acc.2.2 lid core false x.2.1.toNat f.words x.2.2
    (acc.1 ++ fillCells [{ f with host := false }] r.1, acc.2.1, r.2)

/-- A lane of a dropped load that cannot be translated asks as its split (R115). -/
def replayAsk (ctx core : Nat) (who : Requester) (s : State) (x : Fill × DWord × TrRes) : State :=
  let lanes := if x.1.lane < 64 then 1#64 <<< x.1.lane else 0#64
  match x.2.2 with
  | .fault c l => (addFault s ctx core x.2.1 1 l core c who lanes).2
  | .ats p => addAts s ctx core x.2.1 p who lanes
  | .miss => if missSlot s.mem (dieOf core) ctx (x.2.1.toNat / 65536) then addWalk s ctx core x.2.1 1 who lanes else s
  | _ => s

/-- A dropped load replayed after its team's restore (R366): it waits on its pages, takes a precise cause, or is performed, and is
then in flight as any load is. Its split issues no word before that. -/
def replayLoad (s : State) (f : Flight) : State :=
  match exAt s f.tid f.gi f.rank with
  | none => s
  | some e =>
    let ts := replayTargets s e.tm.core e.lch.ctx f
    let stuck := ts.filter fun x => match x.2.2 with | .fault .. | .ats _ | .miss => true | _ => false
    if stuck ≠ [] then stuck.foldl (replayAsk e.lch.ctx e.tm.core (.split f.tid f.gi f.rank)) s
    else
      match ts.findSome? fun x => match x.2.2 with | .bad c => some c | _ => none with
      | some c => failLoad s e f c ((ts.filter fun x => x.2.2 = .bad c).map fun x => (x.1, x.2.1))
      | none =>
        let good := ts.filterMap fun x => match x.2.2 with | .ok t => some (x.1, x.2.1, t) | _ => none
        let r := good.foldl (replayLane e.lch.id e.tm.core) ([], [], s)
        let put := fun (q : Flight) =>
          { q with
            cells := q.cells ++ (r.1.filter fun c => c.1).map fun c => c.2
            scalars := q.scalars ++ (r.1.filter fun c => !c.1).map fun c => c.2
            fills := r.2.1, isRemote := r.2.1 ≠ [], replay := false, core := e.tm.core
            blocks := (good.map fun x => homeKey s x.2.2 / 16).dedup }
        updMem r.2.2 fun m => { m with flights := updBy (fun q => q.id = f.id) put m.flights }

/-! ## Answers to engines, sequencers and the device itself (R136, R137, R287, R288, R297, R299) -/

/-- How another device's answer comes: with words, as an error because the address lies in no region there, or not at all. -/
inductive Answer where
  | words (ws : List Cell)
  | hole
  | lost
  deriving DecidableEq, Repr

/-- The words an answer stands for: 0 tagged POISON where there are none (R288). -/
def answerWords (a : Answer) (n : Nat) : List Cell :=
  match a with
  | .words ws => (upTo n).map fun k => ws.getD k (0#32, poison)
  | _ => List.replicate n (0#32, poison)

/-- A read of a requester is answered: the word is there for the chunk or step that needs it, or a hole fails the command or
collective with PA_HOLE (R137, R297). -/
def answerRead (s : State) (p : Post) (a : Answer) : State :=
  let word : Heard := ⟨p.part, p.dev, p.pa, (answerWords a 1).headD (0#32, poison)⟩
  match p.who with
  | .engine tid csn =>
    (match (findTeam s tid).bind fun t => t.running.find? fun c => c.csn = csn with
     | some c =>
       if a = .hole then failCommand s tid c paHole
       else updRunning s tid csn fun c => { c with heard := c.heard ++ [word] }
     | none => s)
  | .coll c =>
    (match collAt s c with
     | some x =>
       if x.c.st ≠ .running then s
       else if a = .hole then collStop s x (.cause paHole)
       else updColl s c fun q => { q with heard := q.heard ++ [word] }
     | none => s)
  | .split tid gi rank => updSplit s tid gi rank fun x =>
    let r := x.record.getD (List.replicate 64 (0#32, poison))
    { x with record := some (r.take (16 * p.part) ++ answerWords a 16 ++ r.drop (16 * p.part + 16)) }
  | _ => s

/-- The context fault of a lost remote write (R288). -/
def lostWrite (s : State) (p : Post) : State :=
  let tid := match p.who with | .engine tid _ => some tid | .split tid _ _ => some tid | _ => none
  let l := (findColl s (match p.who with | .coll c => c | _ => s.nextId)).map fun q => q.launch
  let f := accessFault s tid fabricLost 0#64
  raiseCtx s p.ctx { f with launch := l.getD f.launch }

/-- A write of a requester is answered: with the last answer of its chunk or collective that is delivered or complete (R136, R299).
A hole fails the command or collective with PA_HOLE, a lost write is FABRIC_LOST (R137, R288, R297). -/
def answerWrite (s : State) (p : Post) (a : Answer) : State :=
  if a = .lost then lostWrite s p
  else
    match p.who with
    | .engine tid csn =>
      (match (findTeam s tid).bind fun t => t.running.find? fun c => c.csn = csn with
       | some c =>
         if a = .hole then failCommand s tid c paHole
         else if c.sent.contains p.part && !awaits s p.who p.part false then tidy (finishChunk s tid csn p.part)
         else s
       | none => s)
    | .coll c =>
      (match collAt s c with
       | some x => if x.c.st = .running && a = .hole then collStop s x (.cause paHole) else endIfDone s c
       | none => s)
    | _ => if a = .hole then lostWrite s p else s

/-- The request of an engine, a sequencer or the device itself with a number and a direction is answered. -/
def answerPost (s : State) (id : Nat) (read : Bool) (a : Answer) : State :=
  match s.mem.posts.find? fun p => p.id = id && p.read = read with
  | none => s
  | some p =>
    let s := updMem s fun m => { m with posts := m.posts.filter fun q => q.id ≠ id }
    if read then answerRead s p a else answerWrite s p a

/-- A remote store or RED of a split that failed is FABRIC_LOST for its context, with its word, its lanes and its split (R288,
R401, R411). -/
def lostStore (s : State) (f : Flight) : State :=
  let s1 := landFlight s f [] []
  match (findTeam s f.tid).bind fun t => (findLaunch s t.launch).map fun l => (t, l) with
  | none => s1
  | some (t, l) =>
    raiseCtx s1 l.ctx
      { cause := fabricLost, launch := l.id, team := some t.ordinal, gi := some f.gi
        splitId := (findSplit s f.tid f.gi f.rank).map fun x => x.id.toNat
        trap := { cause := fabricLost, pc := f.pc, mask := maskOf (f.fills.map fun k => k.lane), info2 := f.word } }

/-- LOAD_REPLY (R90): the load or atomic of request arg.a is answered, or a dropped one performed anew; arg.words are the words of
a remote home, and yes says that it reports an error. An engine's or a sequencer's read is answered likewise. -/
def execLoadReply (s : State) : Host.Outcome State Fault Refusal :=
  .next <|
    match flightAt s s.arg.a .load with
    | some f => if f.replay then replayLoad s f else landFlight s f (if s.arg.yes then [] else s.arg.words) s.arg.nums
    | none => answerPost s s.arg.a true (if s.arg.yes then .hole else .words s.arg.words)

/-- STORE_ACKNOWLEDGEMENT (R89): the write of request arg.a is acknowledged; yes: a remote home reports an error instead (R288). -/
def execStoreAcknowledgement (s : State) : Host.Outcome State Fault Refusal :=
  .next <|
    match flightAt s s.arg.a .store with
    | some f => if s.arg.yes && f.isRemote then lostStore s f else landFlight s f s.arg.words s.arg.nums
    | none => answerPost s s.arg.a false (if s.arg.yes then .hole else .words [])

/-- TRANSFORM_PIPE_REPLY (R210): every lane of the instruction of request arg.a is written in one step. -/
def execTransformPipeReply (s : State) : Host.Outcome State Fault Refusal :=
  .next <|
    match flightAt s s.arg.a .xform with
    | some f => landFlight s f [] []
    | none => s

/-- FABRIC_TIMEOUT (R288): the remote access of request arg.a fails: a load or atomic returns 0 tagged POISON, a store or
RED is a context fault. -/
def execFabricTimeout (s : State) : Host.Outcome State Fault Refusal :=
  .next <|
    match s.mem.flights.find? fun f => f.id = s.arg.a && f.isRemote with
    | some f => if f.kind = .load then landFlight s f [] [] else lostStore s f
    | none => answerPost (answerPost s s.arg.a true .lost) s.arg.a false .lost

/-! ## Requesters that wait -/

/-- Whether a requester still waits on a walk, a fault record or the host. -/
def stillWaits (s : State) (who : Requester) : Bool :=
  (s.mem.walks.any fun w => w.who = who) || (s.mem.faults.any fun f => f.asks.any fun a => a.who = who) ||
  s.mem.atsReqs.any fun q => q.who = who

/-- What a split that waits for a translation is parked on. -/
def trParks : List Park := [.walk, .fault, .ats]

/-- A requester that waited on a walk, a fault record or the host tries again once nothing keeps it waiting (R115). -/
def resume (s : State) (who : Requester) : State :=
  if stillWaits s who then s
  else
    match who with
    | .split tid gi rank => updSplit s tid gi rank fun x => if x.st = .parked && trParks.contains x.park then unpark x else x
    | .stream tid => wakeSeq s tid fun k => k = .walk
    | .engine tid csn => updRunning s tid csn fun c => { c with parked := false }
    | .coll c => updColl s c fun q => { q with parked := false }
    | .ring _ | .launch _ | .device _ => s

/-- A parked split that waited on a walk or on the host now waits on a fault record. -/
def onRecord (s : State) (who : Requester) : State :=
  match who with
  | .split tid gi rank =>
    updSplit s tid gi rank fun x =>
      if x.st = .parked && trParks.contains x.park then { x with park := .fault } else x
  | _ => s

/-- A leaf entered into a cache of translations; a full one gives up an entry of the free choice (R112). -/
def fillTlb (s : State) (size : Nat) (t : Tlb) : State :=
  let here := fun (q : Tlb) => q.core = t.core && q.die = t.die
  let s := updMem s fun m =>
    { m with tlb := m.tlb.filter fun q => !(here q && q.ctx = t.ctx && q.page = t.page) }
  let mine := s.mem.tlb.filter here
  if mine.length < size then updMem s fun m => { m with tlb := m.tlb ++ [t] }
  else
    let (k, s) := freeChoice s mine.length
    let victim := mine.getD k t
    updMem s fun m => { m with tlb := (m.tlb.filter fun q => q ≠ victim) ++ [t] }

/-- Whether a requester is a core, with translation entries of its own (R112). -/
def onCore : Requester → Bool
  | .split .. | .stream _ => true
  | _ => false

/-- The unit of a requester in a fault record (R117): an engine's or a sequencer's number, else the core. -/
def unitOfAsk (s : State) (core : Nat) (who : Requester) : Nat :=
  match who with
  | .engine tid csn =>
    (match findTeam s tid with
     | some t => ((t.running.find? fun c => c.csn = csn).map (engineOf t)).getD core
     | none => core)
  | .coll c => ((collAt s c).map fun x => x.comm.seqr).getD core
  | _ => core

/-- One requester of a walk that found a leaf: the caches of its core and die take it (R112), and it tries again. -/
def walkHit (leaf : DWord) (level : Nat) (s : State) (w : Walk) : State :=
  let die := dieOf w.core
  let s := if onCore w.who then fillTlb s 128 ⟨some w.core, die, w.ctx, w.page, leaf, level⟩ else s
  let s := fillTlb s 8192 ⟨none, die, w.ctx, w.page, leaf, level⟩
  resume s w.who

/-- One requester of a walk that failed: it waits on a fault record (R115). -/
def walkMiss (cause : Cause) (level : Nat) (s : State) (w : Walk) : State :=
  onRecord (addFault s w.ctx w.core w.va w.kind level (unitOfAsk s w.core w.who) cause w.who w.lanes).2 w.who

/-- Whether one of the 64 walkers of its die has taken up a walk: those of the oldest misses have (R112). -/
def walking (m : Mem) (w : Walk) : Bool := ((missesOf m (dieOf w.core)).take 64).contains (w.ctx, w.page)

/-- WALK_COMPLETION (R109 to R112, R115): the walk arg.a, with every other one of its context and page on its die. -/
def execWalkCompletion (s : State) : Host.Outcome State Fault Refusal :=
  .next <|
    match s.mem.walks.find? fun w => w.id = s.arg.a && walking s.mem w with
    | none => s
    | some w =>
      let same := fun (q : Walk) => q.ctx = w.ctx && q.page = w.page && dieOf q.core = dieOf w.core
      let all := s.mem.walks.filter same
      let s1 := updMem s fun m => { m with walks := m.walks.filter fun q => !same q }
      match findCtx s w.ctx with
      | none => s1
      | some c =>
        let s2 := touchWalk s1 c.root w.va
        match walkVa s c.root w.va with
        | .leaf e level => all.foldl (walkHit e level) s2
        | .fail cause level => all.foldl (walkMiss cause level) s2

/-! ## Fault service (R115, R246, R137, R297, R464) -/

/-- A page-table entry that Keeper writes: two words at their home, tagged UNMARKED (log entry 11). -/
def putPte (s : State) (e : Nat × DWord) : State :=
  let pa := e.1 / 8 * 8
  if inRegion s pa then homeWriteMany s [(pa, (loWord e.2, unmarked)), (pa + 4, (hiWord e.2, unmarked))] else s

/-- A requester taken off every walk, fault record and host request. -/
def dropAsks (s : State) (who : Requester) : State :=
  updMem s fun m =>
    { m with walks := m.walks.filter fun w => w.who ≠ who
             atsReqs := m.atsReqs.filter fun q => q.who ≠ who
             faults := m.faults.map fun f => { f with asks := f.asks.filter fun a => a.who ≠ who } }

/-- What a walk that is still out for a requester would meet with a cause. -/
def walkAsks (s : State) (c : Cause) (who : Requester) : List Ask :=
  s.mem.walks.filterMap fun w =>
    if w.who = who && (match translateNow s (dieOf w.core) w.ctx w.va w.kind with | .fault k _ => k = c | _ => false) then
      some ⟨who, w.lanes, w.va⟩
    else none

/-- What a split that waits on fault records meets when one is unserviceable: every lane of its pages with that cause,
and the address of the lowest (R115). -/
def faultLanes (s : State) (f : FaultRec) (who : Requester) : DWord × DWord :=
  let asks := ((f :: s.mem.faults.filter fun q => q.id ≠ f.id && q.cause = f.cause).flatMap fun q =>
    q.asks.filter fun a => a.who = who) ++ walkAsks s f.cause who
  let low := leastBy (fun a : Ask => (lowLane a.lanes).getD 64) asks
  (asks.foldl (fun (m : DWord) a => m ||| a.lanes) 0#64, (low.map fun a => a.va).getD f.va)

/-- A fault that Keeper cannot service, for a split whose dropped load waits on it. -/
def failReplay (s : State) (f : FaultRec) (e : Ex) : State :=
  let page := f.va.toNat / 65536
  let on := fun (a : Fill × DWord) => a.2.toNat / 65536 = page ||
    (match translateNow s (dieOf e.tm.core) e.lch.ctx a.2 1 with | .fault c _ => c = f.cause | _ => false)
  match s.mem.flights.find? fun q =>
      q.replay && q.tid = e.x.tid && q.gi = e.x.gi && q.rank = e.x.rank && q.again.any fun a => a.2.toNat / 65536 = page with
  | none => s
  | some q => failLoad s e q f.cause (q.again.filter on)

/-- A fault that Keeper cannot service, for a split: a precise fault of the same cause (R115). The word of a fetch that failed was
never there, and is a free value (log entry 2). -/
def failSplit (s : State) (f : FaultRec) (tid gi rank : Nat) : State :=
  let who := Requester.split tid gi rank
  let lv := faultLanes s f who
  let waits := fun (x : Split) => x.st = .parked && trParks.contains x.park
  let s1 := dropAsks (updSplit s tid gi rank fun x => if waits x then unpark x else x) who
  match exAt s tid gi rank, exAt s1 tid gi rank with
  | some e0, some e =>
    if !waits e0.x then failReplay s1 f e
    else
      let w := e0.x.parkWord.getD (loWord (Config.freeValue s1.fresh))
      let r := lateFault { s1 with fresh := s1.fresh + 1 } e w f.cause lv.1 lv.2
      (match r.2.devFail with
       | some d => deviceWaitFor (deviceWait s e.tm.core d) e.tm.core d who
       | none =>
         let s2 := if r.2.fx = [] then r.2 else sideEffect r.2 tid
         tidy (deliverTrap s2 e r.1))
  | _, _ => s1

/-- A ring faulted at its present command, or after it (R346, R464): it gives up its slot, unless it is pinned (R349). -/
def faultRing (s : State) (r : Nat) : State :=
  updRing s r fun q => { q with faulted := true, slot := if q.pinned then q.slot else none, blocked := false }

/-- A fault that Keeper cannot service, for one requester (R115, R137, R246, R297, R464). -/
def failAsk (f : FaultRec) (s : State) (a : Ask) : State :=
  match a.who with
  | .split tid gi rank => failSplit s f tid gi rank
  | .stream tid =>
    (match findTeam s tid with
     | some t => if t.seqState = .parked && t.seqPark = .walk then streamFault s tid t.seqPc 0#32 f.cause else s
     | none => s)
  | .engine tid csn =>
    (match (findTeam s tid).bind fun t => t.running.find? fun c => c.csn = csn with
     | some c => failCommand s tid c f.cause
     | none => s)
  | .coll c =>
    (match findColl s c with
     | some q => if q.st = .running then submitReady (endColl (sendAborts s q) c (some f.cause)) else s
     | none => s)
  | .ring r => faultRing s r
  | .launch l => updLaunch s l fun l => { l with recDead := true }
  | .device _ => s

/-- The team for which a fault record was written. -/
def askTeam (f : FaultRec) : Option Nat :=
  f.asks.findSome? fun a =>
    match a.who with
    | .split tid _ _ => some tid
    | .stream tid => some tid
    | .engine tid _ => some tid
    | _ => none

/-- A context access of the device itself that Keeper cannot service (R464): a context fault, or the end of a dump. For a
context that is still being created, its command fails. -/
def failDevice (s : State) (f : FaultRec) : State :=
  match findCtx s f.ctx with
  | none => if s.dev.busy && s.dev.going then answer s 2 [] else s
  | some c =>
    if c.fault.isSome then updCtx s f.ctx fun c => { c with dumpStop := true }
    else raiseCtx s f.ctx (accessFault s (askTeam f) f.cause f.va)

/-- The requesters of a record, splits of one group in ascending entry index: their traps are of one cycle (R399). -/
def inEntryOrder (s : State) (asks : List Ask) : List Ask :=
  sortBy (fun a : Ask => match a.who with
    | .split tid gi rank => ((findSplit s tid gi rank).map fun x => x.id.toNat).getD 0
    | _ => 0) asks

/-- The cached leaves of a page on a die dropped: what Keeper has written for a permission fault takes effect (R115; DEDUCED, log
entry 41). -/
def dropLeaf (s : State) (die ctx page : Nat) : State :=
  updMem s fun m => { m with tlb := m.tlb.filter fun t => !(t.die = die && t.ctx = ctx && t.page = page) }

/-- FAULT_SERVICE (R115): Keeper services fault record arg.a. With yes it writes arg.entries and every requester tries
again; else the fault is unserviceable. -/
def execFaultService (s : State) : Host.Outcome State Fault Refusal :=
  .next <|
    match s.mem.faults.find? fun f => f.id = s.arg.a with
    | none => s
    | some f =>
      let s1 := updMem s fun m => { m with faults := m.faults.filter fun q => q.id ≠ f.id }
      if s.arg.yes then
        let s1 := dropLeaf (s.arg.entries.foldl putPte s1) f.die f.ctx (f.va.toNat / 65536)
        f.asks.foldl (fun s a => resume s a.who) s1
      else if f.asks.any fun a => a.who = .device f.ctx then failDevice s1 f
      else (inEntryOrder s1 f.asks).foldl (failAsk f) s1

/-! ## The host's translations (R114) -/

/-- ATS_INVALIDATION (R113, R114): the host pages of arg.b bytes from arg.a leave every die's ATS cache. -/
def execAtsInvalidation (s : State) : Host.Outcome State Fault Refusal :=
  .next (updMem s fun m =>
    { m with ats := m.ats.filter fun p => !(p.2 * 65536 < s.arg.a + s.arg.b && s.arg.a < (p.2 + 1) * 65536) })

/-- Whether a request is one of a host page on a die. -/
def ofPage (die page : Nat) (q : AtsReq) : Bool := q.page = page && dieOf q.core = die

/-- The requests of a host page on a die, at a stage. -/
def atsAt (s : State) (die page : Nat) (pri : Bool) : List AtsReq :=
  s.mem.atsReqs.filter fun q => ofPage die page q && q.pri = pri

/-- The requests of a host page on a die taken off the list. -/
def dropAts (s : State) (die page : Nat) : State :=
  updMem s fun m => { m with atsReqs := m.atsReqs.filter fun q => !ofPage die page q }

/-- ATS_TRANSLATION_REPLY (R114) for host page arg.a on die arg.b: a grant fills the die's ATS cache; a refusal makes a PRI page
request. -/
def execAtsTranslationReply (s : State) : Host.Outcome State Fault Refusal :=
  .next <|
    let page := s.arg.a
    let die := s.arg.b
    match atsAt s die page false with
    | [] => s
    | qs =>
      if s.arg.yes then
        let s1 := updMem (dropAts s die page) fun m =>
          { m with ats := if m.ats.contains (die, page) then m.ats else m.ats ++ [(die, page)] }
        qs.foldl (fun s q => resume s q.who) s1
      else
        let s1 := updMem s fun m => { m with atsReqs := updBy (ofPage die page) (fun q => { q with pri := true }) m.atsReqs }
        sendMsg s1 (.ats page true)

/-- A host access that the host refuses (R114, R115): it fails with PAGE_FAULT, by way of a fault record of KIND 5. -/
def hostRefused (s : State) (q : AtsReq) : State :=
  let level := match findCtx s q.ctx with
    | some c => (match walkVa s c.root q.va with | .leaf _ l => l | .fail _ l => l)
    | none => 3
  onRecord (addFault s q.ctx q.core q.va 5 level (unitOfAsk s q.core q.who) pageFault q.who q.lanes).2 q.who

/-- PRI_RESPONSE (R114) for host page arg.a on die arg.b: a grant replays the access; a refusal fails it. -/
def execPriResponse (s : State) : Host.Outcome State Fault Refusal :=
  .next <|
    match atsAt s s.arg.b s.arg.a true with
    | [] => s
    | qs =>
      let s1 := dropAts s s.arg.b s.arg.a
      if s.arg.yes then qs.foldl (fun s q => resume s q.who) s1 else qs.foldl hostRefused s1

/-! ## Monitored words re-read (R106, R348) -/

/-- The word that a waiter without a monitor reads again: its own launch's staged copy, else the home's (R106, R118). -/
def recheckWord (s : State) (q : Monitor) : Word × State :=
  let mine := match q.waiter with
    | .split tid _ _ => (findTeam s tid).bind fun t => stagedWord s t.launch q.pa
    | .ring _ => none
  match mine with
  | some c => (c.1, s)
  | none => let r := homeRead s q.pa; (r.1.1, r.2)

/-- MONITOR_RECHECK (R106): the split of rank arg.c, of group arg.b of team arg.a, or with yes ring arg.a, which waits without a
monitor, reads its word again, and goes on where the condition holds; the command of a ring reads the word itself, on whatever
tier it lies (R348). -/
def execMonitorRecheck (s : State) : Host.Outcome State Fault Refusal :=
  .next <|
    let who := if s.arg.yes then Waiter.ring s.arg.a else .split s.arg.a s.arg.b s.arg.c
    match s.mem.rechecks.find? fun q => q.waiter = who with
    | none => s
    | some q =>
      let r := if s.arg.yes then (q.value, s) else recheckWord s q
      if s.arg.yes || condHolds q.cond q.isSigned r.1 q.value then
        wake (updMem r.2 fun m => { m with rechecks := m.rechecks.filter fun k => k.waiter ≠ who }) who
      else r.2

/-! ## Requests from outside (R43, R287, R289) -/

/-- The word of a physical address with bytes put into it, and the machine after what it had to read. -/
def mergedHome (s : State) (pa : Nat) (bs : List (Nat × Byte)) : Word × State :=
  if bs.length = 4 then (mergeBytes 0#32 bs, s)
  else
    let old := homeRead s pa
    (mergeBytes old.1.1 bs, old.2)

/-- Bytes at physical addresses written at their homes, a line at a time; each word touched takes a tag (R42, R43). Bytes outside
the regions of R85 are dropped (log entry 12). -/
def putHomeBytes (s : State) (at_ : List (Nat × Byte)) (tag : Tag) : State :=
  let words := ((at_.map fun b => b.1 / 4 * 4).dedup).filter (inRegion s)
  let r := words.foldl (fun (acc : List (Nat × Cell) × State) w =>
    let m := mergedHome acc.2 w ((at_.filter fun b => b.1 / 4 * 4 = w).map fun b => (b.1 - w, b.2))
    (acc.1 ++ [(w, (m.1, tag))], m.2)) ([], s)
  homeWriteMany r.2 r.1

/-- HOST_WRITE (R43, R106): the host or a peer writes arg.bytes from physical address arg.a; each word touched takes the
tag HOST. A device whose bring-up has failed answers only SPDM (R446). -/
def execHostWrite (s : State) : Host.Outcome State Fault Refusal :=
  .next <| if s.dev.err then s else putHomeBytes s (s.arg.bytes.zipIdx.map fun (b : Byte × Nat) => ((s.arg.a + b.2 : Nat), b.1)) hostTag

/-- HOST_READ (R43): the host reads arg.b bytes from physical address arg.a; it gets data only (R446 as above). -/
def execHostRead (s : State) : Host.Outcome State Fault Refusal :=
  .next <| if s.dev.err then s else
    let words := ((upTo s.arg.b).map fun k => (s.arg.a + k) / 4 * 4).dedup
    let r := words.foldl (fun (acc : List (Nat × Word) × State) w =>
      if inRegion s w then
        let h := homeRead acc.2 w
        (acc.1 ++ [(w, h.1.1)], h.2)
      else acc) ([], s)
    let byte := fun (a : Nat) => match r.1.find? fun w => w.1 = a / 4 * 4 with
      | some w => byteAt w.2.toNat (a % 4)
      | none => 0#8
    sendMsg r.2 (.hostData ((upTo s.arg.b).map fun (k : Nat) => byte (s.arg.a + k)))

/-- The operation of an ATOM opcode (R95). -/
def atomOpOf (op : Nat) : Option AtomOp :=
  if op < 0xB0 then none
  else ([.add, .fadd, .min, .max, .minu, .maxu, .and, .or, .xor, .exch, .cas, .inc] : List AtomOp)[op - 0xB0]?

/-- Words read at their home, from a physical address upward. -/
def homeWords (s : State) (pa n : Nat) : List Cell × State :=
  (upTo n).foldl (fun (acc : List Cell × State) (k : Nat) =>
    let r := homeRead acc.2 (pa / 4 * 4 + 4 * k)
    (acc.1 ++ [r.1], r.2)) ([], s)

/-- A remote ATOM performed at this home by R93 to R98: the cells it returns, its events, and the machine. -/
def remoteAtom (s : State) (op : AtomOp) (wide : Bool) (pa : Nat) (ws : List Cell) : List Cell × Nat × State :=
  let n := if wide then 2 else 1
  let num := fun (l : List Cell) => l.foldr (fun (c : Cell) (m : Nat) => c.1.toNat + 2 ^ 32 * m) 0
  let cas := op = .cas
  let cmp := num (ws.take n)
  let val := (if cas then ws.drop n else ws).take n
  let tag := (val.headD (0#32, 0#16)).2
  let ctl := (ws.drop (if cas then 2 * n else n)).headD (0#32, 0#16)
  let rule := ctl.1.toNat % 8
  let r := homeWords s pa n
  let told := summarise (r.1.map fun c => c.2)
  if told = poison then (r.1.map fun _ => (0#32, poison), 0, r.2)
  else
    let back := r.1.map fun c => (c.1, told)
    let old := num r.1
    if cas && old ≠ cmp then (back, 0, r.2)
    else
      let new := atomNew op (32 * n) (ctl.1.getLsbD 3) old (num val)
      let srcs := if ctl.1.getLsbD 4 then [tag] else []
      let put := fun (k : Nat) =>
        let t := atomTag rule ctl.2 op told tag ((r.1.getD k (0#32, told)).2) srcs
        (pa + 4 * k, ((BitVec.ofNat 32 (new.1 / 2 ^ (32 * k)), t) : Cell))
      (back, (evWord new.2).toNat, homeWriteMany r.2 ((upTo n).map put))

/-- Whether every byte of a request lies in the regions of R85. -/
def homeHas (s : State) (pa n : Nat) : Bool := inRegion s pa && inRegion s (pa + n - 1)

/-- FLORIX_REMOTE_REQUEST (R94, R287, R289): a peer's access performed at its home, with the tags it carries; the answer
goes back as a message of kind 8, and an address outside the regions of R85 is reported with kind 9. A device whose bring-up has failed does not answer (R446). -/
def execFlorixRemoteRequest (s : State) : Host.Outcome State Fault Refusal :=
  .next <| if s.dev.err then s else
    let kind := s.arg.a
    let pa := s.arg.b
    let ws := s.arg.words
    let reply := fun (s : State) (cs : List Cell) => sendAccess s s.arg.c 8 pa cs
    let bad := sendAccess s s.arg.c 9 pa []
    let c0 := ws.headD (0#32, unmarked)
    let keep := fun (s : State) (a : Nat) (t : Tag) => if 4 ≤ kind then (homeRead s a).1.2 else t
    match atomOpOf kind with
    | some op =>
      let n := if s.arg.yes then 8 else 4
      if !homeHas s pa n || pa % n ≠ 0 then bad
      else
        let r := remoteAtom s op s.arg.yes pa ws
        reply r.2.2 (r.1 ++ if op = .fadd then [(BitVec.ofNat 32 r.2.1, unmarked)] else [])
    | none =>
      if kind = 0 then
        let n := max 1 ws.length
        if !homeHas s (pa / 4 * 4) (4 * n) then bad
        else
          let r := homeWords s pa n
          reply r.2 r.1
      else if kind = 1 || kind = 5 then
        if !homeHas s (pa / 4 * 4) (4 * max 1 ws.length) then bad
        else
          let at_ := ws.zipIdx.map fun c => (pa / 4 * 4 + 4 * c.2, c.1)
          reply (homeWriteMany s (at_.map fun c => (c.1, (c.2.1, keep s c.1 c.2.2)))) []
      else if kind = 2 || kind = 6 || kind = 3 || kind = 7 then
        let n := if kind = 2 || kind = 6 then 1 else 2
        let w := pa / 4 * 4
        if !homeHas s pa n then bad
        else
          reply (putHomeBytes s ((upTo n).map fun k => (pa + k, byteAt c0.1.toNat k)) (keep s w c0.2)) []
      else bad

/-! ## Packets that are due (R437) -/

/-- SYNC_PERIODIC (R437, R438): group arg.b of team arg.a has written 256 packets. -/
def execSyncPeriodic (s : State) : Host.Outcome State Fault Refusal :=
  .next <|
    match leastBy (fun x : Split => x.id.toNat) (splitsOf s s.arg.a s.arg.b) with
    | none => s
    | some x =>
      match exAt s x.tid x.gi x.rank with
      | none => s
      | some e => if e.g.packets < 256 then s else packetDone s (syncPacket (tidy s) e 0 0) e.tm.core

/-- BRANCH_FLUSH (R437): the split of rank arg.c, of group arg.b of team arg.a, holds 64 branch bits. -/
def execBranchFlush (s : State) : Host.Outcome State Fault Refusal :=
  .next <|
    match exAt s s.arg.a s.arg.b s.arg.c with
    | none => s
    | some e => if e.x.brBits.length < 64 then s else packetDone s (flushBranch (tidy s) e) e.tm.core

end Sys2Proof.Machine
end

