-- ==== Sys2Proof/Machine/Launch.lean ====
section
/-! DEFINITION. Rings and their commands (R346 to R349, R464), launches and kernel headers (R350, R351), placement and
dispatch (R352, R356 to R359), completion (R353, R443), nodes (R119, R422) and contracts (R354). -/

namespace Sys2Proof.Machine

/-! ## Ring commands (R347) -/

/-- What a NODE holds beside a LAUNCH. -/
structure NodeArgs where
  budget : Nat
  nout : Nat
  outs : DWord
  preds : List (DWord × Word)
  deriving DecidableEq, Repr

/-- The words that LAUNCH and NODE share. -/
structure LaunchArgs where
  ovl : Bool
  cval : Word
  cword : DWord
  ldesc : DWord
  crec : DWord
  deriving DecidableEq, Repr

/-- A well-formed ring command. -/
inductive RingCmd where
  | launch (a : LaunchArgs)
  | node (a : LaunchArgs) (n : NodeArgs)
  | wait (cond : Nat) (isSigned : Bool) (cval : Word) (va : DWord)
  | signal (cval : Word) (va : DWord)
  | fence
  deriving DecidableEq, Repr

/-- Bytes lo to hi of a command are all 0. -/
def zeroIn (bs : List Byte) (lo hi : Nat) : Bool := allZero ((bs.drop lo).take (hi + 1 - lo))

/-- A 64-bit field of a command. -/
def field64 (bs : List Byte) (lo : Nat) : DWord := BitVec.ofNat 64 (recNum bs lo 8)
/-- A 32-bit field of a command. -/
def field32 (bs : List Byte) (lo : Nat) : Word := BitVec.ofNat 32 (recNum bs lo 4)

/-- A command's bytes read (R347): none where it is malformed. -/
def parseCmd (bs : List Byte) : Option RingCmd :=
  let b := fun (k : Nat) => recNum bs k 1
  let cword := field64 bs 8
  let aligned := fun (v : DWord) => v.toNat % 4 = 0
  let la : LaunchArgs := ⟨b 1 % 2 = 1, field32 bs 4, cword, field64 bs 16, field64 bs 24⟩
  let okl := aligned cword && aligned la.crec
  match b 0 with
  | 1 => if okl && b 1 < 2 && zeroIn bs 2 3 && zeroIn bs 32 63 then some (.launch la) else none
  | 2 =>
    let np := b 1 / 2
    let preds := [(field64 bs 40, field32 bs 48), (field64 bs 52, field32 bs 60)].take np
    let n : NodeArgs := ⟨b 3, b 2, field64 bs 32, preds⟩
    if okl && np ≤ 2 && b 2 ≤ 16 && aligned n.outs && preds.all fun p => aligned p.1 then some (.node la n) else none
  | 3 =>
    if aligned cword && b 1 = 0 && b 3 = 0 && b 2 % 16 = 0 && b 2 / 32 < 6 && zeroIn bs 16 63 then
      some (.wait (b 2 / 32) (b 2 / 16 % 2 = 1) (field32 bs 4) cword)
    else none
  | 4 => if aligned cword && zeroIn bs 1 3 && zeroIn bs 16 63 then some (.signal (field32 bs 4) cword) else none
  | 5 => if zeroIn bs 1 63 then some .fence else none
  | _ => none

/-- What stands at a ring's HEAD: nothing that may run, an access that waits, a command that faults the ring, or a command
with its ring and context. -/
inductive RingAt where
  | idle
  | waits (f : DevFail)
  | dead
  | cmd (q : Ring) (c : Ctx) (k : RingCmd)
  deriving DecidableEq, Repr

/-- Whether a ring takes commands: it holds a slot, is neither blocked nor faulted, and has an entry (R346, R349). -/
def ringLive (q : Ring) : Bool := q.slot.isSome && !q.blocked && !q.faulted && q.tail ≠ q.head

/-- The command at a ring's HEAD (R346, R464). -/
def ringAt (s : State) (r : Nat) : RingAt :=
  match findRing s r with
  | none => .idle
  | some q =>
    match findCtx s q.ctx with
    | none => .idle
    | some c =>
      if !ringLive q || c.fault.isSome then .idle
      else
        match devReadCells s q.ctx (q.base + BitVec.ofNat 64 (64 * (q.head.toNat % 2 ^ q.logn))) 64 with
        | .wait f => .waits f
        | .dead _ => .dead
        | .ok cs =>
          match parseCmd (cellBytes cs) with
          | some k => .cmd q c k
          | none => .dead

/-- HEAD moves past a command; an empty ring leaves its slot, unless it is pinned (R349). -/
def advance (s : State) (r : Nat) : State :=
  updRing s r fun q =>
    let h := q.head + 1#32
    { q with head := h, slot := if h = q.tail && !q.pinned then none else q.slot }

/-- A ring blocks and leaves its slot, unless it is pinned (R348, R349). -/
def blockRing (s : State) (r : Nat) : State :=
  updRing s r fun q => { q with blocked := true, slot := if q.pinned then q.slot else none }

/-- A command whose access waits, or that faults the ring; none where it may go on. -/
def ringStop (s : State) (r : Nat) (x : RingAt) : State :=
  match x with
  | .waits f => deviceWaitFor s deviceCore f (.ring r)
  | .dead => faultRing s r
  | _ => s

/-- A device read that did not answer, for a ring's command. -/
def readStop {α : Type} (s : State) (r : Nat) (x : DevRes α) : State :=
  match x with
  | .ok _ => s
  | .wait f => deviceWaitFor s deviceCore f (.ring r)
  | .dead _ => faultRing s r

/-- The words of a command at a ring's HEAD read at their home (R88, R346). -/
def touchCmd (s : State) (q : Ring) : State :=
  devTouch s q.ctx (q.base + BitVec.ofNat 64 (64 * (q.head.toNat % 2 ^ q.logn))) 1 16

/-- The words of a launch descriptor and of the kernel header it names read at their homes (R88). -/
def touchLaunch (s : State) (ctx : Nat) (ldesc : DWord) : State :=
  match devReadCells s ctx ldesc 256 with
  | .ok cs => devTouch (devTouch s ctx ldesc 1 64) ctx (field64 (cellBytes cs) 8 &&& ~~~3#64) 1 16
  | _ => s

/-! ## Launch descriptors and kernel headers (R350, R351) -/

/-- The header, where it is well formed. -/
def parseHeader (h : List Byte) : Option Header :=
  let b := fun (k : Nat) => recNum h k 1
  let w := fun (k : Nat) => recNum h k 4
  let k : Header :=
    { cb := w 40, wb := w 36, ab := w 32, ls := w 28, spill := w 24, capture := BitVec.ofNat 16 (recNum h 22 2)
      rule := BitVec.ofNat 3 (b 21), splits := b 20, scalars := 8 * b 19, regs := 8 * b 18, groups := b 17
      width := b 16, trap := if w 8 = 0xFFFFFFFF then none else some (w 8), entry := w 4 }
  let ok := w 0 = 0x52484B4D && zeroIn h 12 15 && zeroIn h 44 63 && k.cb % 4096 = 0 && k.wb % 4096 = 0 &&
    k.ab % 4096 = 0 && k.ls % 4096 = 0 && k.spill % 16 = 0 && b 21 ≤ 5 && 1 ≤ k.splits && k.splits ≤ 16 &&
    1 ≤ b 19 && b 19 ≤ 6 && 1 ≤ b 18 && b 18 ≤ 24 && 1 ≤ k.groups && k.groups ≤ 32 &&
    [8, 16, 32, 64].contains k.width && k.groups * k.width ≤ 1024 && k.entry % 4 = 0
  if ok then some k else none

/-- The fields of a launch that its descriptor gives, where it is well formed; the header is still to come. -/
def parseDesc (d : List Byte) : Option Launch :=
  let b := fun (k : Nat) => recNum d k 1
  let w := fun (k : Nat) => recNum d k 4
  let fl := w 28
  let n := w 32 * w 36 * w 40
  let per := b 44 * b 45
  let ok := zeroIn d 46 47 && zeroIn d 56 255 && fl < 16 && 1 ≤ b 44 && b 44 ≤ 8 && 1 ≤ b 45 && b 45 ≤ 6 && per ≤ 12 &&
    1 ≤ n && n ≤ 2 ^ 31 && n % per = 0
  if ok then
    some
      { code := field64 d 0, codeObj := Config.codeObject (field64 d 0), args := field64 d 16, seed := field32 d 24, ftz := fl.testBit 0
        unifTrap := fl.testBit 1, shadow := fl.testBit 2, coop := fl.testBit 3, gx := w 32, gy := w 36, gz := w 40
        cw := b 44, ch := b 45, hint := recNum d 48 8 }
  else none

/-- The teams of a launch. -/
def Launch.size (l : Launch) : Nat := l.gx * l.gy * l.gz
/-- The teams of a cluster (R352). -/
def Launch.per (l : Launch) : Nat := l.cw * l.ch

/-- A launch read from its descriptor's address: its fields, or none where it is LAUNCH_FORMAT (R350). -/
def readLaunch (s : State) (ctx : Nat) (ldesc : DWord) : DevRes (Option Launch) :=
  if ldesc.toNat % 64 ≠ 0 then .ok none
  else
    match devReadCells s ctx ldesc 256 with
    | .wait f => .wait f
    | .dead c => .dead c
    | .ok cs =>
      let d := cellBytes cs
      match parseDesc d with
      | none => .ok none
      | some l =>
        let khdr := field64 d 8
        match devReadCells s ctx khdr 64 with
        | .wait f => .wait f
        | .dead c => .dead c
        | .ok hs =>
          match parseHeader (((cellBytes hs).drop (khdr.toNat % 4)).take 64) with
          | none => .ok none
          | some h => .ok (some { l with hdr := h })

/-! ## Room on a core (R153, R173, R316, R318, R356) -/

/-- What one group, or shadow group, takes of a core. -/
structure Taken where
  scheduler : Nat
  slot : Nat
  pos : Nat
  positions : Nat
  regs : Nat
  entries : List Nat
  deriving DecidableEq, Repr

/-- What a group takes, with its shadow. -/
def takenBy (h : Header) (g : Group) : List Taken :=
  let n := h.width / 4
  ⟨g.scheduler, g.slot, g.pos, n, h.regs, g.entries⟩ ::
    (match g.twin with
     | some p => [⟨g.scheduler, p.slot, p.pos, n, h.regs, p.entries⟩]
     | none => [])

/-- What the groups on a core take until they exit (R316). -/
def takenOn (s : State) (core : Nat) : List Taken :=
  (s.teams.filter fun t => t.core = core && !t.retired).flatMap fun t =>
    match findLaunch s t.launch with
    | none => []
    | some l => (s.groups.filter fun g => g.tid = t.tid && !g.exited).flatMap (takenBy l.hdr)

/-- The LS bytes of a team with its spill areas (R153). -/
def lsNeed (h : Header) : Nat := h.ls + (h.spill * h.groups + 4095) / 4096 * 4096

/-- The bytes of a store that the teams on a core hold: LS until their cluster ends, the others until they retire (R153). -/
def storeUsed (s : State) (core : Nat) (k : Store) : Nat :=
  ((s.teams.filter fun t => t.core = core && (if k = .ls then !teamOver s t else !t.retired)).map fun t =>
    match findLaunch s t.launch with
    | none => 0
    | some l => if k = .ls then lsNeed l.hdr else storeSize l.hdr k).foldl (· + ·) 0

/-- Whether a team's allocations fit on a core (R152, R153). -/
def storesFit (s : State) (core : Nat) (h : Header) : Bool :=
  storeUsed s core .ls + lsNeed h ≤ 262144 && storeUsed s core .ab + h.ab ≤ 524288 &&
  storeUsed s core .wb + h.wb ≤ 524288 && storeUsed s core .cb + h.cb ≤ 524288

/-- A place for a group on a scheduler (R173, R316, R318): a free slot, aligned slice positions with its registers free, and
its split budget. -/
def placeOn (tk : List Taken) (h : Header) (k : Nat) : Option Taken :=
  let mine := tk.filter fun t => t.scheduler = k
  let n := h.width / 4
  let used := fun (p : Nat) => ((mine.filter fun t => t.pos ≤ p && p < t.pos + t.positions).map fun t => t.regs).foldl (· + ·) 0
  let slot := firstIdx 16 fun i => !(mine.any fun t => t.slot = i)
  let pos := ((upTo (16 / n)).map fun i => i * n).find? fun p => (upTo n).all fun j => used (p + j) + h.regs ≤ 1024
  let free := (upTo 64).filter fun e => !(mine.any fun t => t.entries.contains e)
  match slot, pos with
  | some sl, some p => if h.splits ≤ free.length then some ⟨k, sl, p, n, h.regs, free.take h.splits⟩ else none
  | _, _ => none

/-- A place for a group and, in a SHADOW launch, for its shadow in the same scheduler (R426). -/
def placePair (tk : List Taken) (h : Header) (shadow : Bool) (k : Nat) : Option (Taken × Option Taken) :=
  match placeOn tk h k with
  | none => none
  | some a =>
    if shadow then (placeOn (a :: tk) h k).map fun b => (a, some b) else some (a, none)

/-- Places for n groups; a group that fits on several schedulers takes one of the free choice (R356). -/
def placeGroups (s : State) (h : Header) (shadow : Bool) : Nat → List Taken → Option (List (Taken × Option Taken) × State)
  | 0, _ => some ([], s)
  | n + 1, tk =>
    let cands := (upTo 4).filterMap (placePair tk h shadow)
    let pick := cands[if cands.length = 0 then 0 else Config.choice s.fresh % cands.length]?
    match pick with
    | none => none
    | some p =>
      match placeGroups { s with fresh := s.fresh + 1 } h shadow n (p.1 :: p.2.toList ++ tk) with
      | none => none
      | some r => some (p :: r.1, r.2)

/-- Whether a core may hold teams of a launch: unfenced and not about to be fenced (R432), and inside its contract's partition (R354, R356). -/
def coreOpen (s : State) (l : Launch) (core : Nat) : Bool :=
  core < 192 && !s.dev.fencedCores.contains core && !s.dev.fencing.contains (core, false) &&
  !s.dev.fencing.contains (quadOf core, true) &&
  (match l.contract.bind (findContract s) with
   | none => true
   | some c => (mapGet 0#192 s.dev.partitions c.part).getLsbD core)

/-- What the sizes of an image's sections depend on. -/
def imageShape (h : Header) : List Nat :=
  [h.groups, h.width, h.regs, h.scalars, h.splits, h.spill, h.ls, h.ab, h.wb, h.cb]

/-- The bytes of section k of an image that the rules lay out: in section 2 the split entries of every group, each with its
in-entry stack (R319), in section 3 the spill areas (R320). -/
def laidOut (h : Header) (k : Nat) : Nat :=
  if k = 2 then h.groups * h.splits * 112 else if k = 3 then h.groups * (h.spill / 16 * 16) else 0

/-- The bytes of section k after its header: those laid out, then those that the manual does not lay out (log entry 13). -/
def sectionLen (h : Header) (k : Nat) : Nat := laidOut h k + 4 * (Config.sectionWords k (imageShape h)).toNat

/-- The bytes of an image: its header, and nine sections with theirs (R365). -/
def imageLen (h : Header) : Nat := 64 + ((upTo 9).map fun k => 16 + sectionLen h (k + 1)).foldl (· + ·) 0

/-- Whether a partition's Smax allows a team of a launch (R355). -/
def imageFits (s : State) (l : Launch) : Bool :=
  match l.contract.bind (findContract s) with
  | none => true
  | some c => imageLen l.hdr ≤ (Config.smax c.part).toNat

/-- A team's places on a core, where it fits there (R356). -/
def fitsOn (s : State) (l : Launch) (core : Nat) : Option (List (Taken × Option Taken) × State) :=
  if coreOpen s l core && imageFits s l && storesFit s core l.hdr then
    placeGroups s l.hdr l.shadow l.hdr.groups (takenOn s core)
  else none

/-- The cores of a cluster whose rank 0 lies on a core, where the rectangle lies in its die (R352). -/
def rectangle (l : Launch) (core : Nat) : Option (List Nat) :=
  if core % 48 % 8 + l.cw ≤ 8 && core % 48 / 8 + l.ch ≤ 6 then
    some ((upTo l.per).map fun r => core + r % l.cw + 8 * (r / l.cw))
  else none

/-- The next teams that the dispatcher places together: a whole cluster, or one team of a cluster that has begun. -/
def nextTeams (l : Launch) : List Nat :=
  match l.undisp with
  | [] => []
  | o :: _ =>
    let mine := l.undisp.filter fun k => k / l.per = o / l.per
    if mine.length = l.per then mine else [o]

/-- The cores for the next teams of a launch, rank 0 on a core, where all of them fit. -/
def spotsAt (s : State) (l : Launch) (core : Nat) : Option (List (Nat × Nat)) :=
  let os := nextTeams l
  let cores := if os.length = l.per then rectangle l core else some [core]
  match cores with
  | none => none
  | some cs => if os ≠ [] && cs.all fun c => (fitsOn s l c).isSome then some (os.zip cs) else none

/-- Whether the next teams of a launch fit somewhere. -/
def fitsSomewhere (s : State) (l : Launch) : Bool := (upTo 192).any fun c => (spotsAt s l c).isSome

/-! ## A team at dispatch (R357) -/

/-- A group as dispatch leaves it (R19, R37, R172, R397, R437). -/
def newGroup (l : Launch) (tid ordinal gi : Nat) (p : Taken × Option Taken) : Group :=
  let w := l.hdr.width
  let lane := fun (i : Nat) => (ordinal * l.hdr.groups + gi) * w + i
  { tid := tid, gi := gi
    dice := (upTo w).map fun i => (i, diceSeed l.seed (lane i))
    orig := mapSetMany 0#32 [] ((upTo w).map fun i => (i, BitVec.ofNat 32 (gi * w + i)))
    rule := l.hdr.rule, rmask := if l.hdr.trap.isSome then 3#8 else 0#8
    scheduler := p.1.scheduler, slot := p.1.slot, pos := p.1.pos, entries := p.1.entries
    twin := p.2.map fun t => ⟨t.slot, t.pos, t.entries⟩
    syncDue := some 1 }

/-- A group's one split at dispatch (R318, R319). -/
def newSplit (l : Launch) (tid gi : Nat) (p : Taken) : Split :=
  let all := fullMask l.hdr.width
  { tid := tid, gi := gi, rank := 0, id := BitVec.ofNat 6 (p.entries.headD 0)
    pc := l.code + BitVec.ofNat 64 l.hdr.entry, lset := all, amask := all, slices := sliceMask all }

/-- A team as dispatch leaves it (R19, R139, R145, R153, R156, R245). -/
def newTeam (l : Launch) (tid ordinal core : Nat) : Team :=
  { tid := tid, launch := l.id, ordinal := ordinal, core := core, rank := ordinal % l.per, cluster := ordinal / l.per
    cbDice := (upTo (l.hdr.cb / 1024)).map fun r => (r, diceSeed l.seed r) }

/-- What the shadow of a group has of its own, beside its registers: A and the bracket of each split. -/
def masksOf (s : State) (tid gi : Nat) : List (Nat × DWord × DWord × Bool) :=
  (splitsOf s tid gi).map fun x => (x.rank, x.amask, x.ba, x.br)

/-- The shadows of a team that has come to a core start with their leading groups' state (R426, R428). -/
def addShadows (s : State) (tid : Nat) : State :=
  let gs := s.groups.filter fun g => g.tid = tid && g.twin.isSome && !g.exited
  if gs = [] then s
  else { s with shadows := s.shadows ++ gs.map fun g => { tid := tid, gi := g.gi, g := g, masks := masksOf s tid g.gi } }

/-- One team placed on a core (R356), whose plain loads see what its launch's TAIL write, WAIT and predecessor words made visible:
the core's non-owned words go (R346, R348, R377, R384). -/
def placeTeam (s : State) (lid ordinal core : Nat) : State :=
  match findLaunch s lid with
  | none => s
  | some l =>
    match fitsOn s l core with
    | none => s
    | some (ps, s) =>
      let (tid, s) := takeId (acquireL1 (vacate s core) core)
      let s := { s with
        teams := s.teams ++ [newTeam l tid ordinal core]
        groups := s.groups ++ ps.zipIdx.map fun p => newGroup l tid ordinal p.2 p.1
        splits := s.splits ++ ps.zipIdx.map fun p => newSplit l tid p.2 p.1.1 }
      let s := addShadows s tid
      updLaunch s lid fun l =>
        { l with undisp := l.undisp.filter fun o => o ≠ ordinal, begun := true, starved := false, gridRule := false }

/-- Teams placed on their cores. -/
def placeTeams (s : State) (lid : Nat) (ps : List (Nat × Nat)) : State := ps.foldl (fun s p => placeTeam s lid p.1 p.2) s

/-- Every undispatched team of a cooperative launch placed, over at most fuel clusters, where all fit at once (R358). For teams
without clusters the first core that takes one is as good as any; rectangles are tried at every place. -/
def placeAll : Nat → State → Nat → Option State
  | 0, s, lid => (findLaunch s lid).bind fun l => if l.undisp = [] then some s else none
  | n + 1, s, lid =>
    match findLaunch s lid with
    | none => none
    | some l =>
      if l.undisp = [] then some s
      else
        let open_ := (upTo 192).filter fun c => (spotsAt s l c).isSome
        (if l.per = 1 then open_.take 1 else open_).findSome? fun c =>
          placeAll n (placeTeams s lid ((spotsAt s l c).getD [])) lid

/-- Whether all teams of a cooperative launch would fit at once on empty cores (R358). -/
def coopFits (s : State) (l : Launch) : Bool :=
  (placeAll l.size { s with teams := [], groups := [], splits := [], launches := [l] } l.id).isSome

/-! ## Beginning a launch (R348, R350) -/

/-- Whether a LAUNCH or NODE may begin after the ring's earlier commands (R348), and, on a contract's ring, after a release
(R354). -/
def mayBegin (s : State) (q : Ring) (ovl : Bool) : Bool :=
  let begun := fun (id : Nat) => match findLaunch s id with | some l => l.begun | none => true
  let before := q.begun.all fun id => some id = q.last && begun id
  (if ovl then before else q.begun = []) &&
  (match s.contracts.find? fun c => c.ring = q.idx with
   | some c => c.released
   | none => true)

/-- The status of a launch that ends before any team is dispatched, or 0 (R350, R358, R426, R451). -/
def earlyStatus (s : State) (l : Launch) : Nat :=
  let empty := { s with teams := [], groups := [], splits := [] }
  if l.shadow && (l.contract.isSome || !s.dev.enable.getLsbD 0) then 2
  else if !((upTo 192).any fun c => (fitsOn empty { l with cw := 1, ch := 1 } c).isSome) then 3
  else if l.coop && !coopFits s l then 3
  else 0

/-- A launch begins (R348): it is the ring's latest, and HEAD is past it. -/
def beginLaunch (s : State) (q : Ring) (a : LaunchArgs) (l0 : Option Launch) (n : Option (NodeArgs × List (Nat × Nat))) :
    State :=
  let (id, s) := takeId s
  let con := s.contracts.find? fun c => c.ring = q.idx
  let l : Launch :=
    { l0.getD {} with
      id := id, ctx := q.ctx, ring := some q.idx, cls := q.cls, rt := con.isSome, contract := con.map fun c => c.num
      released := con.isSome, age := q.mapped, crec := a.crec, cword := a.cword, cval := a.cval }
  let l := match n with
    | some (k, outs) => { l with node := true, replayable := true, budget := k.budget, outs := outs }
    | none => l
  let st := if l0.isNone then 2 else earlyStatus s { l with undisp := upTo l.size }
  let l := { l with status := st, undisp := if st = 0 then upTo l.size else [] }
  let s := { s with launches := s.launches ++ [l] }
  let s := updRing s q.idx fun q => { q with begun := q.begun ++ [id], last := some id }
  let s := match con with
    | some c => updContract s c.num fun c => { c with released := false, running := some id }
    | none => s
  advance s q.idx

/-- RING_LAUNCH (R348): the LAUNCH at the head of ring arg.a. -/
def execRingLaunch (s : State) : Host.Outcome State Fault Refusal :=
  .next <|
    match ringAt s s.arg.a with
    | .cmd q _ (.launch a) =>
      if !mayBegin s q a.ovl then s
      else
        (match readLaunch s q.ctx a.ldesc with
         | .ok l => beginLaunch (touchLaunch (touchCmd s q) q.ctx a.ldesc) q a l none
         | r => readStop s q.idx r)
    | x => ringStop s s.arg.a x

/-- What a word a ring waits on comes to: its target with its cell. -/
def ringWord (s : State) (ctx : Nat) (va : DWord) : DevRes (Target × Cell) :=
  match devReadCell s ctx va, translateNow s (dieOf deviceCore) ctx va 1 with
  | .ok c, .ok t => .ok (t, c)
  | .ok _, _ => .dead pageFault
  | .wait f, _ => .wait f
  | .dead c, _ => .dead c

/-- A ring blocks on a word (R348): on a condition monitor of an HBM4E word where one is free, else the mapper re-reads the
word. -/
def blockOn (s : State) (r : Nat) (t : Target) (cond : Nat) (isSigned : Bool) (v : Word) : State :=
  let m : Monitor := ⟨t.pa / 4 * 4, cond, isSigned, v, .ring r⟩
  let again := fun (q : Monitor) => q.waiter ≠ .ring r
  let s := updMem s fun q => { q with monitors := q.monitors.filter again, rechecks := q.rechecks.filter again }
  let s := if t.tier = 0 then watchWord s m else updMem s fun q => { q with rechecks := q.rechecks ++ [m] }
  blockRing { s with fresh := s.fresh + 1 } r

/-- A word with a condition for a ring, read at its home: the state in which the command goes on, or that in which the ring waits or
is faulted. -/
def ringCond (s : State) (q : Ring) (va : DWord) (cond : Nat) (isSigned : Bool) (v : Word) : Except State State :=
  match ringWord s q.ctx va with
  | .ok (t, c) =>
    let s := devTouch s q.ctx va 1 1
    if c.2 = poison then .error (faultRing s q.idx)
    else if condHolds cond isSigned c.1 v then .ok s
    else .error (blockOn s q.idx t cond isSigned v)
  | r => .error (readStop s q.idx r)

/-- Predecessor words that have all reached their values (R347, R348). -/
def predsMet (s : State) (q : Ring) : List (DWord × Word) → Except State State
  | [] => .ok s
  | p :: ps =>
    match ringCond s q p.1 5 false p.2 with
    | .ok s => predsMet s q ps
    | .error t => .error t

/-- The output table of a node (R347), where every base and length is a multiple of 64. -/
def readOuts (s : State) (ctx : Nat) (n : NodeArgs) : DevRes (Option (List (Nat × Nat))) :=
  match devReadCells s ctx n.outs (16 * n.nout) with
  | .wait f => .wait f
  | .dead c => .dead c
  | .ok cs =>
    let bs := cellBytes cs
    let outs := (upTo n.nout).map fun k => (recNum bs (16 * k) 8, recNum bs (16 * k + 8) 8)
    .ok (if outs.all fun o => o.1 % 64 = 0 && o.2 % 64 = 0 then some outs else none)

/-- RING_NODE (R348): the NODE at the head of ring arg.a, once its predecessor words have their values. -/
def execRingNode (s : State) : Host.Outcome State Fault Refusal :=
  .next <|
    match ringAt s s.arg.a with
    | .cmd q _ (.node a n) =>
      if !mayBegin s q a.ovl then s
      else
        (match predsMet (touchCmd s q) q n.preds with
         | .error t => t
         | .ok s =>
           match readOuts s q.ctx n, readLaunch s q.ctx a.ldesc with
           | .ok none, _ => faultRing s q.idx
           | .ok (some outs), .ok l =>
             beginLaunch (touchLaunch (devTouch s q.ctx n.outs 1 (4 * n.nout)) q.ctx a.ldesc) q a l (some (n, outs))
           | .ok _, r => readStop s q.idx r
           | r, _ => readStop s q.idx r)
    | x => ringStop s s.arg.a x

/-- RING_WAIT (R348): the WAIT at the head of ring arg.a completes, or blocks the ring. Its acquire is that of the teams placed
later (R377). -/
def execRingWait (s : State) : Host.Outcome State Fault Refusal :=
  .next <|
    match ringAt s s.arg.a with
    | .cmd q _ (.wait cond sg v va) =>
      (match ringCond (touchCmd s q) q va cond sg v with
       | .ok t => advance t q.idx
       | .error t => t)
    | x => ringStop s s.arg.a x

/-- Whether every write that the device has sent to other devices for a context has been acknowledged, as its release at SYS scope
needs (R287, R353, R375). -/
def devAcked (s : State) (ctx : Nat) : Bool := !(s.mem.posts.any fun p => !p.read && p.who = .device ctx)

/-- RING_SIGNAL (R348): the SIGNAL at the head of ring arg.a, after every earlier command, as a release at SYS scope. -/
def execRingSignal (s : State) : Host.Outcome State Fault Refusal :=
  .next <|
    match ringAt s s.arg.a with
    | .cmd q _ (.signal v va) =>
      if q.begun ≠ [] || !devAcked s q.ctx then s
      else
        (match devWrite (touchCmd s q) q.ctx va [v] with
         | .ok t => advance t q.idx
         | r => readStop s q.idx r)
    | x => ringStop s s.arg.a x

/-- RING_FENCE (R348): the FENCE at the head of ring arg.a, after every earlier command. -/
def execRingFence (s : State) : Host.Outcome State Fault Refusal :=
  .next <|
    match ringAt s s.arg.a with
    | .cmd q _ .fence => if q.begun ≠ [] then s else advance (touchCmd s q) q.idx
    | x => ringStop s s.arg.a x

/-! ## The queue mapper (R349) -/

/-- Whether a ring is eligible for a slot (R349). -/
def mapEligible (s : State) (q : Ring) : Bool :=
  q.tail ≠ q.head && !q.blocked && !q.faulted &&
  (match findCtx s q.ctx with | some c => c.fault.isNone | none => false)

/-- The order of rings for a slot: one that is pinned for a real-time launch, then higher class, then least recently mapped. -/
def mapKey (q : Ring) : Nat := (if q.pinned then 0 else (q.cls + 1) * 2 ^ 64) + q.mapped

/-- Whether a ring is at a command boundary: no launch of it is being dispatched (R349). -/
def atBoundary (s : State) (q : Ring) : Bool :=
  q.begun.all fun id => match findLaunch s id with | some l => !l.begun || l.undisp = [] | none => true

/-- A ring takes a slot. -/
def mapRing (s : State) (r slot : Nat) : State :=
  let (n, s) := takeId s
  updRing s r fun q => { q with slot := some slot, mapped := n + 1 }

/-- Whether a ring without a slot is to have one: it is eligible, or pinned (R349). -/
def wantsSlot (s : State) (q : Ring) : Bool := q.slot.isNone && (mapEligible s q || q.pinned)

/-- RING_MAPPING (R349): ring arg.a takes a free slot, or that of the lowest-class, least recently mapped unpinned ring
where that ring's class is lower and it has come to a command boundary. -/
def execRingMapping (s : State) : Host.Outcome State Fault Refusal :=
  .next <|
    match findRing s s.arg.a with
    | none => s
    | some q =>
      let first := leastBy mapKey (s.rings.filter (wantsSlot s))
      let held := s.rings.filter fun k => k.slot.isSome
      if first.map (fun k => k.idx) ≠ some q.idx then s
      else
        match firstIdx 32 fun k => !(held.any fun h => h.slot = some k) with
        | some k => mapRing s q.idx k
        | none =>
          let victim := leastBy (fun k : Ring => (2 - k.cls) * 2 ^ 64 + k.mapped) (held.filter fun k => !k.pinned)
          match victim with
          | none => s
          | some v =>
            if (v.cls ≤ q.cls && !q.pinned) || !atBoundary s v then s
            else mapRing (updRing s v.idx fun k => { k with slot := none }) q.idx (v.slot.getD 0)

/-! ## Dispatch (R356 to R359) -/

/-- The rank of a launch's class: real-time, high, normal, low (R360). -/
def classRank (l : Launch) : Nat := if l.rt then 0 else l.cls + 1

/-- Whether the dispatcher may place teams of a launch at all (R410, R422, R430). -/
def placesTeams (s : State) (l : Launch) : Bool :=
  !l.complete && l.status = 0 && l.rollback.isNone &&
  (match findCtx s l.ctx with | some c => c.fault.isNone && !c.checkpointing | none => false)

/-- Whether a launch has teams that the dispatcher may place (R356, R359, R366, R410, R422, R430). -/
def dispatchable (s : State) (l : Launch) : Bool :=
  l.undisp ≠ [] && (l.savedTeams = [] || l.gridRule) && placesTeams s l

/-- The images of a launch's saved teams in ascending ordinal. -/
def savedImages (s : State) (l : Launch) : List Image :=
  sortBy (fun m : Image => m.team.ordinal) (s.images.filter fun m => m.team.launch = l.id)

/-- Whether a launch has saved teams that the dispatcher may put back (R356, R359, R366). -/
def restorable (s : State) (l : Launch) : Bool := savedImages s l ≠ [] && !l.gridRule && placesTeams s l

/-- Whether launch k stands before launch l in the dispatcher's order (R356). -/
def servedBefore (k l : Launch) : Bool :=
  classRank k < classRank l || (classRank k = classRank l && (k.age < l.age || (k.age = l.age && k.id < l.id)))

/-- Whether the next teams of a launch fit, all of them at once for a cooperative one. -/
def canPlace (s : State) (l : Launch) : Bool :=
  if l.coop then (placeAll l.size s l.id).isSome else fitsSomewhere s l

/-- Whether the saved teams of a launch fit: the next one, or all at once for a cooperative launch (R356, R358, R366). -/
def canPutBack (s : State) (l : Launch) : Bool :=
  if l.coop then
    let again := fun (k : Launch) => { k with cw := 1, ch := 1, undisp := (savedImages s l).map fun m => m.team.ordinal }
    (placeAll (savedImages s l).length (updLaunch s l.id again) l.id).isSome
  else (upTo 192).any fun c => (fitsOn s l c).isSome

/-- Whether the next teams of a launch, saved ones first, fit now. -/
def nextFits (s : State) (l : Launch) : Bool := if restorable s l then canPutBack s l else canPlace s l

/-- Whether a launch has teams that wait for a core. -/
def wantsCore (s : State) (l : Launch) : Bool := dispatchable s l || restorable s l

/-- Whether a launch's turn has come (R356): every launch before it waits for room, and none of them is starved. -/
def itsTurn (s : State) (l : Launch) : Bool :=
  s.launches.all fun k => !(wantsCore s k && servedBefore k l) || (!nextFits s k && !k.starved)

/-- TEAM_DISPATCH (R352, R356 to R358): the next teams of launch arg.a are placed, rank 0 on core arg.b; a cooperative launch is
placed whole. -/
def execTeamDispatch (s : State) : Host.Outcome State Fault Refusal :=
  .next <|
    match findLaunch s s.arg.a with
    | none => s
    | some l =>
      if !dispatchable s l || !itsTurn s l then s
      else if l.coop then (placeAll l.size s l.id).getD s
      else
        match spotsAt s l s.arg.b with
        | some ps => placeTeams s l.id ps
        | none => s

/-- DISPATCH_STARVATION (R356): the next team of launch arg.a has waited 65,536 dispatcher cycles for room. -/
def execDispatchStarvation (s : State) : Host.Outcome State Fault Refusal :=
  .next <|
    match findLaunch s s.arg.a with
    | none => s
    | some l =>
      if wantsCore s l && !nextFits s l then updLaunch s l.id fun l => { l with starved := true } else s

/-- Whether a team is parked for the grid rule (R359): every live split waits in WAITC, LOCK, BARWAIT, WAITB or a REJOIN, a
WAITB's team included, or the stream in MWAIT. -/
def gridParked (s : State) (t : Team) : Bool :=
  let xs := s.splits.filter fun x => x.tid = t.tid
  (xs ≠ [] || (t.seqState = .parked && (match t.seqPark with | .bar .. => true | _ => false))) &&
  xs.all fun x => x.st = .waiting || (x.st = .parked && [.monitor, .recheck, .lock, .bar, .batch].contains x.park)

/-- The teams noted that are parked for the grid rule after a turn, with the clock when they came to be (R359). -/
def noteParked (s : State) : State :=
  { s with teams := s.teams.map fun t =>
      if t.parkedAt.isSome = gridParked s t then t
      else { t with parkedAt := if gridParked s t then some s.clock else none } }

/-- The resident team of a grid that has been parked longest (R359). -/
def parkedLongest (s : State) (l : Launch) : Option Team :=
  leastBy (fun t : Team => t.parkedAt.getD s.clock)
    ((teamsOf s l.id).filter fun t => !t.stopping && !t.retired && gridParked s t)

/-- GRID_RULE_SAVE (R359): an undispatched team of launch arg.a has waited 65,536 cycles; the team of the same grid that has been
parked longest is saved to make room for it. -/
def execGridRuleSave (s : State) : Host.Outcome State Fault Refusal :=
  .next <|
    match findLaunch s s.arg.a with
    | none => s
    | some l =>
      if l.coop || l.undisp = [] || canPlace s l then s
      else
        match parkedLongest s l with
        | none => s
        | some t =>
          updLaunch (updTeam s t.tid fun t => { t with stopping := true, drain := false }) l.id fun l =>
            { l with gridRule := true }

/-! ## Completion (R353, R443, R464) -/

/-- A ring takes a slot that is free. -/
def takeSlot (s : State) (r : Nat) : State :=
  let held := s.rings.filter fun k => k.slot.isSome
  if held.any fun k => k.idx = r then s
  else
    match firstIdx 32 fun k => !(held.any fun h => h.slot = some k) with
    | some k => mapRing s r k
    | none => s

/-- A ring pinned for a contract's release (R349): it takes a free slot at once, else the one that RING_MAPPING finds for it. -/
def pinRing (s : State) (c : Contract) : State :=
  let s := updContract s c.num fun c => { c with released := true, pending := false }
  takeSlot (updRing s c.ring fun q => { q with pinned := true }) c.ring

/-- A ring's pin ends; an empty, blocked or faulted ring leaves its slot (R349). -/
def unpinRing (s : State) (r : Nat) : State :=
  updRing s r fun q =>
    { q with pinned := false, slot := if q.head = q.tail || q.blocked || q.faulted then none else q.slot }

/-- The rings pinned now. -/
def pinnedCount (s : State) : Nat := (s.rings.filter fun q => q.pinned).length

/-- Releases that wait are made where there is room, earliest deadline first (R349, R354). -/
def grantReleases : Nat → State → State
  | 0, s => s
  | n + 1, s =>
    let ready := s.contracts.filter fun c => c.pending && c.running.isNone && !c.released
    match leastBy (fun c : Contract => c.releaseAt + c.d) ready with
    | none => s
    | some c => if 24 ≤ pinnedCount s then s else grantReleases n (pinRing s c)

/-- A contract after its launch has completed (R354, R455). -/
def endRelease (s : State) (l : Launch) (late : Bool) : State :=
  match l.contract.bind (findContract s) with
  | none => s
  | some c =>
    if c.running ≠ some l.id then s
    else
      let s := unpinRing s c.ring
      let s := updContract s c.num fun c =>
        { c with running := none, miss := if late then min 0xFFFFFFFF (c.miss + 1) else c.miss }
      let s := if c.gone then { s with contracts := s.contracts.filter fun k => k.num ≠ c.num } else s
      grantReleases 64 s

/-- The words of a completion record (R353, R443); those at bytes 36 to 43 keep their values. The tick counts are free values; one
that 32 bits do not hold saturates, and FLAGS says so. -/
def recordWords (s : State) (l : Launch) : List Word × List Word :=
  let tick := fun (k : Nat) => BitVec.ofNat 32 (min 0xFFFFFFFF (Config.ticks k s.fresh))
  let full := (upTo 5).any fun k => 0xFFFFFFFF < Config.ticks k s.fresh
  let two := fun (n : Nat) => [BitVec.ofNat 32 n, BitVec.ofNat 32 (n / 2 ^ 32)]
  ([BitVec.ofNat 32 (l.status + 256 * l.cause + 65536 * l.tcause), 0#32] ++ two l.teamsDone ++ two l.replays ++ two l.saves ++
    [BitVec.ofNat 32 ((if full then 1 else 0) + if l.released then 2 else 0)],
   [tick 0, tick 1, tick 2, tick 3, tick 4])

/-- The completion record written (R353). -/
def writeRecord (s : State) (l : Launch) : DevRes State :=
  if l.crec = 0#64 then .ok s
  else
    let w := recordWords s l
    match devWrite s l.ctx l.crec w.1 with
    | .ok t =>
      match devKeepWord t l.ctx (l.crec + 36#64) with
      | .ok t =>
        (match devKeepWord t l.ctx (l.crec + 40#64) with
         | .ok t => devWrite { t with fresh := t.fresh + 1 } l.ctx (l.crec + 44#64) w.2
         | r => r)
      | r => r
    | r => r

/-- The completion word written (R353); status 4 writes none (R422). -/
def writeCword (s : State) (l : Launch) : DevRes State :=
  if l.cword = 0#64 || l.status = 4 then .ok s else devWrite s l.ctx l.cword [l.cval]

/-- A launch is over for dispatch and for its ring. -/
def closeLaunch (s : State) (l : Launch) (late fault : Bool) : State :=
  let s := updLaunch s l.id fun l => { l with complete := true }
  let s := match l.ring with
    | some r =>
      let s := updRing s r fun q => { q with begun := q.begun.filter fun k => k ≠ l.id }
      if fault || l.status = 4 then faultRing s r else s
    | none => s
  endRelease s l late

/-- A launch completes (R353): the record, then CWORD once other devices have acknowledged what was written to them. An access that
waits keeps the launch open; one that cannot be made faults the ring after the command (R464). -/
def completeLaunch (s : State) (l : Launch) (late : Bool) : State :=
  match if l.recDone then .ok s else writeRecord s l with
  | .wait f => if l.recDead then closeLaunch s l late true else deviceWaitFor s deviceCore f (.launch l.id)
  | .dead _ => closeLaunch s l late true
  | .ok t =>
    let kept := updLaunch t l.id fun l => { l with recDone := true }
    if !devAcked t l.ctx then kept
    else
      match writeCword t l with
      | .ok u => closeLaunch u l late false
      | .wait f => if l.recDead then closeLaunch t l late true else deviceWaitFor kept deviceCore f (.launch l.id)
      | .dead _ => closeLaunch t l late true

/-- Whether every team of a launch is retired and everything of it performed (R353). -/
def teamsOver (s : State) (l : Launch) : Bool :=
  l.undisp = [] && l.savedTeams = [] && (teamsOf s l.id).all (fun t => t.retired) &&
  !(s.images.any fun m => m.team.launch = l.id)

/-- LAUNCH_COMPLETION (R353) of launch arg.a; yes: after its contract's deadline (R354). -/
def execLaunchCompletion (s : State) : Host.Outcome State Fault Refusal :=
  .next <|
    match findLaunch s s.arg.a with
    | none => s
    | some l =>
      if l.complete || l.rollback.isSome || !teamsOver s l || (l.node && l.replayable && l.status = 0) ||
          (!ctxLive s l.ctx && l.status ≠ 1)
      then s
      else completeLaunch s l s.arg.yes

/-- NODE_COMMIT (R119): every team of node arg.a has exited and no escape has occurred; its staged lines are published. -/
def execNodeCommit (s : State) : Host.Outcome State Fault Refusal :=
  .next <|
    match findLaunch s s.arg.a with
    | none => s
    | some l =>
      if l.complete || !l.node || !l.replayable || l.status ≠ 0 || l.rollback.isSome || !teamsOver s l || !ctxLive s l.ctx
      then s
      else updLaunch (publish s l.id) l.id fun l => { l with replayable := false }

/-! ## Teams removed without an image (R363, R410, R422, R454) -/

/-- Whether a requester belongs to one of some teams. -/
def askedBy (tids : List Nat) (who : Requester) : Bool :=
  match who with
  | .split t _ _ | .stream t | .engine t _ => tids.contains t
  | _ => false

/-- Whether a waiter belongs to one of some teams. -/
def waitedBy (tids : List Nat) (w : Waiter) : Bool :=
  match w with
  | .split t _ _ => tids.contains t
  | .ring _ => false

/-- What the memory system holds for some teams, dropped: flights, walks, requests, lock waiters and monitors. -/
def forgetTeams (s : State) (tids : List Nat) : State :=
  updMem s fun m =>
    { m with
      flights := m.flights.filter fun f => !tids.contains f.tid
      walks := m.walks.filter fun w => !askedBy tids w.who
      atsReqs := m.atsReqs.filter fun q => !askedBy tids q.who
      faults := m.faults.map fun f => { f with asks := f.asks.filter fun a => !askedBy tids a.who }
      locks := m.locks.map fun q => { q with waiters := q.waiters.filter fun w => !waitedBy tids w }
      portWait := m.portWait.filter fun w => !tids.contains w.2.1
      rechecks := m.rechecks.filter fun q => !waitedBy tids q.waiter
      monitors := m.monitors.filter fun q => !waitedBy tids q.waiter }

/-- Some teams removed with their allocations (R363, R422): the reservation entries of their quads that come free go to the
operations and sequencers that wait for one (R248). -/
def removeTeams (s : State) (tids : List Nat) : State :=
  let quads := ((s.teams.filter fun t => tids.contains t.tid).map fun t => quadOf t.core).dedup
  quads.foldl (fun s q => wakeEntries (repostAll s q) q) (dropTeams (forgetTeams s tids) tids)

/-- The locks on words that a launch staged, dropped with its staged lines; only groups of its own wait on them (R421, R422). -/
def dropLocks (s : State) (lid : Nat) : State :=
  updMem s fun m => { m with locks := m.locks.filter fun q => q.stage ≠ some lid }

/-- NODE_ROLLBACK (R422, R423) of launch arg.a: its teams stop and go, its staged lines are discarded, the driver is told, and it is
dispatched again while its budget lasts. -/
def execNodeRollback (s : State) : Host.Outcome State Fault Refusal :=
  .next <|
    match findLaunch s s.arg.a with
    | none => s
    | some l =>
      match l.rollback with
      | none => s
      | some t =>
        if !ctxLive s l.ctx then s
        else
          let s := keepUnchecked s l.id (teamsOf s l.id)
          let s := removeTeams s ((teamsOf s l.id).map fun t => t.tid)
          let s := { s with images := s.images.filter fun m => m.team.launch ≠ l.id }
          let s := discardStaged (dropLocks s l.id) l.id
          let s := sendMsg s (.rollback l.ctx t.info0.toNat t.pc.toNat)
          if l.replays < l.budget then
            updLaunch s l.id fun l =>
              { l with replays := l.replays + 1, rollback := none, undisp := upTo l.size, savedTeams := [], teamsDone := 0
                       gridGen := 0 }
          else
            updLaunch s l.id fun l =>
              { l with rollback := none, undisp := [], savedTeams := [], status := 4, cause := 0xB5, tcause := t.cause.toNat }

/-! ## Contracts (R354) -/

/-- CONTRACT_RELEASE (R354): a period of contract arg.a starts. A launch still running delays the release, and regains its
class for the new period. -/
def execContractRelease (s : State) : Host.Outcome State Fault Refusal :=
  .next <|
    match findContract s s.arg.a with
    | none => s
    | some c =>
      if c.gone then s
      else
        let s1 := updContract s c.num fun c => { c with pending := true, releaseAt := s.clock }
        match c.running with
        | some l =>
          updLaunch (updContract s1 c.num fun c => { c with overlap := min 0xFFFFFFFF (c.overlap + 1) }) l fun l =>
            { l with rt := true }
        | none => grantReleases 64 s1

/-- CONTRACT_OVERRUN (R354): the running launch of contract arg.a is charged past its budget. -/
def execContractOverrun (s : State) : Host.Outcome State Fault Refusal :=
  .next <|
    match findContract s s.arg.a with
    | none => s
    | some c =>
      match c.running.bind (findLaunch s) with
      | none => s
      | some l =>
        if !l.rt then s
        else
          updContract (updLaunch s l.id fun l => { l with rt := false, cls := 1 }) c.num fun c =>
            { c with overrun := min 0xFFFFFFFF (c.overrun + 1) }

end Sys2Proof.Machine
end

