-- ==== Sys2Proof/Machine/Preempt.lean ====
section
/-! DEFINITION. Pre-emption (R361 to R363), saves, images and restores (R364 to R366, R409), context faults and dumps
(R410 to R412), uncorrectable errors (R419, R420), fencing (R432), Florix ports (R286) and the health window (R461). -/

namespace Sys2Proof.Machine

def imageCrc : Cause := 0xB3#8
def sramUncorrCause : Cause := 0xB4#8

/-! ## Pre-emption requests (R361 to R363) -/

/-- A team removed without an image, to be dispatched again from its launch entry (R363). -/
def discardTeam (s : State) (t : Team) : State :=
  let s := keepUnchecked s t.launch [t]
  updLaunch (removeTeams s [t.tid]) t.launch fun l =>
    { l with undisp := sortBy (fun o => o) (t.ordinal :: l.undisp) }

/-- What the cost estimator chooses (R362). -/
inductive Choice where
  | drain | discard | save
  deriving DecidableEq, Repr

/-- The cost estimator (R362): S is the image's bytes ÷ 256, exactly; RET comes from the team, RC is its cycles resident. A team
that has retired nothing gives no Q, and is not drained (DESIGN CHOICE, log entry 33). -/
def estimate (l : Launch) (t : Team) (deadline rc : Nat) : Choice :=
  let bytes := imageLen l.hdr
  let ret := t.retWords
  let q := (l.hint - ret) * rc / ret
  if l.hint ≠ 0 && ret ≠ 0 && ret ≤ l.hint && q ≤ deadline && 256 * q < 2 * bytes then .drain
  else if !t.sideEffect && 256 * rc < 2 * bytes then .discard
  else .save

/-- A team that is to be saved issues no more (R364). -/
def stopTeam (s : State) (tid : Nat) : State := updTeam s tid fun t => { t with stopping := true, drain := false }

/-- A request for one team (R361, R362): the earlier deadline governs; a retired team is past it, and one that is being saved
goes on. -/
def requestTeam (deadline rc : Nat) (s : State) (t : Team) : State :=
  match findLaunch s t.launch with
  | none => s
  | some l =>
    if t.retired then s
    else
      let d := match t.deadline with | some k => min k deadline | none => deadline
      let s := updTeam s t.tid fun t => { t with deadline := some d }
      if t.stopping then s
      else
        match estimate l t d rc with
        | .drain => updTeam s t.tid fun t => { t with drain := true }
        | .discard => discardTeam s t
        | .save => stopTeam s t.tid

/-- PREEMPTION_REQUEST (R358, R361, R362) for team arg.a, with deadline arg.b and arg.c cycles resident; every team of a
cooperative launch is meant. -/
def execPreemptionRequest (s : State) : Host.Outcome State Fault Refusal :=
  .next <|
    match findTeam s s.arg.a with
    | none => s
    | some t =>
      match findLaunch s t.launch with
      | none => s
      | some l => (if l.coop then teamsOf s l.id else [t]).foldl (requestTeam s.arg.b s.arg.c) s

/-- DRAIN_DEADLINE (R362): the drained team arg.a has not exited at its deadline; it is saved at once, as a miss. -/
def execDrainDeadline (s : State) : Host.Outcome State Fault Refusal :=
  .next <|
    match findTeam s s.arg.a with
    | none => s
    | some t =>
      if !t.drain || t.retired then s
      else updTeam (stopTeam s t.tid) t.tid fun t => { t with missed := true }

/-! ## Images (R365) -/

/-- The header of an image without its CRC. -/
def imageHead (m : Image) (flags : Nat) : List Byte :=
  bytesOf 4 0x474D4953 ++ bytesOf 4 1 ++ bytesOf 8 m.gen ++ bytesOf 4 m.team.launch ++ bytesOf 4 m.team.ordinal ++
  bytesOf 1 m.ctx ++ bytesOf 1 flags ++ bytesOf 2 0 ++ bytesOf 8 m.len ++ bytesOf 4 9 ++ bytesOf 20 0

/-- The STATE code of a split entry (R319). -/
def stateCode (x : Split) : Nat := match x.st with | .ready => 0 | .deferred => 1 | .waiting => 2 | .parked => 3

/-- A deferral entry in its 16 bytes (R320); the owner is written in spill slots only. -/
def deferralBytes (d : DefEntry) (owner : Nat) : List Byte :=
  bytesOf 8 (owner + (if d.arr then 16 else 0) + 32 * (d.mark % 16) + 512 * bits d.pc.toNat 56 2) ++ bytesOf 8 d.lanes.toNat

/-- A split entry in its 48 bytes, followed by its in-entry deferral stack, top first (R319). -/
def splitBytes (x : Split) : List Byte :=
  let top := x.stack.take 4
  bytesOf 10 0 ++ bytesOf 2 (x.stack.length - 4) ++
  bytesOf 2 (top.length + (if x.br then 8 else 0) + 16 * (x.wm % 16) + 256 * stateCode x + 1024 * x.id.toNat) ++
  bytesOf 2 x.slices.toNat ++ bytesOf 8 x.ba.toNat ++ bytesOf 8 x.amask.toNat ++ bytesOf 8 x.lset.toNat ++
  bytesOf 8 x.pc.toNat ++ (top.flatMap fun d => deferralBytes d 0) ++ List.replicate (16 * (4 - top.length)) 0#8

/-- The split entries of a group in ascending rank; a free one is zero. -/
def entriesBytes (xs : List Split) (budget : Nat) : List Byte :=
  (upTo budget).flatMap fun r =>
    match xs.find? fun x => x.rank = r with
    | some x => splitBytes x
    | none => List.replicate 112 0#8

/-- The spill area of a group: each owner's spilled entries, bottom to top in ascending slot index; a free slot is zero (R320). -/
def spillBytes (xs : List Split) (slots : Nat) : List Byte :=
  let held := (sortBy (fun x : Split => x.rank) xs).flatMap fun x =>
    ((x.stack.drop 4).reverse).flatMap fun d => deferralBytes d x.rank
  (held ++ List.replicate (16 * slots) 0#8).take (16 * slots)

/-- The bytes of section k that the rules lay out. -/
def laidBytes (m : Image) (h : Header) (k : Nat) : List Byte :=
  let of := fun (gi : Nat) => m.splits.filter fun x => x.gi = gi
  if k = 2 then (upTo h.groups).flatMap fun gi => entriesBytes (of gi) h.splits
  else if k = 3 then (upTo h.groups).flatMap fun gi => spillBytes (of gi) (h.spill / 16)
  else []

/-- Section k of an image: its header with the ID and the length, the bytes laid out, and contents that the manual does not lay out
(log entry 13). -/
def imageSection (m : Image) (h : Header) (k : Nat) : List Byte :=
  let n := (Config.sectionWords k (imageShape h)).toNat
  bytesOf 4 k ++ bytesOf 4 0 ++ bytesOf 8 (16 + sectionLen h k) ++ laidBytes m h k ++
    (upTo n).flatMap fun j => bytesOf 4 (Config.imageWord (m.id * 16 + k) j).toNat

/-- An image's bytes, with the CRC over header bytes 0 to 59 and every byte after the header. -/
def imageData (m : Image) (h : Header) (flags : Nat) : List Byte :=
  let body := (upTo 9).flatMap fun k => imageSection m h (k + 1)
  imageHead m flags ++ bytesOf 4 (crc32c (imageHead m flags ++ body)) ++ body

/-- Whether bytes read as an image have its MAGIC, VERSION and CRC (R366). -/
def imageOk (bs : List Byte) : Bool :=
  numOf (bs.take 4) = 0x474D4953 && numOf ((bs.drop 4).take 4) = 1 &&
  numOf ((bs.drop 60).take 4) = crc32c (bs.take 60 ++ bs.drop 64)

/-! ## An image read back (R319, R320, R366) -/

/-- Where the contents of section k of an image begin (R365). -/
def sectionAt (h : Header) (k : Nat) : Nat := 80 + ((upTo (k - 1)).map fun j => 16 + sectionLen h (j + 1)).foldl (· + ·) 0

/-- The owner and the deferral entry in 16 bytes (R320). -/
def readDeferral (bs : List Byte) : Nat × DefEntry :=
  let v := numOf (bs.take 8)
  (v % 16,
    { lanes := BitVec.ofNat 64 (numOf ((bs.drop 8).take 8)), pc := (BitVec.ofNat 57 (v / 512 * 4)).signExtend 64
      mark := v / 32 % 16, arr := v.testBit 4 })

/-- The spilled entries of a split in a group's spill area, bottom to top (R320). -/
def readSpill (area : List Byte) (rank : Nat) : List DefEntry :=
  ((chunksOf 16 (area.length / 16) area).map readDeferral).filterMap fun d =>
    if d.2.lanes ≠ 0#64 && d.1 = rank then some d.2 else none

/-- The STATE that a code names (R319). -/
def codeState (k : Nat) : SplitState := match k with | 0 => .ready | 1 => .deferred | 2 => .waiting | _ => .parked

/-- A split as its 112 bytes and its group's spill area give it (R319, R320). -/
def readSplit (bs area : List Byte) (x : Split) : Split :=
  let n := fun (lo len : Nat) => numOf ((bs.drop lo).take len)
  let ctl := n 12 2
  let top := (upTo (min 4 (ctl % 8))).map fun k => (readDeferral ((bs.drop (48 + 16 * k)).take 16)).2
  { x with
    pc := BitVec.ofNat 64 (n 40 8), lset := BitVec.ofNat 64 (n 32 8), amask := BitVec.ofNat 64 (n 24 8)
    ba := BitVec.ofNat 64 (n 16 8), slices := BitVec.ofNat 16 (n 14 2), br := ctl.testBit 3, wm := ctl / 16 % 16
    st := codeState (ctl / 256 % 4)
    stack := top ++ ((readSpill area x.rank).reverse).take (n 10 2) }

/-- An image as its bytes give it (R366): what the rules lay out is taken from them, the rest is what the save put there (log
entry 13). -/
def readBack (h : Header) (bs : List Byte) (m : Image) : Image :=
  let entry := fun (x : Split) => (bs.drop (sectionAt h 2 + (x.gi * h.splits + x.rank) * 112)).take 112
  let slots := h.spill / 16 * 16
  let area := fun (gi : Nat) => (bs.drop (sectionAt h 3 + gi * slots)).take slots
  { m with splits := m.splits.map fun x => readSplit (entry x) (area x.gi) x }

/-- The header of the kernel that an image's team runs. -/
def imageHdr (s : State) (m : Image) : Header :=
  match findLaunch s m.team.launch with
  | some l => l.hdr
  | none => {}

/-- A split as an image holds it: a wait that its word begins again is left, one that has taken effect stays (R103, R107,
R364). -/
def savedSplit (x : Split) : Split :=
  let x := { x with record := none }
  if x.st = .parked && !([.trap, .regroup, .grid] : List Park).contains x.park then unpark x else x

/-- A load that a save drops: its words are read anew after the restore (R364, R366); what it holds for lanes that read nothing, as
those of a TCAP without a record, stays. -/
def droppedLoad (f : Flight) : Flight :=
  let anew := fun (i : Nat) => f.again.any fun a => a.1.lane = i
  { f with cells := f.cells.filter fun c => !anew (c.1 % 64), scalars := if anew 64 then [] else f.scalars
           fills := [], chans := [], isRemote := false, replay := true }

/-- A group as an image holds it: the operations that the save drops are no longer counted (R169). -/
def savedGroup (dropped : List Flight) (g : Group) : Group :=
  { g with loads := g.loads - (dropped.filter fun f => f.gi = g.gi && f.counter = some 0).length }

/-- The image of a team as it stands. -/
def imageOf (s : State) (c : Ctx) (l : Launch) (t : Team) (flags : Nat) (base : Option DWord) (id : Nat) : Image :=
  let dropped := s.mem.flights.filter fun f => f.tid = t.tid && f.again ≠ []
  { id := id, ctx := c.num, gen := c.gen, flags := flags, len := imageLen l.hdr, base := base, team := t
    groups := (s.groups.filter fun g => g.tid = t.tid).map (savedGroup dropped)
    splits := (s.splits.filter fun x => x.tid = t.tid).map savedSplit
    flights := dropped.map droppedLoad }

/-- Whether an operation of a team must still end before it leaves its core or its context is dumped (R262, R336, R364, R410): a
granted matrix operation, a migrating group, a remote store or atomic, or a chunk whose writes have begun. -/
def settling (s : State) (t : Team) : Bool :=
  t.posted.any (fun p => p.granted) ||
  (s.groups.any fun g => g.tid = t.tid && g.regroup = .migrating) ||
  (s.mem.flights.any fun f => f.tid = t.tid && f.isRemote && f.again = []) ||
  t.running.any fun c => c.sent ≠ []

/-- Whether a team has a chunk in flight, which a save lets complete (R150, R364). -/
def chunkInFlight (t : Team) : Bool := t.running.any fun c => (!c.parked && c.begun ≠ []) || c.out ≠ []

/-- A team's operations in flight end: each comes back, but for a load, which waits to be dropped (R364). -/
def landTeam (s : State) (tid : Nat) : State :=
  (s.mem.flights.filter fun f => f.tid = tid && f.again = []).foldl (fun s f => landFlight s f [] []) s

/-- Every branch bit of a team's splits written to the trace ring (R435, R437). -/
def flushTeam (s : State) (tid : Nat) : State :=
  (s.splits.filter fun x => x.tid = tid).foldl (fun s x =>
    match exAt s x.tid x.gi x.rank with
    | some e => if e.x.brBits = [] then s else flushBranch s e
    | none => s) s

/-- The first place in a context's save area where an image fits: its start, or the end of an image that lies there. -/
def saveSpot (s : State) (c : Ctx) (len : Nat) : Option DWord :=
  let held := s.images.filterMap fun m => if m.ctx = c.num then m.base.map fun b => ((b - c.save).toNat, m.len) else none
  let free := fun (o : Nat) => o + len ≤ c.saveLen && held.all fun h => o + len ≤ h.1 || h.1 + h.2 ≤ o
  ((0 :: held.map fun h => h.1 + h.2).find? free).map fun o => c.save + BitVec.ofNat 64 o

/-- The team leaves its core, and its image stands for it (R364). -/
def leaveCore (s : State) (l : Launch) (m : Image) (missed : Bool) : State :=
  let s := removeTeams s [m.team.tid]
  let s := { s with images := s.images ++ [m] }
  let s := updLaunch s l.id fun l => { l with savedTeams := l.savedTeams ++ [m.id], saves := l.saves + 1 }
  updCtx s m.ctx fun c => { c with misses := if missed then c.misses + 1 else c.misses }

/-- An image written into the save area, and the team's removal; the write waits for Keeper, or is a context fault (R464). -/
def writeImage (s : State) (l : Launch) (c : Ctx) (t : Team) (missed : Bool) : State :=
  match saveSpot s c (imageLen l.hdr) with
  | none => s
  | some base =>
    let (id, s1) := takeId s
    let flags := (if c.checkpointing then 1 else 0) + (if missed then 4 else 0)
    let m := imageOf s1 c l t flags (some base) id
    match devWrite s1 c.num base (wordsOf (imageData m l.hdr flags)) with
    | .ok s2 => leaveCore s2 l m missed
    | .wait f => deviceWait s t.core f
    | .dead k => raiseCtx s c.num (accessFault s (some t.tid) k base)

/-- A stream fault that waits for its split, as a save leaves it: it joins the held traps of that split's group ahead of every
other, and is taken first on restore (R247, R364, R409). -/
def holdStreamFault (s : State) (l : Launch) (t : Team) : State :=
  match t.seqFault, leastBy (fun g : Group => g.gi) (liveGroups s t.tid) with
  | some f, some g =>
    (match leastBy (fun x : Split => x.id.toNat) (splitsOf s t.tid g.gi) with
     | none => s
     | some x =>
       if l.hdr.trap.isNone then s
       else
         let s := leaveWait (updTeam s t.tid fun t => { t with seqFault := none }) x.tid x.gi x.rank
         let s := updGroup s x.tid x.gi fun g => { g with held := ⟨x.rank, { f with pc := x.pc, mask := x.amask }⟩ :: g.held }
         updSplit s x.tid x.gi x.rank (parkAs .trap 0))
  | _, _ => s

/-- SAVE (R364, R386, R435) of team arg.a, which has stopped; yes: the save ends after its deadline. What is in flight ends
or is dropped, the core writes back the words it owns and the packets that are due, then the image. -/
def execSave (s : State) : Host.Outcome State Fault Refusal :=
  .next <|
    match findTeam s s.arg.a with
    | none => s
    | some t =>
      if !t.stopping || t.retired || settling s t || chunkInFlight t then s
      else
        let s1 := landTeam s t.tid
        let s1 := match findTeam s1 t.tid, findLaunch s1 t.launch with
          | some u, some l => holdStreamFault s1 l u
          | _, _ => s1
        let s1 := flushTeam (tidy s1) t.tid
        match s1.devFail with
        | some f => deviceWait s t.core f
        | none =>
          match findTeam s1 t.tid, (findLaunch s1 t.launch).bind fun l => (findCtx s1 l.ctx).map fun c => (l, c) with
          | some u, some (l, c) =>
            if u.retired || c.fault.isSome || l.rollback.isSome then s1
            else writeImage (cleanL1 s1 u.core (fun _ => true) false true) l c u (s.arg.yes || u.missed)
          | _, _ => s1

/-! ## Restores (R366, R409) -/

/-- A group of an image in its new place. -/
def replaceGroup (g : Group) (p : Taken × Option Taken) : Group :=
  { g with
    scheduler := p.1.scheduler, slot := p.1.slot, pos := p.1.pos, entries := p.1.entries
    twin := p.2.map fun t => ⟨t.slot, t.pos, t.entries⟩
    syncDue := if g.exited then none else some 2 }

/-- A split of an image in its new entry: it keeps its rank. -/
def replaceSplit (ps : List (Taken × Option Taken)) (x : Split) : Split :=
  match ps[x.gi]? with
  | some p => { x with id := BitVec.ofNat 6 (p.1.entries.getD x.rank x.rank) }
  | none => x

/-- The team of an image on a core: commands that ran resume at their next chunk from the front of the queue, which may then hold
more than 16 entries (R150; DESIGN CHOICE, log entry 51), a sequencer that
waited for an entry or a translation looks again, and operations not granted wait to be posted again (R262). -/
def replaceTeam (t : Team) (core : Nat) : Team :=
  let again := t.running.map fun c =>
    { c with onEngine := none, seat := 0, parked := false, guard := none, begun := [], out := [], sent := [], heard := [] }
  let looks := match t.seqPark with | .entry => true | .walk => true | .drain => true | _ => false
  { t with
    core := core, queue := again ++ t.queue, running := [], stopping := false, deadline := none, drain := false, missed := false
    posted := [], repost := t.posted ++ t.repost, parkedAt := none, lsOld := []
    seqState := if t.seqState = .parked && looks then .running else t.seqState
    seqPark := if looks then .none else t.seqPark }

/-- A dropped load of an image asked for again, under a fresh request number, and counted again (R169). -/
def replayFlight (s : State) (f : Flight) : State :=
  let (id, s) := takeId s
  let s := match f.counter with | some k => countUp s f.tid f.gi k 1 | none => s
  updMem s fun m => { m with flights := m.flights ++ [{ f with id := id }] }

/-- An image written back to a core where its team fits (R366, R386): the core's non-owned words go first. -/
def putBack (s : State) (m : Image) (core : Nat) : Option State :=
  match findLaunch s m.team.launch with
  | none => none
  | some l =>
    match fitsOn s l core with
    | none => none
    | some (ps, s) =>
      let s := acquireL1 (vacate s core) core
      let s := { s with
        teams := s.teams ++ [replaceTeam m.team core]
        groups := s.groups ++ m.groups.map fun g => match ps[g.gi]? with | some p => replaceGroup g p | none => g
        splits := s.splits ++ m.splits.map (replaceSplit ps)
        images := s.images.filter fun k => k.id ≠ m.id }
      let s := repostAll (m.flights.foldl replayFlight s) (quadOf core)
      some (updLaunch s l.id fun l =>
        { l with savedTeams := l.savedTeams.filter fun k => k ≠ m.id, begun := true, starved := false })

/-- What a restore does once its team is there: held traps enter (R409), and waits that may be over are looked at. -/
def afterRestore (s : State) (m : Image) : State :=
  let s := m.groups.foldl (fun s g => enterHeld s g.tid g.gi) s
  tryRetire (submitReady (evalGrid s m.team.launch)) m.team.tid

/-- An image as it is read from the save area, none where it fails its checks (R366); one from a drive was checked and read back when
it came (R431). -/
def readImage (s : State) (h : Header) (m : Image) : DevRes (Option Image) :=
  match m.base with
  | none => .ok (some m)
  | some b =>
    match devReadCells s m.ctx b m.len with
    | .ok cs =>
      let bs := (cellBytes cs).take m.len
      .ok (if imageOk bs then some (readBack h bs m) else none)
    | .wait f => .wait f
    | .dead c => .dead c

/-- Images read one after another: all of them, or the first that fails, waits or cannot be read (R464). -/
def readImages (s : State) (h : Header) : List Image → DevRes (Option (List Image))
  | [] => .ok (some [])
  | m :: ms =>
    match readImage s h m with
    | .ok (some m) =>
      (match readImages s h ms with
       | .ok (some ms) => .ok (some (m :: ms))
       | r => r)
    | .ok none => .ok none
    | .wait f => .wait f
    | .dead c => .dead c

/-- Images restored together, the first on a given core and the others on the first core where each fits (R358). -/
def putBackAll (s : State) (core : Nat) : List Image → Option State
  | [] => some s
  | m :: ms =>
    let spot := if (putBack s m core).isSome then some core else (upTo 192).find? fun c => (putBack s m c).isSome
    match spot.bind (putBack s m) with
    | some t => putBackAll t core ms
    | none => none

/-- Whether the images of a launch may be placed now, in the dispatcher's order (R356, R359). -/
def mayRestore (s : State) (l : Launch) : Bool := restorable s l && itsTurn s l

/-- Whether an image is the next that its launch puts back: those of a launch go back in ascending ordinal (R356). -/
def nextImage (s : State) (l : Launch) (m : Image) : Bool := l.coop || (savedImages s l).head?.map (fun k => k.id) = some m.id

/-- Whether a launch's teams may be put back: those of a cooperative launch go back together, once none of them is still being
saved (R358). -/
def gathered (s : State) (l : Launch) : Bool := !l.coop || (teamsOf s l.id).all fun t => t.retired || !t.stopping

/-- TEAM_RESTORE (R366) of image arg.a on core arg.b; a cooperative launch is restored whole. A mismatch is IMAGE_CRC, an image that
cannot be read a context fault with the cause met (R464); neither places anything. -/
def execTeamRestore (s : State) : Host.Outcome State Fault Refusal :=
  .next <|
    match s.images.find? fun m => m.id = s.arg.a with
    | none => s
    | some m =>
      match findLaunch s m.team.launch with
      | none => s
      | some l =>
        if !mayRestore s l || !gathered s l || !nextImage s l m then s
        else
          let ms := if l.coop then m :: s.images.filter fun k => k.team.launch = l.id && k.id ≠ m.id else [m]
          let bad := fun (c : Cause) =>
            raiseCtx s m.ctx { cause := c, launch := l.id, team := some m.team.ordinal, trap := { cause := c } }
          if (putBackAll s s.arg.b ms).isNone then s
          else
            match readImages s l.hdr ms with
            | .ok (some ms) =>
              (match putBackAll s s.arg.b ms with
               | some t =>
                 let r := ms.foldl (fun s m => addShadows s m.team.tid) (ms.foldl afterRestore (tidy t))
                 (match r.devFail with
                  | some f => deviceWait s s.arg.b f
                  | none => tidy r)
               | none => s)
            | .ok none => bad imageCrc
            | .wait f => deviceWait s s.arg.b f
            | .dead c => bad c

/-! ## Dumps (R411, R412) -/

/-- The FLAGS byte of a dump header. -/
def dumpFlags (f : CtxFault) (secondary truncated : Bool) : Nat :=
  let b := fun (p : Bool) (k : Nat) => if p then 2 ^ k else 0
  b secondary 0 + b truncated 1 + b f.noEntry 2 + b f.stream 3 + b (f.splitId.isNone && !f.stream) 4

/-- A dump header without its CRC. -/
def dumpHead (c : Ctx) (f : CtxFault) (secondary truncated : Bool) (len : Nat) : List Byte :=
  bytesOf 4 0x4B444D50 ++ bytesOf 2 c.dumpSeq ++ bytesOf 1 c.num ++ bytesOf 1 (dumpFlags f secondary truncated) ++
  bytesOf 1 f.cause.toNat ++ bytesOf 1 f.cause2.toNat ++ bytesOf 1 (f.gi.getD 0xFF) ++ bytesOf 1 (f.splitId.getD 0xFF) ++
  bytesOf 4 (f.team.getD 0xFFFFFFFF) ++ bytesOf 8 len ++ bytesOf 8 (f.trap.wordPc.getD f.trap.pc).toNat ++ bytesOf 8 f.trap.mask.toNat ++
  bytesOf 4 f.trap.info0.toNat ++ bytesOf 4 f.trap.info1.toNat ++ bytesOf 4 f.trap.info2.toNat ++
  bytesOf 4 f.trap.info3.toNat ++ bytesOf 4 f.launch

/-- A dump header with the CRC of its bytes 0 to 59 and of what follows. -/
def dumpHeader (c : Ctx) (f : CtxFault) (secondary truncated : Bool) (body : List Byte) : List Byte :=
  let h := dumpHead c f secondary truncated (64 + body.length)
  h ++ bytesOf 4 (crc32c (h ++ body))

/-- A section with its header in the form of R365. -/
def dumpSection (id : Nat) (body : List Byte) : List Byte := bytesOf 4 id ++ bytesOf 4 0 ++ bytesOf 8 (16 + body.length) ++ body

/-- A fault record as Keeper reads it (R117). LANES is the number of lanes that faulted on the page (log entry 27). -/
def faultBytes (f : FaultRec) : List Byte :=
  bytesOf 8 f.va.toNat ++ bytesOf 8 f.seq ++ bytesOf 1 f.ctx ++ bytesOf 1 f.kind ++ bytesOf 1 f.req ++ bytesOf 1 f.level ++
  bytesOf 2 f.unit_ ++ bytesOf 2 (laneCount f.lanes) ++ bytesOf 8 0

/-- What a part of a dump comes to: its bytes, none where it cannot be read, or a wait for Keeper, unless the dump has already been
told to stop (R412, R464). -/
def dumpPart (c : Ctx) (r : DevRes (List Cell)) (f : List Byte → List Byte) : DevRes (Option (List Byte)) :=
  match r with
  | .ok cs => .ok (some (f (cellBytes cs)))
  | .wait w => if c.dumpStop then .ok none else .wait w
  | .dead _ => .ok none

/-- The capture ring, preceded by CAPSEQ and LOSTCAP (ID 16). -/
def captureSection (s : State) (c : Ctx) : DevRes (Option (List Byte)) :=
  dumpPart c (if c.capring = 0#64 then .ok [] else devReadCells s c.num c.capring (64 * 32512)) fun bs =>
    dumpSection 16 (bytesOf 8 c.capseq ++ bytesOf 4 c.lostcap ++ bs)

/-- The pending fault records (ID 17). -/
def faultSection (s : State) (c : Ctx) : DevRes (Option (List Byte)) :=
  .ok (some (dumpSection 17 ((s.mem.faults.filter fun f => f.ctx = c.num).flatMap faultBytes)))

/-- The trace ring with its header (ID 18). -/
def traceSection (s : State) (c : Ctx) : DevRes (Option (List Byte)) :=
  if c.trace = 0#64 then .ok (some (dumpSection 18 []))
  else
    match devReadCells s c.num c.trace 64 with
    | .ok h => dumpPart c (devReadCells s c.num c.trace (64 + 32 * 2 ^ recNum (cellBytes h) 4 1)) (dumpSection 18)
    | r => dumpPart c r fun bs => bs

/-- The frozen images of a context's teams in ascending ordinal, each with FLAGS bit 1 (R411). -/
def frozenImages (s : State) (c : Ctx) : List (List Byte) × State :=
  let mine := s.teams.filterMap fun t =>
    match findLaunch s t.launch with
    | some l => if l.ctx = c.num && !t.retired then some (l, t) else none
    | none => none
  (sortBy (fun (p : Launch × Team) => p.2.ordinal) mine).foldl (fun (acc : List (List Byte) × State) p =>
    let (id, s) := takeId acc.2
    (acc.1 ++ [imageData (imageOf s c p.1 p.2 2 none id) p.1.hdr 2], s)) ([], s)

/-- The parts of a dump up to the first that cannot be read. -/
def readable : List (DevRes (Option (List Byte))) → DevRes (List (List Byte))
  | .ok (some p) :: ps =>
    (match readable ps with
     | .ok qs => .ok (p :: qs)
     | r => r)
  | .wait f :: _ => .wait f
  | _ => .ok []

/-- A dump with its first k parts, written from the first free byte of the area; none where it does not fit or cannot be
written. -/
def dumpOf (s : State) (c : Ctx) (f : CtxFault) (parts : List (List Byte)) (total k : Nat) : DevRes (Option (Nat × State)) :=
  let body := (parts.take k).flatMap fun p => p
  let bs := dumpHeader c f false (k < total) body
  if c.dumpLen < c.dumpPos + bs.length then .ok none
  else
    match devWrite s c.num (c.dump + BitVec.ofNat 64 c.dumpPos) (wordsOf bs) with
    | .ok t => .ok (some (bs.length, t))
    | .wait f => if c.dumpStop then .ok none else .wait f
    | .dead _ => .ok none

/-- The longest dump that fits, of at most k parts. -/
def longestDump (s : State) (c : Ctx) (f : CtxFault) (parts : List (List Byte)) (total : Nat) :
    Nat → DevRes (Option (Nat × Bool × State))
  | 0 =>
    match dumpOf s c f parts total 0 with
    | .ok (some r) => .ok (some (r.1, 0 < total, r.2))
    | .ok none => .ok none
    | .wait f => .wait f
    | .dead d => .dead d
  | k + 1 =>
    match dumpOf s c f parts total (k + 1) with
    | .ok (some r) => .ok (some (r.1, k + 1 < total, r.2))
    | .ok none => longestDump s c f parts total k
    | .wait f => .wait f
    | .dead d => .dead d

/-- A secondary header appended after a dump, as long as the area has room and can be written (R412, R464). -/
def writeSecondary (n : Nat) (r : DevRes State) (f : CtxFault) : DevRes State :=
  match r with
  | .ok s =>
    (match findCtx s n with
     | none => .ok s
     | some c =>
       let full := updCtx s n fun c => { c with dumpFull := true }
       if c.dumpFull then .ok s
       else if c.dumpLen < c.dumpPos + 64 then .ok full
       else
         match devWrite s n (c.dump + BitVec.ofNat 64 c.dumpPos) (wordsOf (dumpHeader c f true false [])) with
         | .ok t => .ok (updCtx t n fun c => { c with dumpPos := c.dumpPos + 64 })
         | .wait w => if c.dumpStop then .ok full else .wait w
         | .dead _ => .ok full)
  | r => r

/-- The dump of a context (R411, R412): none into a full area, else as many whole parts as fit. -/
def writeDump (s : State) (c : Ctx) (f : CtxFault) : DevRes State :=
  if c.dumpFull then .ok s
  else
    let im := frozenImages s c
    match readable [captureSection s c, faultSection s c, traceSection s c] with
    | .wait f => .wait f
    | .dead d => .dead d
    | .ok rest =>
      let parts := im.1 ++ rest
      let total := im.1.length + 3
      match longestDump im.2 c f parts total parts.length with
      | .wait f => .wait f
      | .dead d => .dead d
      | .ok none => .ok (updCtx im.2 c.num fun c => { c with dumpFull := true })
      | .ok (some (len, short, t)) =>
        let t := updCtx t c.num fun c => { c with dumpPos := c.dumpPos + len, dumpFull := short }
        match c.secondary.foldl (writeSecondary c.num) (.ok t) with
        | .ok t => .ok (updCtx t c.num fun c => { c with dumpSeq := c.dumpSeq + 1 })
        | r => r

/-! ## Context faults (R410) -/

/-- The unretired teams of a context. -/
def ctxTeams (s : State) (n : Nat) : List Team :=
  s.teams.filter fun t => !t.retired && (match findLaunch s t.launch with | some l => l.ctx = n | none => false)

/-- The launches of a context that are not complete. -/
def ctxLaunches (s : State) (n : Nat) : List Launch := s.launches.filter fun l => l.ctx = n && !l.complete

/-- The submitted collectives of a context fail with COLL_ABORT, which goes to their peers (R302, R410); the slots they leave go to
those that wait (R292). -/
def abortColls (s : State) (n : Nat) : State :=
  submitReady <|
    (s.colls.filter fun c => c.ctx = n && c.live).foldl (fun s c => endColl (sendAborts s c) c.id (some collAbortCause)) s

/-- Whether a collective of a context has a chunk step in flight, which completes before the collective fails (R410). -/
def stepInFlight (s : State) (n : Nat) : Bool := s.colls.any fun c => c.ctx = n && c.live && !c.parked && c.now.isSome

/-- Every team and image of a context removed, with what was staged (R410, R454). -/
def clearTeams (s : State) (n : Nat) : State :=
  let ls := s.launches.filter fun l => l.ctx = n
  let s := ls.foldl (fun s l => keepUnchecked s l.id (teamsOf s l.id)) s
  let mine := (s.teams.filter fun t => ls.any fun l => l.id = t.launch).map fun t => t.tid
  let s := removeTeams s mine
  let s := { s with images := s.images.filter fun m => m.ctx ≠ n }
  ls.foldl (fun s l => discardStaged s l.id) s

/-- A launch of a faulted context completes with STATUS 1 and the primary cause (R353, R410). -/
def failLaunch (cause : Cause) (s : State) (l : Launch) : State :=
  let s := updLaunch s l.id fun l =>
    { l with status := 1, cause := cause.toNat, undisp := [], savedTeams := [], rollback := none, begun := true }
  match findLaunch s l.id with
  | some l => completeLaunch s l false
  | none => s

/-- CONTEXT_FAULT (R410) of context arg.a: the context is frozen and its work in flight ends; its collectives fail, its dump
is written, and its launches and rings fail. -/
def execContextFault (s : State) : Host.Outcome State Fault Refusal :=
  .next <|
    match findCtx s s.arg.a with
    | none => s
    | some c =>
      match c.fault with
      | none => s
      | some f =>
        if f.served || (ctxTeams s c.num).any (settling s) || stepInFlight s c.num then s
        else
          let s1 := (ctxTeams s c.num).foldl (fun s t => flushTeam (tidy (landTeam s t.tid)) t.tid) s
          let s1 := abortColls (tidy s1) c.num
          match (findCtx s1 c.num).map fun d => writeDump s1 d f with
          | some (.ok s2) =>
            let s3 := clearTeams s2 c.num
            let s3 := (ctxLaunches s3 c.num).foldl (failLaunch f.cause) s3
            let s3 := (s3.rings.filter fun q => q.ctx = c.num).foldl (fun s q => faultRing s q.idx) s3
            updCtx s3 c.num fun d =>
              { d with fault := d.fault.map (fun f => { f with served := true }), secondary := [], dumped := true
                       checkpointing := false }
          | some (.wait g) => deviceWait s deviceCore g
          | _ => s

/-! ## Uncorrectable errors (R419, R420) -/

/-- SRAM_UNCORR of a context, in the state of a launch where one is named (R420): a replayable node rolls back, anything else is a
context fault. -/
def sramUncorr (s : State) (n : Nat) (t : Trap) (launch : Option Launch) (team : Option Nat) : State :=
  match launch with
  | some l =>
    if l.ctx = n && l.node && l.replayable then updLaunch s l.id fun l => { l with rollback := some (l.rollback.getD t) }
    else raiseCtx s n { cause := sramUncorrCause, trap := t, launch := l.id, team := team }
  | none => raiseCtx s n { cause := sramUncorrCause, trap := t }

/-! ## Fencing (R3, R432) -/

/-- The cores of a quad. -/
def coresOf (quad : Nat) : List Nat := (upTo 192).filter fun c => quadOf c = quad

/-- Whether a core, or with true a quad, is fenced. -/
def isFenced (d : Dev) (unit : Nat × Bool) : Bool :=
  if unit.2 then d.fencedQuads.contains unit.1 && (coresOf unit.1).all d.fencedCores.contains
  else d.fencedCores.contains unit.1

/-- Keeper begins to fence a core, or with true a quad (R432). -/
def beginFence (s : State) (unit : Nat × Bool) : State :=
  if isFenced s.dev unit || s.dev.fencing.contains unit then s
  else updDev s fun d => { d with fencing := d.fencing ++ [unit] }

/-- An uncorrectable error at a location of a core's store noted: a second one at one location fences the core, a second one in the
engines of a quad, store 6, fences the quad (R432). -/
def noteStrike (s : State) (core store loc : Nat) : State :=
  let spot := (core, store, loc)
  let quad := quadOf core
  let again := s.dev.strikes.contains spot
  let engines := store = 6 && s.dev.quadStrikes.contains quad
  let s := updDev s fun d =>
    { d with strikes := if again then d.strikes else d.strikes ++ [spot]
             quadStrikes := if store ≠ 6 || engines then d.quadStrikes else d.quadStrikes ++ [quad] }
  if 192 ≤ core then s
  else if engines then beginFence s (quad, true)
  else if again then beginFence s (core, false)
  else s

/-- SRAM_UNCORR (R420, R432): context arg.a, store arg.b, core arg.c, in the state of team arg.d, at location arg.v of the store. -/
def execSramUncorr (s : State) : Host.Outcome State Fault Refusal :=
  .next <|
    let t : Trap :=
      { cause := sramUncorrCause, info0 := BitVec.ofNat 32 s.arg.b, info1 := BitVec.ofNat 32 s.arg.c }
    let tm := findTeam s s.arg.d
    let s := noteStrike s s.arg.c s.arg.b s.arg.v.toNat
    sramUncorr s s.arg.a t (tm.bind fun t => findLaunch s t.launch) (tm.map fun t => t.ordinal)

/-- ON_PACKAGE_LINK_FAILURE (R419, R420): SRAM_UNCORR for every context of arg.nums that uses the link; where nothing of a context
but replayable nodes of arg.nums2 uses it, those roll back. -/
def execOnPackageLinkFailure (s : State) : Host.Outcome State Fault Refusal :=
  .next (s.arg.nums.foldl (fun s n =>
    let t : Trap := { cause := sramUncorrCause }
    let ls := (s.arg.nums2.filterMap (findLaunch s)).filter fun l => l.ctx = n && !l.complete
    if ls ≠ [] && ls.all fun l => l.node && l.replayable then ls.foldl (fun s l => sramUncorr s n t (some l) none) s
    else sramUncorr s n t none none) s)

/-- Units fenced: they leave the dispatcher's set, FEATURES is rewritten and the replace request is set. -/
def fence (s : State) (cores quads : List Nat) : State :=
  let union := fun (a b : List Nat) => a ++ b.filter fun k => !a.contains k
  updDev s fun d =>
    { d with fencedCores := union d.fencedCores cores, fencedQuads := union d.fencedQuads quads
             featGen := d.featGen + 1, replace := true }

/-- The teams that a fencing saves: those on its cores, with every other team of a cooperative launch among them (R358, R432). -/
def fencedTeams (s : State) (cores : List Nat) : List Team :=
  let here := s.teams.filter fun t => !t.retired && cores.contains t.core
  let coop := fun (id : Nat) => match findLaunch s id with | some l => l.coop | none => false
  s.teams.filter fun t => !t.retired && (cores.contains t.core || (coop t.launch && here.any fun h => h.launch = t.launch))

/-- A team whose save cannot complete: SRAM_UNCORR for its context, a context fault (R432). -/
def unsaved (s : State) (t : Team) : State :=
  match findLaunch s t.launch with
  | some l =>
    raiseCtx s l.ctx
      { cause := sramUncorrCause, launch := l.id, team := some t.ordinal
        trap := { cause := sramUncorrCause, info1 := BitVec.ofNat 32 t.core } }
  | none => s

/-- UNIT_FENCING (R432) of core arg.a, or with yes of quad arg.a, which Keeper is fencing or, with arg.c = 1, which has failed a
self-test: its teams are saved, and once they have left it leaves the dispatcher's set. With arg.b = 1 the saves cannot complete,
and each such team's context takes SRAM_UNCORR. -/
def execUnitFencing (s : State) : Host.Outcome State Fault Refusal :=
  .next <|
    let unit := (s.arg.a, s.arg.yes)
    let cores := if s.arg.yes then coresOf s.arg.a else (if s.arg.a < 192 then [s.arg.a] else [])
    let quads := if s.arg.yes && cores ≠ [] then [s.arg.a] else []
    let here := s.teams.filter fun t => !t.retired && cores.contains t.core
    if cores = [] || isFenced s.dev unit || !(s.dev.fencing.contains unit || s.arg.c = 1) then s
    else if here = [] then
      updDev (fence s cores quads) fun d => { d with fencing := d.fencing.filter fun u => u ≠ unit }
    else
      let s := beginFence s unit
      if s.arg.b = 1 then here.foldl unsaved s
      else
        (fencedTeams s cores).foldl (fun s t =>
          updTeam (stopTeam s t.tid) t.tid fun t => { t with deadline := some (min (t.deadline.getD (2 ^ 20)) (2 ^ 20)) }) s

/-! ## Florix ports (R286) and the health window (R461) -/

/-- FLORIX_PORT_FAILURE (R286): port arg.a goes down, or with yes retrains, with arg.b more link retries; the route table
loses it. Keeper rewrites FEATURES under a new GEN once it has been written (R450; DEDUCED, log entry 45). -/
def execFlorixPortFailure (s : State) : Host.Outcome State Fault Refusal :=
  .next <|
    let p := s.arg.a
    let out := fun (l : List Nat) => l.filter fun k => k ≠ p
    if 36 ≤ p then s
    else
      updDev s fun d =>
        { d with
          portsDown := if s.arg.yes then out d.portsDown else out d.portsDown ++ [p]
          retraining := if s.arg.yes then out d.retraining ++ [p] else out d.retraining
          retries := mapSet 0 d.retries p (min 255 (mapGet 0 d.retries p + s.arg.b))
          routes := (d.routes.map fun r => (r.1, out r.2)).filter fun r => r.2 ≠ []
          featGen := if d.ready && !d.portsDown.contains p && !d.retraining.contains p then d.featGen + 1 else d.featGen }

/-- FLORIX_PORT_UP (R286): port arg.a is up again and leads to the devices arg.nums. -/
def execFlorixPortUp (s : State) : Host.Outcome State Fault Refusal :=
  .next <|
    let p := s.arg.a
    let out := fun (l : List Nat) => l.filter fun k => k ≠ p
    if 36 ≤ p then s
    else
      updDev s fun d =>
        { d with
          portsDown := out d.portsDown, retraining := out d.retraining
          featGen := if d.ready && (d.portsDown.contains p || d.retraining.contains p) then d.featGen + 1 else d.featGen
          routes := s.arg.nums.foldl (fun (r : List (Nat × List Nat)) n =>
            if n < 1024 then mapSet [] r n (out (mapGet [] r n) ++ [p]) else r) d.routes }

/-- HEALTH_CORR_WINDOW (R432, R461): the errors corrected in Keeper's window, those that the machine has met, arg.a more in other
units and those in the stores of the cores of arg.entries (R419), are latched into CORR, saturating. A core with more than 1,024
of them is fenced. -/
def execHealthCorrWindow (s : State) : Host.Outcome State Fault Refusal :=
  .next <|
    let cores := s.arg.entries.filter fun e => e.1 < 192
    let more := cores.foldl (fun n e => n + e.2.toNat) s.arg.a
    let counts := cores.foldl (fun m e => mapSet 0 m e.1 (mapGet 0 m e.1 + e.2.toNat)) s.dev.sramCorr
    let s := updDev s fun d => { d with corr := min 0xFFFFFFFF (d.corrRun + more), corrRun := 0, sramCorr := [] }
    (counts.filter fun e => 1024 < e.2).foldl (fun s e => beginFence s (e.1, false)) s

end Sys2Proof.Machine
end

