-- ==== Sys2Proof/Machine/Boot.lean ====
section
/-! DEFINITION. Power-up (R446 to R450): SHA-256, the verification of firmware images against the fuses (R448), and the steps of
bring-up with memory initialisation (R449). -/

namespace Sys2Proof.Machine

/-! ## SHA-256 -/

/-- The round constants of SHA-256. -/
def shaK : List Word :=
  [0x428a2f98#32, 0x71374491#32, 0xb5c0fbcf#32, 0xe9b5dba5#32, 0x3956c25b#32, 0x59f111f1#32, 0x923f82a4#32, 0xab1c5ed5#32,
   0xd807aa98#32, 0x12835b01#32, 0x243185be#32, 0x550c7dc3#32, 0x72be5d74#32, 0x80deb1fe#32, 0x9bdc06a7#32, 0xc19bf174#32,
   0xe49b69c1#32, 0xefbe4786#32, 0x0fc19dc6#32, 0x240ca1cc#32, 0x2de92c6f#32, 0x4a7484aa#32, 0x5cb0a9dc#32, 0x76f988da#32] ++
  [0x983e5152#32, 0xa831c66d#32, 0xb00327c8#32, 0xbf597fc7#32, 0xc6e00bf3#32, 0xd5a79147#32, 0x06ca6351#32, 0x14292967#32,
   0x27b70a85#32, 0x2e1b2138#32, 0x4d2c6dfc#32, 0x53380d13#32, 0x650a7354#32, 0x766a0abb#32, 0x81c2c92e#32, 0x92722c85#32,
   0xa2bfe8a1#32, 0xa81a664b#32, 0xc24b8b70#32, 0xc76c51a3#32, 0xd192e819#32, 0xd6990624#32, 0xf40e3585#32, 0x106aa070#32] ++
  [0x19a4c116#32, 0x1e376c08#32, 0x2748774c#32, 0x34b0bcb5#32, 0x391c0cb3#32, 0x4ed8aa4a#32, 0x5b9cca4f#32, 0x682e6ff3#32,
   0x748f82ee#32, 0x78a5636f#32, 0x84c87814#32, 0x8cc70208#32, 0x90befffa#32, 0xa4506ceb#32, 0xbef9a3f7#32, 0xc67178f2#32]

/-- The initial digest. -/
def shaInit : List Word :=
  [0x6a09e667#32, 0xbb67ae85#32, 0x3c6ef372#32, 0xa54ff53a#32, 0x510e527f#32, 0x9b05688c#32, 0x1f83d9ab#32, 0x5be0cd19#32]

/-- The message schedule, newest word first, extended by n words. -/
def shaExtend : Nat → List Word → List Word
  | 0, w => w
  | n + 1, w =>
    let at_ := fun (k : Nat) => w.getD (k - 1) 0#32
    let a := at_ 15
    let b := at_ 2
    let s0 := a.rotateRight 7 ^^^ a.rotateRight 18 ^^^ (a >>> 3)
    let s1 := b.rotateRight 17 ^^^ b.rotateRight 19 ^^^ (b >>> 10)
    shaExtend n ((at_ 16 + s0 + at_ 7 + s1) :: w)

/-- One round on the working words a to h. -/
def shaRound (v : List Word) (x : Word × Word) : List Word :=
  match v with
  | [a, b, c, d, e, f, g, h] =>
    let s1 := e.rotateRight 6 ^^^ e.rotateRight 11 ^^^ e.rotateRight 25
    let t1 := h + s1 + ((e &&& f) ^^^ (~~~e &&& g)) + x.1 + x.2
    let s0 := a.rotateRight 2 ^^^ a.rotateRight 13 ^^^ a.rotateRight 22
    let t2 := s0 + ((a &&& b) ^^^ (a &&& c) ^^^ (b &&& c))
    [t1 + t2, a, b, c, d + t1, e, f, g]
  | _ => v

/-- One block of 64 bytes taken into a digest. -/
def shaBlock (d : List Word) (block : List Byte) : List Word :=
  let words := (chunksOf 4 16 block).map fun b => BitVec.ofNat 32 (numOf b.reverse)
  let sched := (shaExtend 48 words.reverse).reverse
  List.zipWith (· + ·) d ((shaK.zip sched).foldl shaRound d)

/-- The SHA-256 digest of bytes. -/
def sha256 (bs : List Byte) : BitVec 256 :=
  let n := bs.length
  let padded := bs ++ [0x80#8] ++ List.replicate ((119 - n % 64) % 64) 0#8 ++ (bytesOf 8 (8 * n)).reverse
  BitVec.ofNat 256
    (((chunksOf 64 (n / 64 + 2) padded).foldl shaBlock shaInit).foldl (fun m w => m * 2 ^ 32 + w.toNat) 0)

/-! ## Firmware (R448) -/

/-- Whether an image verifies: under its key, which is unrevoked and whose hash is in the fuses, its signature over its digest
holds. -/
def verifies (d : Dev) (f : Firmware) : Bool :=
  (upTo 4).any fun k =>
    !d.revoked.getLsbD k && d.keyHashes.getD k 0#256 = sha256 f.key && Config.rsaSigned f.key (sha256 f.body) f.sig

/-- The images that Keeper loads: those of the NVMe boot partition, or of the ROM's fallback slot where the partition fails. The
rules do not say when it fails: here when it cannot be read, and an image that does not verify stops bring-up (DESIGN CHOICE, log
entry 35). -/
def loadedImages (d : Dev) : List Firmware := d.bootPart.getD d.romSlot

/-! ## The steps of bring-up (R446) -/

/-- The step at which a failure code stops bring-up (R446). -/
def failStep (ecode : Nat) : Option Nat :=
  if ecode = 1 then some 2 else if ecode = 2 || ecode = 3 || ecode = 5 then some 3 else if ecode = 4 then some 4 else none

/-- Memory after its initialisation (R449): zero data with ZEROINIT tags, every vector free, the counters 0. -/
def initMem (m : Mem) : Mem := { hostMem := m.hostMem }

/-- The ports of a mask. -/
def portsOf (m : DWord) : List Nat := (upTo 36).filter fun p => m.getLsbD p

/-- Bring-up stopped at a step with a failure code. -/
def bootFails (s : State) (step code : Nat) : State := updDev s fun d => { d with err := true, ecode := code, step := step }

/-- Step 3 calibrates: the Florix ports of arg.nums stay down, and the others lead where arg.entries say (R286, R446). -/
def calibrate (s : State) : State :=
  updDev s fun d =>
    { d with
      portsDown := (s.arg.nums.filter fun p => p < 36).dedup, devNum := s.arg.b % 1024
      routes := s.arg.entries.foldl (fun (r : List (Nat × List Nat)) e =>
        if e.1 < 1024 then mapSet [] r e.1 (portsOf e.2) else r) []
      step := 4 }

/-- Step 4 initialises memory with a staging pool of arg.a MiB per stack, and fences the cores of arg.nums2 and the quads of
arg.nums3, which fail their self-tests (R120, R446, R449). -/
def selfTest (s : State) : State :=
  let quads := (s.arg.nums3.filter fun q => q < 48).dedup
  let cores := ((s.arg.nums2.filter fun c => c < 192) ++ quads.flatMap coresOf).dedup
  let stage := if s.arg.a ≤ 4096 && s.arg.a % 64 = 0 then s.arg.a else 1024
  updDev (updMem s initMem) fun d =>
    { d with stage := stage, fencedCores := cores, fencedQuads := quads, replace := cores ≠ [], step := 5 }

/-- POWER_GOOD (R446): the step in progress is carried out, and the next one begins. arg.v is the failure code that step 3 or 4
meets, 0 for none; step 2 verifies the images itself (R448). -/
def execPowerGood (s : State) : Host.Outcome State Fault Refusal :=
  .next <|
    let code := s.arg.v.toNat
    if s.dev.ready || s.dev.err then s
    else
      match s.dev.step with
      | 1 => updDev s fun d => { d with step := 2 }
      | 2 =>
        if (loadedImages s.dev).all (verifies s.dev) then
          updDev s fun d => { d with firmware := loadedImages s.dev, step := 3 }
        else bootFails s 2 1
      | 3 => if failStep code = some 3 then bootFails s 3 code else calibrate s
      | 4 => if failStep code = some 4 then bootFails s 4 code else selfTest s
      | 5 => updDev s fun d => { d with step := 6 }
      | _ => updDev s fun d => { d with ready := true, step := 6 }

/-- BRINGUP_RESTART (R447): 0xDEAD0001 restarts bring-up from step 1 and ends every context; another value is ignored. The
fuses, the firmware stores, the drives and host memory keep what they hold. -/
def execBringupRestart (s : State) : Host.Outcome State Fault Refusal :=
  .next <|
    if s.arg.v ≠ 0xDEAD0001#64 then s
    else
      let m : Mem :=
        { bytes := s.mem.bytes, tags := s.mem.tags, hostMem := s.mem.hostMem, uncorr := s.mem.uncorr, soft := s.mem.soft
          poolUsed := s.mem.poolUsed }
      let d : Dev :=
        { checkpoints := s.dev.checkpoints, outbox := s.dev.outbox, keyHashes := s.dev.keyHashes, revoked := s.dev.revoked
          bootPart := s.dev.bootPart, romSlot := s.dev.romSlot }
      { dev := d, mem := m, arg := s.arg, agenda := s.agenda, clock := s.clock, fresh := s.fresh, nextId := s.nextId }

end Sys2Proof.Machine
end

