-- ==== Sys2Proof/Machine/Host.lean ====
section
/-! DEFINITION. The host's side of the device: its registers (R447, R450, R451, R461), ring notify pages (R346),
the commands of the Keeper mailbox (R452 to R459), checkpoints (R430, R431) and SPDM (R460). -/

namespace Sys2Proof.Machine

/-! ## Registers the host reads (R346, R447, R450 to R452, R461) -/

/-- BOOT_STATUS (R447). -/
def bootStatus (d : Dev) : Nat :=
  d.step + d.ecode * 2 ^ 16 + (if d.err then 2 ^ 30 else 0) + (if d.ready then 2 ^ 31 else 0)

/-- The Florix ports that are up. -/
def portsUp (d : Dev) : Nat := ((upTo 36).filter fun p => !d.portsDown.contains p && !d.retraining.contains p).length

/-- FEATURES (R450). -/
def features (d : Dev) : Nat :=
  d.caps.toNat + 16 * 2 ^ 16 + (192 - d.fencedCores.length) * 2 ^ 24 + (48 - d.fencedQuads.length) * 2 ^ 32 +
  portsUp d * 2 ^ 40 + d.stage * 2 ^ 64 + d.featGen % 2 ^ 16 * 2 ^ 112

/-- HEALTH (R461). -/
def health (d : Dev) : Nat :=
  d.corr + d.fencedCores.length * 2 ^ 40 + d.fencedQuads.length * 2 ^ 48 + (if d.replace then 2 ^ 63 else 0)

/-- MSTATUS (R452). -/
def mstatus (d : Dev) : Nat := (if d.busy then 1 else 0) + (if d.done then 2 else 0) + d.result * 2 ^ 8

/-- A byte of BAR0. -/
def bar0Byte (d : Dev) (off : Nat) : Byte :=
  if off < 0x04 then byteAt (bootStatus d) off
  else if 0x10 ≤ off && off < 0x20 then byteAt (features d) (off - 0x10)
  else if 0x20 ≤ off && off < 0x24 then byteAt d.enable.toNat (off - 0x20)
  else if 0x40 ≤ off && off < 0x48 then byteAt (health d) (off - 0x40)
  else if 0x1000 ≤ off && off < 0x1100 then mapGet 0#8 d.request (off - 0x1000)
  else if 0x1100 ≤ off && off < 0x1200 then mapGet 0#8 d.response (off - 0x1100)
  else if 0x1204 ≤ off && off < 0x1208 then byteAt (mstatus d) (off - 0x1204)
  else 0#8

/-- A 32-bit register of a ring's notify page (R346). -/
def notifyRead (q : Ring) (off : Nat) : Nat :=
  let b := fun (p : Bool) (k : Nat) => if p then 2 ^ k else 0
  if off = 8 then q.head.toNat
  else if off = 0x10 then b q.slot.isSome 0 + b q.blocked 1 + b q.faulted 2 + b q.pinned 3
  else 0

/-! ## Register writes (R346, R446, R451, R452) -/

/-- ENABLE_WRITE (R446, R451): the capabilities that CAPS offers are accepted. -/
def execEnableWrite (s : State) : Host.Outcome State Fault Refusal :=
  .next <|
    if !s.dev.ready then s
    else updDev s fun d => { d with enable := BitVec.ofNat 5 s.arg.v.toNat &&& d.caps, enableWritten := true }

/-- Bytes written into the request area of the mailbox, by offset. While Keeper works on a command a byte that changes makes the
response undefined, and nothing else changes (R452). -/
def writeRequest (s : State) (bs : List (Nat × Byte)) : State :=
  if !s.dev.busy then updDev s fun d => { d with request := mapSetMany 0#8 d.request bs }
  else if bs.any fun b => mapGet 0#8 s.dev.request b.1 ≠ b.2 then updDev s fun d => { d with spoiled := true }
  else s

/-- A write to DOORBELL sets busy; while busy it is ignored (R452). done and result are those of the command at work from then on
(DESIGN CHOICE, log entry 47). -/
def doorbell (s : State) : State :=
  if s.dev.busy then s
  else updDev s fun d => { d with busy := true, done := false, result := 0, spoiled := false, going := false }

/-- REGISTER_WRITE (R346, R446, R452): arg.bytes written from offset arg.a of BAR0, those of the mailbox's request area first, then
DOORBELL. A write to any other register or offset without behaviour of its own is ignored. -/
def execRegisterWrite (s : State) : Host.Outcome State Fault Refusal :=
  .next <|
    let at_ := s.arg.bytes.zipIdx.map fun (b : Byte × Nat) => (s.arg.a + b.2, b.1)
    let req := (at_.filter fun b => 0x1000 ≤ b.1 && b.1 < 0x1100).map fun b => (b.1 - 0x1000, b.2)
    let rings := at_.any fun b => 0x1200 ≤ b.1 && b.1 < 0x1204
    if !s.dev.ready then s
    else
      let s := if req = [] then s else writeRequest s req
      if rings then doorbell s else s

/-- TAIL_WRITE (R346): TAIL of ring arg.a moves to arg.v, or the ring is faulted. -/
def execTailWrite (s : State) : Host.Outcome State Fault Refusal :=
  .next <|
    match findRing s s.arg.a with
    | none => s
    | some q =>
      let v : Word := BitVec.ofNat 32 s.arg.v.toNat
      if v = q.tail then s
      else if 2 ^ q.logn < (v - q.tail).toNat || 2 ^ q.logn < (v - q.head).toNat then faultRing s q.idx
      else updRing s q.idx fun q => { q with tail := v }

/-! ## What commands share -/

/-- A free number below n; which one the manual leaves open. -/
def pickFree (s : State) (n : Nat) (used : List Nat) : Option (Nat × State) :=
  let free := (upTo n).filter fun k => !used.contains k
  if free = [] then none
  else
    let (k, s) := freeChoice s free.length
    free[k]?.map fun v => (v, s)

/-- A 64-bit field of a request. -/
def req64 (r : List Byte) (lo : Nat) : DWord := BitVec.ofNat 64 (reqNum r lo 8)

/-- Whether a regulator word is admissible by itself (R123). -/
def regulatorOk (v : DWord) : Bool := rateOf v = 0 || (guarOf v ≤ rateOf v && burstOf v ≠ 0)

/-- Whether Keeper lets a context hold two regulator words beside the other contexts' (R123). -/
def sharesOk (s : State) (ctx : Option Nat) (l d : DWord) : Bool :=
  let others := s.ctxs.filter fun c => some c.num ≠ ctx
  let sum := fun (f : Ctx → DWord) => (others.map fun c => guarOf (f c)).foldl (· + ·) 0
  regulatorOk l && regulatorOk d && sum (fun c => c.regl) + guarOf l ≤ 6144 && sum (fun c => c.regd) + guarOf d ≤ 6144

/-- Whether a regulator word's reserved bits are 0. -/
def regulatorForm (v : DWord) : Bool := v.toNat / 2 ^ 48 = 0

/-- Whether the trace fields of a request are in range (R454). -/
def traceForm (r : List Byte) : Bool :=
  let size := reqNum r 88 1
  (req64 r 80).toNat % 64 = 0 && reqNum r 89 1 ≤ 1 &&
  (if req64 r 80 = 0#64 then size = 0 else 10 ≤ size && size ≤ 26)

/-- The words of a trace ring header (R434). -/
def traceHeader (r : List Byte) : List Word :=
  [BitVec.ofNat 32 (reqNum r 89 1), BitVec.ofNat 32 (reqNum r 88 1 + reqNum r 90 2 * 2 ^ 16)] ++ List.replicate 14 0#32

/-- A command that writes words for a context as t has it: it goes on, waits for Keeper with the contexts as s has them, or
cannot be carried out. -/
def afterWrite (s t : State) (n : Nat) (va : DWord) (ws : List Word) (k : State → Reply) : Reply :=
  match devWrite t n va ws with
  | .ok u => k u
  | .wait f => .wait { deviceWait t deviceCore f with ctxs := s.ctxs, fresh := s.fresh }
  | .dead _ => .done 2 [] s

/-! ## Contexts (R454) -/

/-- Whether the fields of CREATE_CONTEXT are in range (R108, R345, R454). -/
def createForm (s : State) (r : List Byte) : Bool :=
  let root := reqNum r 8 8
  let last := root + 2 ^ 21 - 1
  let al := fun (lo n : Nat) => reqNum r lo 8 % n = 0
  onlyNamed r [(8, 17), (32, 60)] && root % 2 ^ 21 = 0 &&
  ((inHbm s.dev.stage root && inHbm s.dev.stage last) || (inLpddr root && inLpddr last)) &&
  al 16 64 && reqNum r 24 1 ≤ 1 && al 32 4096 && al 40 4096 && al 48 64 && al 56 64 &&
  regulatorForm (req64 r 64) && regulatorForm (req64 r 72) && traceForm r

/-- The context that CREATE_CONTEXT writes (R345). -/
def newCtx (r : List Byte) (n : Nat) : Ctx :=
  { num := n, root := req64 r 8, wrap := reqNum r 24 1 = 1, capring := req64 r 16, regl := req64 r 64, regd := req64 r 72
    save := req64 r 32, saveLen := reqNum r 40 8, dump := req64 r 48, dumpLen := reqNum r 56 8, trace := req64 r 80 }

/-- CREATE_CONTEXT (R454, R451, R123). -/
def execCreateContext (s : State) : Host.Outcome State Fault Refusal :=
  .next <| command (isCmd 1) (fun r _ s =>
    if !createForm s r then .done 2 [] s
    else if !s.dev.enableWritten then .done 4 [] s
    else
      match pickFree s 64 (s.ctxs.map fun c => c.num) with
      | none => .done 3 [] s
      | some (n, s1) =>
        if !sharesOk s none (req64 r 64) (req64 r 72) then .done 5 [] s
        else
          let s2 := { s1 with ctxs := s1.ctxs ++ [newCtx r n] }
          let done := fun (t : State) => Reply.done 0 (bytesOf 1 n) t
          if req64 r 80 = 0#64 then done s2 else afterWrite s s2 n (req64 r 80) (traceHeader r) done) s

/-- Whether an access of a context is still on its way to its home, of a split or of an engine, a sequencer or the device itself: to
another device, or a store whose words are not registered yet (R113). -/
def ctxBusy (s : State) (n : Nat) : Bool :=
  (s.mem.posts.any fun p => p.ctx = n) ||
  (ctxTeams s n).any fun t => s.mem.flights.any fun f => f.tid = t.tid && (f.isRemote || f.unreg ≠ [])

/-- The translations of a context that a range covers, dropped (R113). -/
def dropTlb (s : State) (n base len : Nat) : State :=
  let inside := fun (p : Nat) => len = 0 || (base ≤ p * 65536 && p * 65536 < base + len)
  updMem s fun m => { m with tlb := m.tlb.filter fun t => !(t.ctx = n && inside t.page) }

/-- Everything of a context removed, without image or dump (R454). -/
def removeCtx (s : State) (n : Nat) : State :=
  let s := clearTeams (abortColls s n) n
  let rs := (s.rings.filter fun q => q.ctx = n).map fun q => q.idx
  let ringWaits := fun (w : Waiter) => match w with | .ring r => rs.contains r | .split .. => false
  let s := dropTlb s n 0 0
  let s := updMem s fun m =>
    { m with
      walks := m.walks.filter fun w => w.ctx ≠ n
      atsReqs := m.atsReqs.filter fun q => q.ctx ≠ n
      faults := m.faults.filter fun f => f.ctx ≠ n
      monitors := m.monitors.filter fun q => !ringWaits q.waiter
      rechecks := m.rechecks.filter fun q => !ringWaits q.waiter
      locks := m.locks.filter fun q => q.ctx ≠ n || q.waiters ≠ [] }
  let s := updDev s fun d => 
    { d with buckets := d.buckets.filter fun b => b.1 % 130 / 2 ≠ n, used := d.used.filter fun b => b.1 % 130 / 2 ≠ n }
  grantReleases 64 <| submitReady
    { s with
      ctxs := s.ctxs.filter fun c => c.num ≠ n
      rings := s.rings.filter fun q => q.ctx ≠ n
      launches := s.launches.filter fun l => l.ctx ≠ n
      contracts := s.contracts.filter fun c => !rs.contains c.ring
      comms := s.comms.filter fun c => c.ctx ≠ n
      colls := s.colls.filter fun c => c.ctx ≠ n }

/-- DESTROY_CONTEXT (R454): the context issues nothing more, and goes once no access of it is on its way (R113). -/
def execDestroyContext (s : State) : Host.Outcome State Fault Refusal :=
  .next <| command (isCmd 2) (fun r going s =>
    let n := reqNum r 8 1
    if !onlyNamed r [(8, 1)] then .done 2 [] s
    else
      match findCtx s n with
      | none => .done 4 [] s
      | some c =>
        if c.checkpointing && !going then .done 4 [] s
        else if ctxBusy s n then .wait (updCtx s n fun c => { c with checkpointing := true })
        else .done 0 [] (removeCtx s n)) s

/-- The regulator words that the 96 engines and 8 sequencers go on using for a context until their next windows (R454). -/
def heldRegs (c : Ctx) : List (Nat × DWord × DWord) := (upTo 104).map fun u => (u, regWord c u 0, regWord c u 1)

/-- UPDATE_CONTEXT (R454, R123). -/
def execUpdateContext (s : State) : Host.Outcome State Fault Refusal :=
  .next <| command (isCmd 0xB) (fun r _ s =>
    let n := reqNum r 8 1
    let sel := reqNum r 9 1
    let on := fun (k : Nat) => sel.testBit k
    let named := [(8, 2)] ++ (if on 0 then [(64, 8)] else []) ++ (if on 1 then [(72, 8)] else []) ++
      (if on 2 then [(80, 12)] else []) ++ if on 3 then [(24, 1)] else []
    if !onlyNamed r named || 16 ≤ sel || 1 < reqNum r 24 1 || !regulatorForm (req64 r 64) || !regulatorForm (req64 r 72) ||
        (on 2 && !traceForm r) then .done 2 [] s
    else
      match findCtx s n with
      | none => .done 4 [] s
      | some c =>
        let l := if on 0 then req64 r 64 else c.regl
        let d := if on 1 then req64 r 72 else c.regd
        if !sharesOk s (some n) l d then .done 5 [] s
        else
          let s1 := updCtx s n fun c =>
            { c with regl := l, regd := d, oldRegs := if on 0 || on 1 then heldRegs c else c.oldRegs, wrap := if on 3 then reqNum r 24 1 = 1 else c.wrap
                     trace := if on 2 then req64 r 80 else c.trace }
          if on 2 && req64 r 80 ≠ 0#64 then
            afterWrite s s1 n (req64 r 80) (traceHeader r) fun t => .done 0 [] t
          else .done 0 [] s1) s

/-! ## Rings and resets (R455) -/

/-- CREATE_RING (R346, R455). -/
def execCreateRing (s : State) : Host.Outcome State Fault Refusal :=
  .next <| command (isCmd 3) (fun r _ s =>
    let cls := reqNum r 9 1
    let logn := reqNum r 10 1
    if !onlyNamed r [(8, 3), (16, 8)] || reqNum r 16 8 % 64 ≠ 0 || logn < 4 || 16 < logn || 2 < cls then .done 2 [] s
    else if (findCtx s (reqNum r 8 1)).isNone then .done 4 [] s
    else
      match pickFree s 1024 (s.rings.map fun q => q.idx) with
      | none => .done 3 [] s
      | some (i, s) =>
        let q : Ring := { idx := i, ctx := reqNum r 8 1, base := req64 r 16, logn := logn, cls := cls }
        .done 0 (bytesOf 2 i) { s with rings := s.rings ++ [q] }) s

/-- A ring unfaulted with HEAD and TAIL at 0; it keeps a slot only while it is pinned (R349). -/
def clearRing (q : Ring) : Ring :=
  { q with faulted := false, blocked := false, slot := if q.pinned then q.slot else none, head := 0#32, tail := 0#32 }

/-- Whether a request is RESET of a kind. -/
def isReset (p : Nat → Bool) (r : List Byte) : Bool := isCmd 7 r && p (reqNum r 8 1)

/-- RESET_CONTEXT (R455): KIND 0, after the context's dump; another KIND that RESET lacks is malformed. -/
def execResetContext (s : State) : Host.Outcome State Fault Refusal :=
  .next <| command (isReset fun k => k = 0 || 4 ≤ k) (fun r _ s =>
    let n := reqNum r 9 1
    if !onlyNamed r [(8, 2)] || reqNum r 8 1 ≠ 0 then .done 2 [] s
    else
      match findCtx s n with
      | none => .done 4 [] s
      | some c =>
        if !(match c.fault with | some f => f.served | none => false) then .done 4 [] s
        else
          let s := updCtx s n fun c => { c with fault := none, secondary := [], dumped := false, dumpStop := false }
          .done 0 [] { s with
            rings := s.rings.map fun q => if q.ctx = n then { clearRing q with begun := [], last := none } else q }) s

/-- RESET_RING (R455): KIND 1; commands that had begun stay. -/
def execResetRing (s : State) : Host.Outcome State Fault Refusal :=
  .next <| command (isReset fun k => k = 1) (fun r _ s =>
    if !onlyNamed r [(8, 4)] then .done 2 [] s
    else
      match findRing s (reqNum r 10 2) with
      | none => .done 4 [] s
      | some q => if q.ctx ≠ reqNum r 9 1 then .done 4 [] s else .done 0 [] (updRing s q.idx clearRing)) s

/-- RESET_DUMP_AREA (R412, R455): KIND 2; the next dump starts at the area's base with SEQ 0. -/
def execResetDumpArea (s : State) : Host.Outcome State Fault Refusal :=
  .next <| command (isReset fun k => k = 2) (fun r _ s =>
    if !onlyNamed r [(8, 2)] then .done 2 [] s
    else if (findCtx s (reqNum r 9 1)).isNone then .done 4 [] s
    else
      .done 0 [] (updCtx s (reqNum r 9 1) fun c => { c with dumpPos := 0, dumpSeq := 0, dumpFull := false, dumpStop := false }))
    s

/-- RESET_TRACE_RING (R455): KIND 3; WCOUNT and DROPPED become 0. -/
def execResetTraceRing (s : State) : Host.Outcome State Fault Refusal :=
  .next <| command (isReset fun k => k = 3) (fun r _ s =>
    if !onlyNamed r [(8, 2)] then .done 2 [] s
    else
      match findCtx s (reqNum r 9 1) with
      | none => .done 4 [] s
      | some c =>
        if c.trace = 0#64 then .done 0 [] s
        else afterWrite s s c.num (c.trace + 8#64) (List.replicate 4 0#32) fun t => .done 0 [] t) s

/-- Whether a request is RELEASE of a kind. -/
def isRelease (p : Nat → Bool) (r : List Byte) : Bool := isCmd 0xD r && p (reqNum r 8 1)

/-- RELEASE_RING (R455): KIND 0, of a ring that is empty and idle and holds no contract; a KIND that RELEASE lacks is
malformed. -/
def execReleaseRing (s : State) : Host.Outcome State Fault Refusal :=
  .next <| command (isRelease fun k => k = 0 || 3 ≤ k) (fun r _ s =>
    if !onlyNamed r [(8, 4)] || reqNum r 8 1 ≠ 0 then .done 2 [] s
    else
      match findRing s (reqNum r 10 2) with
      | none => .done 4 [] s
      | some q =>
        if q.ctx ≠ reqNum r 9 1 || q.tail ≠ q.head || q.begun ≠ [] || (s.contracts.any fun c => c.ring = q.idx) then
          .done 4 [] s
        else .done 0 [] { s with rings := s.rings.filter fun k => k.idx ≠ q.idx }) s

/-- RELEASE_COMM (R292, R455): KIND 1, of a handle without a collective in flight. -/
def execReleaseComm (s : State) : Host.Outcome State Fault Refusal :=
  .next <| command (isRelease fun k => k = 1) (fun r _ s =>
    let h := reqNum r 10 2
    if !onlyNamed r [(8, 4)] then .done 2 [] s
    else if (commIn s (reqNum r 9 1) h).isNone || collsOf s h ≠ [] then .done 4 [] s
    else .done 0 [] (submitReady { s with comms := s.comms.filter fun c => c.handle ≠ h })) s

/-- RELEASE_CONTRACT (R455): KIND 2; a contract whose launch runs ends with it. -/
def execReleaseContract (s : State) : Host.Outcome State Fault Refusal :=
  .next <| command (isRelease fun k => k = 2) (fun r _ s =>
    if !onlyNamed r [(8, 4)] then .done 2 [] s
    else
      match findContract s (reqNum r 10 2) with
      | none => .done 4 [] s
      | some c =>
        if (findRing s c.ring).map (fun q => q.ctx) ≠ some (reqNum r 9 1) then .done 4 [] s
        else if c.running.isSome then
          .done 0 [] (updContract s c.num fun c => { c with gone := true, pending := false })
        else
          let s := unpinRing s c.ring
          .done 0 [] (grantReleases 64 { s with contracts := s.contracts.filter fun k => k.num ≠ c.num })) s

/-! ## Communicators (R456) -/

/-- Bytes of host memory. -/
def hostNum (s : State) (a n : Nat) : Nat := readNum s.mem.hostMem a n

/-- CREATE_COMM (R290, R451, R456). -/
def execCreateComm (s : State) : Host.Outcome State Fault Refusal :=
  .next <| command (isCmd 4) (fun r _ s =>
    let ctx := reqNum r 8 1
    let cls := reqNum r 9 1
    let logc := reqNum r 10 1
    let sq := reqNum r 11 1
    let n := reqNum r 12 2
    let rank := reqNum r 14 2
    let members := (upTo n).map fun k => hostNum s (reqNum r 24 8 + 2 * k) 2
    if !onlyNamed r [(8, 24)] || 3 < cls || logc < 12 || 16 < logc || (8 ≤ sq && sq ≠ 0xFF) || n = 0 || 1024 < n ||
        n ≤ rank || members.getD rank 1024 ≠ s.dev.devNum || members.dedup.length ≠ n || members.any (fun d => 1024 ≤ d) then
      .done 2 [] s
    else if (findCtx s ctx).isNone || (1 < n && !s.dev.enable.getLsbD 4) ||
        members.any (fun d => d ≠ s.dev.devNum && mapGet [] s.dev.routes d = []) then .done 4 [] s
    else
      match pickFree s 4096 (s.comms.map fun c => c.handle) with
      | none => .done 3 [] s
      | some (h, s) =>
        let (k, s) := if sq = 0xFF then freeChoice s 8 else (sq, s)
        let c : Comm :=
          { handle := h, ctx := ctx, nmem := n, rank := rank, cls := cls, logc := logc, seqr := k, key := req64 r 16
            members := members }
        .done 0 (bytesOf 2 h ++ bytesOf 1 k) { s with comms := s.comms ++ [c] }) s

/-! ## Translations (R113, R457) -/

/-- INVALIDATE (R113, R457): the cached translations go, and the command ends once no access that may have used them is on its
way. -/
def execInvalidate (s : State) : Host.Outcome State Fault Refusal :=
  .next <| command (isCmd 5) (fun r _ s =>
    let n := reqNum r 8 1
    if !onlyNamed r [(8, 1), (16, 16)] || reqNum r 16 8 % 65536 ≠ 0 || reqNum r 24 8 % 65536 ≠ 0 then .done 2 [] s
    else if (findCtx s n).isNone then .done 4 [] s
    else
      let s1 := dropTlb s n (reqNum r 16 8) (reqNum r 24 8)
      if ctxBusy s1 n then .wait s1 else .done 0 [] s1) s

/-! ## Checkpoints (R430, R431, R457) -/

/-- The bytes of the manifest before its CRC (R431). -/
def manifestHead (ctx gen : Nat) (blobs : List (List Byte)) (ranges : List (Nat × Nat)) : List Byte :=
  let entries := ranges.flatMap fun r => bytesOf 8 r.1 ++ bytesOf 8 r.2
  (bytesOf 4 0x4B435043 ++ bytesOf 2 1 ++ bytesOf 1 ctx ++ bytesOf 1 0 ++ bytesOf 4 gen ++ bytesOf 4 blobs.length ++
    bytesOf 8 ((blobs.map List.length).foldl (· + ·) 0) ++ entries ++ List.replicate 4092 0#8).take 4092

/-- The manifest of a checkpoint: one block of 4 KiB (R431). -/
def manifestBytes (ctx gen : Nat) (blobs : List (List Byte)) (ranges : List (Nat × Nat)) : List Byte :=
  let h := manifestHead ctx gen blobs ranges
  h ++ bytesOf 4 (crc32c h)

/-- Whether a manifest has its MAGIC, VERSION and CRC (R431). -/
def manifestOk (m : List Byte) : Bool :=
  recNum m 0 4 = 0x4B435043 && recNum m 4 2 = 1 && recNum m 4092 4 = crc32c (m.take 4092)

/-- Whether a checkpoint as it is read passes its checks: its manifest, and every image, under the manifest's GEN (R366, R431). -/
def checkpointOk (manifest : List Byte) (blobs : List (List Byte)) : Bool :=
  manifestOk manifest && recNum manifest 12 4 = blobs.length &&
  blobs.all fun b => imageOk b && recNum b 8 8 = recNum manifest 8 4

/-- Whether a node of a context still has to commit (R430). -/
def commitDue (s : State) (n : Nat) : Bool :=
  (ctxLaunches s n).any fun l => l.node && l.replayable && l.status = 0 && l.rollback.isNone && teamsOver s l

/-- The words of a range with their tags. -/
def rangeCells (s : State) (ctx base len : Nat) : List (Nat × DevRes Cell) :=
  let first := base / 4 * 4
  (upTo ((base + len + 3) / 4 - base / 4)).map fun k => (first + 4 * k, devReadCell s ctx (BitVec.ofNat 64 (first + 4 * k)))

/-- The first access of a list that waits. -/
def firstWait (rs : List (Nat × DevRes Cell)) : Option DevFail :=
  rs.findSome? fun r => match r.2 with | .wait f => some f | _ => none

/-- The cells of a list that were read. -/
def readCells (rs : List (Nat × DevRes Cell)) : List (Nat × Cell) :=
  rs.filterMap fun r => match r.2 with | .ok c => some (r.1, c) | _ => none

/-- The checkpoint of a context, once its teams are saved (R430, R431). -/
def makeCheckpoint (s : State) (c : Ctx) (r : List Byte) (ranges : List (Nat × Nat)) (data : List (Nat × Cell)) : Checkpoint :=
  let ls := ctxLaunches s c.num
  let ms := (s.images.filter fun m => m.ctx = c.num).map fun m => { m with gen := c.gen, flags := m.flags ||| 1, base := none }
  let blobs := ms.map fun m => imageData m (imageHdr s m) m.flags
  { drive := reqNum r 9 1, nsid := reqNum r 12 4, lba := reqNum r 16 8, ctx := c.num, gen := c.gen
    manifest := manifestBytes c.num c.gen blobs ranges, blobs := blobs, images := ms
    ranges := ranges, data := data, undisp := ls.map fun l => (l.id, l.undisp), launches := ls }

/-- CHECKPOINT (R430, R457): dispatch stops, GEN rises, every resident team is saved, and once collectives and commits are
over the drive is given the images, the ranges and the manifest. -/
def execCheckpoint (s : State) : Host.Outcome State Fault Refusal :=
  .next <| command (isCmd 6) (fun r going s =>
    let n := reqNum r 8 1
    let ranges := (upTo (reqNum r 24 1)).map fun k =>
      (hostNum s (reqNum r 32 8 + 16 * k) 8, hostNum s (reqNum r 32 8 + 16 * k + 8) 8)
    if !onlyNamed r [(8, 2), (12, 13), (32, 8)] || 1 < reqNum r 9 1 || 64 < reqNum r 24 1 then .done 2 [] s
    else
      match findCtx s n with
      | none => .done 4 [] s
      | some c =>
        if c.fault.isSome || going ≠ c.checkpointing then .done 4 [] s
        else if !going then
          .wait ((ctxTeams s n).foldl (fun s t => stopTeam s t.tid)
            (updCtx s n fun c => { c with gen := (c.gen + 1) % 2 ^ 32, checkpointing := true }))
        else if s.dev.nvme.isSome || ctxTeams s n ≠ [] || (s.colls.any fun q => q.ctx = n && q.live) || commitDue s n then .wait s
        else
          let cells := ranges.flatMap fun p => rangeCells s n p.1 p.2
          match firstWait cells with
          | some f => .wait (deviceWait s deviceCore f)
          | none => .wait (updDev s fun d => { d with nvme := some ⟨false, makeCheckpoint s c r ranges (readCells cells), none⟩ })) s

/-- A location on a drive. -/
def sameSpot (a b : Checkpoint) : Bool := a.drive = b.drive && a.nsid = b.nsid && a.lba = b.lba

/-- The launch table of a RESTORE (R457): identifier, CVAL, LDESC, CREC and CWORD. -/
def launchTable (s : State) (r : List Byte) : List (Nat × Nat × DWord × DWord × DWord) :=
  (upTo (reqNum r 25 1)).map fun k =>
    let a := reqNum r 40 8 + 32 * k
    let v := fun (o : Nat) => BitVec.ofNat 64 (hostNum s (a + o) 8)
    (hostNum s a 4, hostNum s (a + 4) 4, v 8, v 16, v 24)

/-- The words of the ranges with what lies at their addresses: cells to be written at homes of this device, a request for each line,
and words for elsewhere, whose tags do not go with them. A word on no region is passed over; a store that Keeper has to
service first waits (R457). -/
def rangeTargets (s : State) (ctx : Nat) : List (Nat × Cell) → DevRes (List (Nat × Cell) × List (DWord × Word))
  | [] => .ok ([], [])
  | c :: cs =>
    let va := BitVec.ofNat 64 c.1
    match rangeTargets s ctx cs with
    | .ok r =>
      (match translateNow s (dieOf deviceCore) ctx va 2 with
       | .ok t => .ok (if t.tier < 2 then ((t.pa, c.2) :: r.1, r.2) else (r.1, (va, c.2.1) :: r.2))
       | _ => .ok (r.1, (va, c.2.1) :: r.2))
    | r => r

/-- Words written one by one as the device's own. -/
def putRest (ctx : Nat) : List (DWord × Word) → State → DevRes State
  | [], s => .ok s
  | w :: ws, s =>
    match devWrite s ctx w.1 [w.2] with
    | .ok t => putRest ctx ws t
    | .wait f => .wait f
    | .dead _ => putRest ctx ws s

/-- The words of the ranges written back, with their line tags a line at a time where their homes are here (R42, R457). -/
def putCells (ctx : Nat) (cs : List (Nat × Cell)) (s : State) : DevRes State :=
  match rangeTargets s ctx cs with
  | .ok r => putRest ctx r.2 (homeWriteMany s r.1)
  | .wait f => .wait f
  | .dead c => .dead c

/-- An image of a checkpoint as an image of the context, with identifiers of its own; names gives the launches' identifiers. -/
def adoptImage (ctx : Nat) (names : List (Nat × Nat)) (s : State) (m : Image) : State :=
  let (id, s) := takeId s
  let (tid, s) := takeId s
  let lid := mapGet m.team.launch names m.team.launch
  let m : Image :=
    { m with
      id := id, ctx := ctx, base := none, team := { m.team with tid := tid, launch := lid }
      groups := m.groups.map fun g => { g with tid := tid }
      splits := m.splits.map fun x => { x with tid := tid }
      flights := m.flights.map fun f => { f with tid := tid } }
  updLaunch { s with images := s.images ++ [m] } lid fun l => { l with savedTeams := l.savedTeams ++ [id] }

/-- A launch of the table, run outside any ring (R457): its descriptor, and what the checkpoint recorded of it. Without a
well-formed descriptor, or where it may not run here, it ends with the status of R350 and R451 and none of its teams is placed. A
launch that is over gives up its identifier; where another one still has it, the new one takes a fresh identifier (DESIGN CHOICE,
log entry 34). -/
def adoptLaunch (ctx : Nat) (k : Checkpoint) (acc : List (Nat × Nat) × State)
    (x : (Nat × Nat × DWord × DWord × DWord) × Option Launch) : List (Nat × Nat) × State :=
  let (id, cval, _, crec, cword) := x.1
  let old := (k.launches.find? fun l => l.id = id).getD {}
  let done := fun (q : Launch) => q.id = id && q.ctx = ctx && q.complete
  let s := { acc.2 with launches := acc.2.launches.filter fun q => !done q, nextId := max acc.2.nextId (id + 1) }
  let r := if (findLaunch s id).isSome then takeId s else (id, s)
  let l : Launch :=
    { x.2.getD {} with
      id := r.1, ctx := ctx, ring := none, cls := old.cls, crec := crec, cword := cword
      cval := BitVec.ofNat 32 cval, saves := old.saves, teamsDone := old.teamsDone
      gridGen := old.gridGen, age := s.clock, begun := true }
  let st := if x.2.isNone then 2 else earlyStatus r.2 { l with undisp := upTo l.size }
  let l := { l with status := st, undisp := if st = 0 then mapGet [] k.undisp id else [] }
  (mapPut acc.1 id r.1, { r.2 with launches := r.2.launches ++ [l] })

/-- The launches of a table with their descriptors read; none for one that is malformed or cannot be read, which ends with STATUS 2
(R457; DESIGN CHOICE, log entry 34). -/
def tableLaunches (s : State) (ctx : Nat) :
    List (Nat × Nat × DWord × DWord × DWord) → DevRes (List ((Nat × Nat × DWord × DWord × DWord) × Option Launch))
  | [] => .ok []
  | e :: es =>
    match readLaunch s ctx e.2.2.1, tableLaunches s ctx es with
    | .wait f, _ => .wait f
    | _, .wait f => .wait f
    | .ok l, .ok ls => .ok ((e, l) :: ls)
    | .dead _, .ok ls => .ok ((e, none) :: ls)
    | _, .dead c => .dead c

/-- Whether a launch table names each launch of a checkpoint's images exactly once, and no launch twice or in vain. -/
def tableOk (k : Checkpoint) (ids : List Nat) : Bool :=
  ids.dedup.length = ids.length && (k.images.all fun m => ids.contains m.team.launch) &&
  ids.all fun i => k.launches.any fun l => l.id = i

/-- The manifest and the images of a checkpoint in the order in which they lie on the drive (R431). -/
def checkpointBytes (k : Checkpoint) : List Byte := k.manifest ++ k.blobs.flatten

/-- Bytes of which some have changed: positions with their new values. -/
def patched (es : List (Nat × DWord)) (bs : List Byte) : List Byte :=
  bs.zipIdx.map fun b => match es.find? fun e => e.1 = b.2 with
    | some e => byteAt e.2.toNat 0
    | none => b.1

/-- Bytes cut into pieces as long as those of a list. -/
def cutLike : List (List Byte) → List Byte → List (List Byte)
  | [], _ => []
  | p :: ps, bs => bs.take p.length :: cutLike ps (bs.drop p.length)

/-- The words of the ranges of a manifest, with the cells that the checkpoint holds for them in order (R431). -/
def manifestCells (manifest : List Byte) (data : List (Nat × Cell)) : List (Nat × Cell) :=
  let addrs := (upTo 64).flatMap fun k =>
    let base := recNum manifest (24 + 16 * k) 8
    let len := recNum manifest (32 + 16 * k) 8
    if len = 0 then [] else (upTo ((base + len + 3) / 4 - base / 4)).map fun j => base / 4 * 4 + 4 * j
  addrs.zip (data.map fun d => d.2)

/-- A restore whose checkpoint the drive has returned as bytes (R431, R457): the checks, before which nothing is written; then the
ranges and GEN, then the launches of the table with the images as their bytes give them. -/
def finishRestore (s : State) (k : Checkpoint) (bs : List Byte) : Reply :=
  let r := areaBytes s.dev.request
  let n := reqNum r 8 1
  let table := launchTable s r
  let manifest := bs.take 4096
  let blobs := cutLike k.blobs (bs.drop 4096)
  let fin := fun (s : State) (code : Nat) => Reply.done code [] (updDev s fun d => { d with nvme := none })
  let hdr := fun (m : Image) => ((k.launches.find? fun l => l.id = m.team.launch).getD {}).hdr
  if !checkpointOk manifest blobs then fin s 7
  else if !tableOk k (table.map fun e => e.1) then fin s 2
  else
    match putCells n (manifestCells manifest k.data) s with
    | .wait f => .wait (deviceWait s deviceCore f)
    | .dead _ => fin s 2
    | .ok t =>
      let t := updCtx t n fun c => { c with gen := recNum manifest 8 4 }
      match tableLaunches t n table with
      | .wait f => .wait (deviceWait t deviceCore f)
      | .dead _ => fin t 2
      | .ok ls =>
        let r := ls.foldl (adoptLaunch n k) ([], t)
        let runs := fun (m : Image) => match findLaunch r.2 (mapGet 0 r.1 m.team.launch) with
          | some l => l.status = 0
          | none => false
        let ms := ((k.images.zip blobs).map fun m => readBack (hdr m.1) m.2 m.1).filter runs
        fin (ms.foldl (adoptImage n r.1) r.2) 0

/-- A restore at work goes on once the drive has returned the checkpoint. -/
def restoreOn (s : State) : Reply :=
  match s.dev.nvme.bind fun op => op.came.map fun bs => (op.ckpt, bs) with
  | some (k, bs) => finishRestore s k bs
  | none => .wait s

/-- RESTORE (R457): the context holds no team; the drive is asked for the checkpoint. -/
def execRestore (s : State) : Host.Outcome State Fault Refusal :=
  .next <| command (isCmd 0xE) (fun r going s =>
    let n := reqNum r 8 1
    if !onlyNamed r [(8, 2), (12, 12), (25, 1), (40, 8)] || 1 < reqNum r 9 1 then .done 2 [] s
    else
      match findCtx s n with
      | none => .done 4 [] s
      | some _ =>
        if going then restoreOn s
        else if ctxTeams s n ≠ [] || (s.images.any fun m => m.ctx = n) ||
            (ctxLaunches s n).any (fun l => l.undisp ≠ []) then .done 4 [] s
        else
          let at_ : Checkpoint :=
            { drive := reqNum r 9 1, nsid := reqNum r 12 4, lba := reqNum r 16 8, ctx := n, gen := 0, manifest := [], blobs := []
              images := [], ranges := [], data := [], undisp := [], launches := [] }
          let k := (s.dev.checkpoints.find? (sameSpot at_)).getD at_
          .wait (updDev s fun d => { d with nvme := some ⟨true, k, none⟩ })) s

/-- NVME_COMPLETION (R430, R457): the drive has done what Keeper asked, or with yes unset has failed. Bytes of a checkpoint's manifest
and images that have changed on the drive come back as arg.entries has them, by their position. -/
def execNvmeCompletion (s : State) : Host.Outcome State Fault Refusal :=
  .next <|
    match s.dev.nvme with
    | none => s
    | some op =>
      if op.restore then
        if !s.arg.yes then answer (updDev s fun d => { d with nvme := none }) 6 []
        else
          let came := op.came.getD (patched s.arg.entries (checkpointBytes op.ckpt))
          command (isCmd 0xE) (fun _ _ s => restoreOn s) (updDev s fun d => { d with nvme := some { op with came := some came } })
      else
        let k := op.ckpt
        let kept := s.dev.checkpoints.filter fun q => !sameSpot q k
        let s := updDev s fun d => { d with nvme := none, checkpoints := if s.arg.yes then kept ++ [k] else kept }
        let s := updCtx s k.ctx fun c => { c with checkpointing := false }
        if s.arg.yes then
          let imgs := (k.images.map fun m => m.len).foldl (· + ·) 0
          let rest := (Config.freeValue s.fresh).toNat
          answer { s with fresh := s.fresh + 1 } 0 (bytesOf 4 k.gen ++ bytesOf 4 0 ++ bytesOf 8 (4096 + imgs + rest))
        else answer s 6 []

/-! ## Contracts and partitions (R355, R458) -/

/-- The core mask of a partition. -/
def partMask (s : State) (p : Nat) : BitVec 192 := mapGet 0#192 s.dev.partitions p

/-- The cores of a partition. -/
def partCores (s : State) (p : Nat) : Nat := ((upTo 192).filter fun c => (partMask s p).getLsbD c).length

/-- Whether the sum of C ÷ P over contracts is at most 0.9 n (R355). -/
def loadOk (n : Nat) (cs : List (Nat × Nat)) : Bool :=
  let q := cs.foldl (fun (a : Nat × Nat) c => (a.1 * c.2 + c.1 * a.2, a.2 * c.2)) (0, 1)
  q.2 ≠ 0 && 10 * q.1 ≤ 9 * n * q.2

/-- Whether D is at least C ÷ n + 3,200 + Smax ÷ 256 (R355). -/
def deadlineOk (n c d part : Nat) : Bool :=
  c * 256 + n * (3200 * 256 + (Config.smax part).toNat) ≤ d * 256 * n && n ≠ 0

/-- ADMIT_CONTRACT (R354, R355, R451, R458): its first period starts with the response. -/
def execAdmitContract (s : State) : Host.Outcome State Fault Refusal :=
  .next <| command (isCmd 8) (fun r _ s =>
    let ring := reqNum r 8 2
    let part := reqNum r 10 1
    let p := reqNum r 16 8
    let c := reqNum r 24 8
    let d := reqNum r 32 8
    let n := partCores s part
    if !onlyNamed r [(8, 3), (16, 24)] || 16 ≤ part || p < d || c = 0 then .done 2 [] s
    else if (findRing s ring).isNone || (s.contracts.any fun k => k.ring = ring) || !s.dev.enable.getLsbD 1 then .done 4 [] s
    else if !loadOk n ((c, p) :: (s.contracts.filter fun k => k.part = part).map fun k => (k.c, k.p)) ||
        !deadlineOk n c d part then .done 5 [] s
    else
      match pickFree s 64 (s.contracts.map fun k => k.num) with
      | none => .done 3 [] s
      | some (i, s) =>
        let k : Contract :=
          { num := i, ring := ring, p := p, c := c, d := d, part := part, releaseAt := s.clock, pending := true }
        .done 0 (bytesOf 1 i) (grantReleases 64 { s with contracts := s.contracts ++ [k] })) s

/-- DEFINE_PARTITION (R458). -/
def execDefinePartition (s : State) : Host.Outcome State Fault Refusal :=
  .next <| command (isCmd 0xA) (fun r _ s =>
    let p := reqNum r 8 1
    let mask : BitVec 192 := BitVec.ofNat 192 (reqNum r 16 24)
    if !onlyNamed r [(8, 1), (16, 24)] || 16 ≤ p then .done 2 [] s
    else if s.contracts.any (fun k => k.part = p || partMask s k.part &&& mask ≠ 0#192) then .done 4 [] s
    else .done 0 [] (updDev s fun d => { d with partitions := mapSet 0#192 d.partitions p mask })) s

/-! ## Counters and watchpoints (R459) -/

/-- The counters of a stack, or of the LPDDR-6 controllers, which count as 16 (R92). -/
def stackWords (m : Mem) (k : Nat) : List Nat :=
  [mapGet 0 m.mixedCnt k, mapGet 0 m.poolUsed k, mapGet 0 m.eccCorr k, mapGet 0 m.eccUncorr k]

/-- The status word of a Florix port (R461). -/
def portStatus (d : Dev) (p : Nat) : Nat :=
  (if d.portsDown.contains p || d.retraining.contains p then 0 else 1) + (if d.retraining.contains p then 2 else 0) +
  mapGet 0 d.retries p * 2 ^ 8

/-- The words that READ_COUNTERS returns for a context (R459). -/
def ctxWords (s : State) (c : Ctx) : List Nat :=
  let mine := s.teams.filter fun t => match findLaunch s t.launch with | some l => l.ctx = c.num | none => false
  let saved := (s.images.filter fun m => m.ctx = c.num).map fun m => m.team
  let un := ((mine ++ saved).map fun t => t.unchecked).foldl (· + ·) c.unchecked
  [c.lostcap, c.misses, c.nonReplay, un, (ctxTeams s c.num).length]

/-- READ_COUNTERS (R459). -/
def execReadCounters (s : State) : Host.Outcome State Fault Refusal :=
  .next <| command (isCmd 9) (fun r _ s =>
    let sel := reqNum r 8 1
    let i := reqNum r 9 1
    let words := fun (ws : List Nat) => Reply.done 0 (ws.flatMap (bytesOf 4)) s
    let bad := Reply.done 2 [] s
    if !onlyNamed r (if sel = 4 then [(8, 1), (10, 3)] else [(8, 2)]) then bad
    else
      match sel with
      | 0 => if 16 ≤ i then bad else words (stackWords s.mem i ++ [mapGet 0 s.mem.stageExhaust i])
      | 1 => if 36 ≤ i then bad else words [portStatus s.dev i]
      | 2 =>
        if 64 ≤ i then bad
        else (match findContract s i with | some c => words [c.overrun, c.miss, c.overlap] | none => .done 4 [] s)
      | 3 => if 64 ≤ i then bad else (match findCtx s i with | some c => words (ctxWords s c) | none => .done 4 [] s)
      | 4 =>
        let core := reqNum r 10 2
        let w := reqNum r 12 1
        if 192 ≤ core || 8 ≤ w then bad
        else words [bits (mapGet ({} : Watch) s.dev.watches (core * 8 + w)).ctl.toNat 31 0]
      | 5 => words (stackWords s.mem 16)
      | _ => bad) s

/-- WRITE_WATCHPOINT (R439, R459). -/
def execWriteWatchpoint (s : State) : Host.Outcome State Fault Refusal :=
  .next <| command (isCmd 0xC) (fun r _ s =>
    let core := reqNum r 8 2
    let w := reqNum r 10 1
    let q : Watch := { ctl := req64 r 16, lo := req64 r 24, hi := req64 r 32 }
    if !onlyNamed r [(8, 3), (16, 24)] || 192 ≤ core || 8 ≤ w || bits q.ctl.toNat 49 32 ≠ 0 then .done 2 [] s
    else if (findCtx s (bits q.ctl.toNat 63 58)).isNone || s.dev.fencedCores.contains core then .done 4 [] s
    else .done 0 [] (updDev s fun d => { d with watches := mapSet {} d.watches (core * 8 + w) q })) s

/-- MAILBOX_UNKNOWN_COMMAND (R452): a command outside 0x01 to 0x0E. -/
def execMailboxUnknownCommand (s : State) : Host.Outcome State Fault Refusal :=
  .next <| command (fun r => reqNum r 0 1 = 0 || 14 < reqNum r 0 1) (fun _ _ s => .done 1 [] s) s

/-! ## SPDM (R460) -/

/-- An SPDM request, answered from step 2 on: the version is 1.3 and the algorithms are SHA-256 and RSASSA-3072; the rest of the
answer is the standard's. Measurements come with one block per firmware image, its SHA-256 digest. -/
def spdm (k : Nat) (s : State) : State :=
  let blocks := if k = 5 then (loadedImages s.dev).map fun f => sha256 f.body else []
  let given : List SpdmField := if k = 0 then [.version 1 3] else if k = 2 then [.hashSha256, .signRsassa3072] else []
  if s.dev.step < 2 then s
  else sendMsg { s with fresh := s.fresh + 1 } (.spdm k given (Config.spdmAnswer s.fresh) blocks)

/-- GET_VERSION (R460). -/
def execGetVersion (s : State) : Host.Outcome State Fault Refusal := .next (spdm 0 s)
/-- GET_CAPABILITIES (R460). -/
def execGetCapabilities (s : State) : Host.Outcome State Fault Refusal := .next (spdm 1 s)
/-- NEGOTIATE_ALGORITHMS (R460). -/
def execNegotiateAlgorithms (s : State) : Host.Outcome State Fault Refusal := .next (spdm 2 s)
/-- GET_CERTIFICATE (R460). -/
def execGetCertificate (s : State) : Host.Outcome State Fault Refusal := .next (spdm 3 s)
/-- CHALLENGE (R460). -/
def execChallenge (s : State) : Host.Outcome State Fault Refusal := .next (spdm 4 s)
/-- GET_MEASUREMENTS (R460). -/
def execGetMeasurements (s : State) : Host.Outcome State Fault Refusal := .next (spdm 5 s)

end Sys2Proof.Machine
end

