-- ==== Sys2Proof/Machine/System.lean ====
section
/-! DEFINITION. The prefix words (R60 to R67), NOP (R73), the special registers (R74 to R76), TRAP, BKPT, RFE
(R403, R404), LSTAT (R397), and a word whose opcode is reserved (R72). -/

namespace Sys2Proof.Machine

/-- IMM fills its slot of the latch (R60, R66). -/
def execImm (i : BitVec 24) (s : State) : Host.Outcome State Fault Refusal :=
  let w := wordOf (.imm i)
  runWord (.imm i) w false (fun e s => latched s e fun x => { x with imm := w })
    (fun x s => .moved (updTeam s x.tm.tid fun t =>
      { t with seqImm := w, seqPc := x.tm.seqPc + 4#64, retWords := t.retWords + 1 })) s

/-- MOD fills its slot of the latch (R62, R66); a matrix stream has no MOD (R71). -/
def execMod (sa c n m a b : BitVec 1) (k : BitVec 5) (r t : BitVec 3) (g : BitVec 4) (o : BitVec 3) (s : State) :
    Host.Outcome State Fault Refusal :=
  let w := wordOf (.mod sa c n m a b k r t g o)
  groupWord (.mod sa c n m a b k r t g o) (fun e s => latched s e fun x => { x with mod := w }) s

/-- HINT fills its slot of the latch (R65, R66). It changes no result; what it asks of the scheduler is timing. -/
def execHint (st : BitVec 5) (y a b c : BitVec 1) (s : State) : Host.Outcome State Fault Refusal :=
  let w := wordOf (.hint st y a b c)
  runWord (.hint st y a b c) w false (fun e s => latched s e fun x => { x with hint := w })
    (fun x s => .moved (updTeam s x.tm.tid fun t =>
      { t with seqHint := w, seqPc := x.tm.seqPc + 4#64, retWords := t.retWords + 1 })) s

/-- NOP changes nothing but the latch and the PC (R73). -/
def execNop (s : State) : Host.Outcome State Fault Refusal :=
  runWord .nop (wordOf .nop) false (fun _ s => .done s) (fun _ s => .done s) s

/-- A word whose opcode is 0x00 or reserved (R72): ILL_OPCODE, precisely. -/
def execReservedOpcode (w : BitVec 32) (s : State) : Host.Outcome State Fault Refusal :=
  runWord (.reservedOpcode w) w false (fun e s => .trap (beforeTrap e w illOpcode e.x.amask w 0#32 0#32) s)
    (fun _ s => .fault illOpcode s) s

/-! ## Special registers -/

/-- The value of a special register that is not per lane (R74). -/
def specialReg (s : State) (e : Ex) (n : Nat) : DWord :=
  let w := fun (k : Nat) => BitVec.ofNat 64 k
  match n with
  | 0x02 => w e.g.gi
  | 0x03 => w (e.tm.ordinal % 2 ^ 32)
  | 0x04 => w (e.tm.cluster % 2 ^ 32)
  | 0x05 => w (e.lch.id % 2 ^ 32)
  | 0x06 => w e.width
  | 0x07 => w e.ngroups
  | 0x08 => w (e.lch.gx * e.lch.gy * e.lch.gz % 2 ^ 32)
  | 0x09 => w e.x.id.toNat
  | 0x0A => w e.tm.core
  | 0x0B => w (quadOf e.tm.core)
  | 0x0C => w (dieOf e.tm.core)
  | 0x0E => Config.cycle e.tm.core s.clock
  | 0x0F => e.lch.args
  | 0x10 => w e.g.tcause.toNat
  | 0x11 => e.g.tpc
  | 0x12 => e.g.tmask
  | 0x13 => w e.g.tinfo0.toNat
  | 0x14 => w e.g.tinfo1.toNat
  | 0x15 => w e.g.tinfo2.toNat
  | 0x16 => w e.g.tinfo3.toNat
  | _ => 0#64

/-- The value of a per-lane special register (R74). -/
def laneReg (e : Ex) (n i : Nat) : Word :=
  match n with
  | 0x00 => BitVec.ofNat 32 i
  | 0x01 => mapGet 0#32 e.g.orig i
  | 0x0D => diceOf e.g i
  | 0x17 => lstatOf e.g i
  | _ => 0#32

/-- MFSR (R75): every result takes the own site tag. -/
def execMfsr (d sr : BitVec 8) (s : State) : Host.Outcome State Fault Refusal :=
  plainWord (.mfsr d sr) (fun e s =>
    let n := sr.toNat
    let v := specialReg s e n
    if srPerLane n then putV s e (e.lanes.map fun i => (d.toNat * 64 + i, (laneReg e n i, own e)))
    else if sr64 n then putPair s e d.toNat v (own e)
    else putReg s e d.toNat (loWord v, own e)) s

/-- MTSR (R76): %dice per lane, %tpc and %tmask from the lowest active lane of a vector pair (log entry 7). A
POISON operand escapes (R45). -/
def execMtsr (sr a : BitVec 8) (s : State) : Host.Outcome State Fault Refusal :=
  let w := wordOf (.mtsr sr a)
  groupWord (.mtsr sr a) (fun e s =>
    let c := a.toNat
    let bad := e.lanes.filter fun i => anyPoison e c i
    if bad ≠ [] || (isS c && anyPoison e c 0) then
      .trap (escapeTrap e w (if isS c then e.lanes else bad) 4 c) s
    else if sr = 0x0D#8 then
      let ws := e.lanes.map fun i =>
        let (v, _) := laneOne e .int c i
        (i, if v.1 = 0#32 then 1#32 else v.1)
      .done (setGroup s e fun g => writeDice g ws)
    else
      match e.low, isV c with
      | none, true => .done s
      | l, _ =>
        let v := (operand64 e false c (l.getD 0)).1
        .done (setGroup s e fun g => if sr = 0x11#8 then { g with tpc := v } else { g with tmask := v })) s

/-! ## TRAP, BKPT, RFE -/

def trapSw : Cause := 0x08#8
def breakpoint : Cause := 0x09#8
def rfeState : Cause := 0x0A#8

/-- TRAP (R404): TRAP_SW after the word, in the active lanes whose predicate holds; none, no trap. -/
def execTrap (n : BitVec 1) (p : BitVec 3) (c : BitVec 16) (s : State) : Host.Outcome State Fault Refusal :=
  let w := wordOf (.trap n p c)
  groupWord (.trap n p c) (fun e s =>
    match predLanes e (flag n) p.toNat with
    | [] => .done s
    | ls =>
      .after (e.x.pc + 4#64)
        { cause := trapSw, pc := e.x.pc + 4#64, mask := maskOf ls, info0 := BitVec.ofNat 32 c.toNat, info2 := w } s) s

/-- BKPT (R404): BREAKPOINT before the word, in every active lane, also when none is. -/
def execBkpt (c : BitVec 16) (s : State) : Host.Outcome State Fault Refusal :=
  let w := wordOf (.bkpt c)
  groupWord (.bkpt c) (fun e s =>
    .trap (beforeTrap e w breakpoint e.x.amask (BitVec.ofNat 32 c.toNat) 0#32 0#32) s) s

/-- RFE (R403). -/
def execRfe (s : State) : Host.Outcome State Fault Refusal :=
  let w := wordOf .rfe
  groupWord .rfe (fun e s =>
    match e.g.hs with
    | none => .trap (ctlTrap e w rfeState 0) s
    | some h =>
      if h.rank ≠ e.x.rank then .trap (ctlTrap e w rfeState 0) s
      else if e.g.tpc.toNat % 4 ≠ 0 then
        let r := addrTrapAt s e w addrMisalign e.x.amask (laneCount e.x.amask) (e.low.getD 0xFF) e.g.tpc
        .trap r.1 r.2
      else
        .moved (updTeam (returnTrap s e h) e.x.tid fun t => { t with retWords := t.retWords + 1 })) s

/-! ## LSTAT -/

/-- LSTAT kind 00 (R397): each active lane's status is read into d and the selected bits, with their UNREP bits,
are cleared, in one step. -/
def execLstat (d m : BitVec 8) (s : State) : Host.Outcome State Fault Refusal :=
  plainWord (.lstat d m) (fun e s =>
    let s := putV s e (e.lanes.map fun i => (d.toNat * 64 + i, (lstatOf e.g i, own e)))
    let keep := ~~~(BitVec.ofNat 32 (m.toNat + m.toNat * 256))
    setGroup s e fun g =>
      { g with lstat := mapSetMany 0#32 g.lstat (e.lanes.map fun i => (i, lstatOf e.g i &&& keep)) }) s

/-- LSTAT kind 01 (R397): RMASK is set. -/
def execLstatMask (m : BitVec 8) (s : State) : Host.Outcome State Fault Refusal :=
  plainWord (.lstatMask m) (fun e s => setGroup s e fun g => { g with rmask := m }) s

end Sys2Proof.Machine
end

