-- ==== Sys2Proof/Machine/Tags.lean ====
section
/-! DEFINITION. The tag instructions (R46 to R49): TGET, TSET, TSTAMP, TCHK, TCAP and TRULE. -/

namespace Sys2Proof.Machine

def tagCheck : Cause := 0xB0#8

/-- The keys a destination code names for a split: every active lane of a vector, a scalar once (R58). -/
def destLanes (e : Ex) (d : Nat) : List Nat := if isV d then e.lanes else [0]

/-- Cells written to a register code, one for each lane of destLanes. -/
def putLanes (s : State) (e : Ex) (d : Nat) (f : Nat → Cell) : State :=
  if isV d then putV s e (e.lanes.map fun i => (d * 64 + i, f i)) else putS s e [(d - 0xC0, f 0)]

/-- The lane of a source that feeds lane i of d: a scalar d takes the lowest active lane of a vector (R463). -/
def fromLane (e : Ex) (d a i : Nat) : Nat := if isV d || !isV a then i else e.low.getD 0

/-- Whether a scalar d is left alone because its vector source has no active lane (R463). -/
def noSource (e : Ex) (d a : Nat) : Bool := !isV d && isV a && e.lanes = []

/-- TGET (R46). -/
def execTget (d a : BitVec 8) (s : State) : Host.Outcome State Fault Refusal :=
  plainWord (.tget d a) (fun e s =>
    putLanes s e d.toNat fun i => ((regCell e.g a.toNat i).2.setWidth 32, own e)) s

/-- The tag TSET takes from its source for a lane (R46). -/
def tsetTag (e : Ex) (a i : Nat) : Tag :=
  if a = 0xF0 then unmarked
  else if a = 0xF8 then e.x.imm.setWidth 16
  else (regCell e.g a i).1.setWidth 16

/-- TSET (R46): the value of d stays. -/
def execTset (d a : BitVec 8) (s : State) : Host.Outcome State Fault Refusal :=
  plainWord (.tset d a) (fun e s =>
    if noSource e d.toNat a.toNat then s
    else
      putLanes s e d.toNat fun i =>
        ((regCell e.g d.toNat i).1, tsetTag e a.toNat (fromLane e d.toNat a.toNat i))) s

/-- TSTAMP (R46). -/
def execTstamp (d : BitVec 8) (s : State) : Host.Outcome State Fault Refusal :=
  plainWord (.tstamp d) (fun e s =>
    putLanes s e d.toNat fun i => ((regCell e.g d.toNat i).1, own e)) s

/-- Whether a tag falls in a class that a TCHK mask selects (R47). -/
def tagInMask (m : Nat) (t : Tag) : Bool :=
  let n := t.toNat
  (m.testBit 0 && 0x8000 ≤ n && n ≤ 0xFEFF) || (m.testBit 1 && t = poison) || (m.testBit 2 && t = mixed) ||
  (m.testBit 3 && t = lostTag) || (m.testBit 4 && 0xFF02 ≤ n && t ≠ lostTag) || (m.testBit 5 && t = unmarked)

/-- TCHK (R47): TAG_CHECK in the lanes that match, after the word. -/
def execTchk (a : BitVec 8) (m : BitVec 6) (s : State) : Host.Outcome State Fault Refusal :=
  let w := wordOf (.tchk a m)
  groupWord (.tchk a m) (fun e s =>
    match (destLanes e a.toNat).filter fun i => tagInMask m.toNat (regCell e.g a.toNat i).2 with
    | [] => .done s
    | i :: ls =>
      .after (e.x.pc + 4#64)
        { cause := tagCheck, pc := e.x.pc + 4#64
          mask := if isV a.toNat then maskOf (i :: ls) else e.x.amask
          info0 := BitVec.ofNat 32 a.toNat
          info1 := (regCell e.g a.toNat i).2.setWidth 32
          info2 := w } s) s

/-- The address of word w of the capture record that a tag names, where it names one that is written (R33, R48). -/
def recordAt (s : State) (ctx : Nat) (t : Nat) (w : Nat) : Option DWord :=
  match findCtx s ctx with
  | none => none
  | some c =>
    let idx := t - 0x8000
    if 0x8000 ≤ t && t ≤ 0xFEFF && c.capring ≠ 0#64 && idx < c.capseq then
      some (c.capring + BitVec.ofNat 64 (64 * idx + 4 * w))
    else none

/-- What a lane of a TCAP takes of its record's word: the value, with the own tag (R48). -/
def capFill (e : Ex) (d i : Nat) (host : Bool) : Fill :=
  { lane := if isV d then i else 64, reg := d, words := 1, w := 4, off := 0, rule := 5, site := own e, olds := [], host := host
    owned := true }

/-- The word a TCAP reads at a planned target of a lane: at the record's home, or asked of another device. -/
def capRead (e : Ex) (d : Nat) (acc : List (Nat × Word) × List Fill × State) (x : Nat × DWord × Target) :
    List (Nat × Word) × List Fill × State :=
  if isRemote acc.2.2 x.2.2 then
    (acc.1, acc.2.1 ++ [capFill e d x.1 x.2.2.hostShared], sendAccess acc.2.2 x.2.2.dev 0 x.2.2.pa [(0#32, 0#16)])
  else
    let r := readGlobal acc.2.2 e.lch.id e.tm.core false x.2.1.toNat x.2.2
    (acc.1 ++ [(x.1, r.1.1)], acc.2.1, r.2)

/-- A TCAP performed (R48): its words in flight; a lane that names no written record takes 0. -/
def capLoad (s : State) (e : Ex) (word : Word) (dn : Nat) (vas : List (Nat × DWord)) (ts : List (Nat × Target)) (need : List (Nat × Nat)) :
    State :=
  let r := ts.foldl (fun acc t => capRead e dn acc (t.1, laneVa vas t.1, t.2)) ([], [], s)
  let val := fun (i : Nat) => ((r.1.find? fun v => v.1 = i).map fun v => v.2).getD 0#32
  let far := fun (i : Nat) => ts.any fun t => t.1 = i && isRemote s t.2
  let cells := ((destLanes e dn).filter fun i => !far i).flatMap fun i => destKeys dn i [(val i, own e)]
  let s1 := countUp r.2.2 e.x.tid e.x.gi 0 1
  let s1 := addFlight s1 fun id =>
    { flightOf e word 0 id .load with
      cells := if isV dn then cells else [], scalars := if isV dn then [] else cells, regs := [dn]
      isRemote := r.2.1 ≠ [], fills := r.2.1, again := ts.map fun t => (capFill e dn t.1 t.2.hostShared, laneVa vas t.1)
      blocks := (ts.map fun t => homeKey s t.2 / 16).dedup, core := e.tm.core, chans := need }
  { s1 with
    fx := s1.fx ++ (vas.map fun v => .glob (if isV dn then v.1 else 64) v.2 4 false) ++
      (destLanes e dn).map fun i => .reg dn (if isV dn then i else 64) (own e) }

/-- TCAP (R48): a load of the loads counter. -/
def execTcap (d a : BitVec 8) (w : BitVec 4) (s : State) : Host.Outcome State Fault Refusal :=
  let word := wordOf (.tcap d a w)
  groupWord (.tcap d a w) (fun e s =>
    let dn := d.toNat
    if noSource e dn a.toNat || destLanes e dn = [] then .done s
    else
      let tagOf := fun (i : Nat) => (regCell e.g a.toNat (fromLane e dn a.toNat i)).1.toNat % 65536
      let vas := (destLanes e dn).filterMap fun i =>
        (recordAt s e.lch.ctx (tagOf i) w.toNat).map fun va => (i, va)
      match planAccess s e 1 4 (if isV dn then none else some e.x.amask) vas with
      | .wait t => .moved t
      | .stall => .stall
      | .trap c ls => globFault s e word (isS dn) c ls
      | .go ts =>
        if overtakes s e ts then .stall
        else if countFull e 0 then fullStop s e
        else
          let need := chansOf (linesOf s ts)
          takePort s e need fun s => .done (capLoad s e word dn vas ts need)) s

/-- TRULE (R49). -/
def execTrule (c : BitVec 3) (s : State) : Host.Outcome State Fault Refusal :=
  plainWord (.trule c) (fun e s => setGroup s e fun g => { g with rule := c }) s

end Sys2Proof.Machine
end

