-- ==== Sys2Proof/Machine/Transform.lean ====
section
/-! DEFINITION. The transform pipe (R209 to R219) and the operations across lanes (R220 to R225). A transform
instruction computes its results, draws and captures when it issues; its registers and its sticky events are
written when the pipe replies. -/

namespace Sys2Proof.Machine

/-! ## Fixed-point evaluation: integers in units of 2^−240 -/

/-- 2π and ln 2 in units of 2^−240. -/
def twoPi240 : Int := 11101427517448923470466154259574275593670452188976819761925419650816006300
def ln2240 : Int := 1224685061431752149387114016819916847747660333428801675508466606222838698

/-- The unit. -/
def one240 : Int := 2 ^ 240

/-- A finite value in units of 2^−240. -/
def fix240 (v : FVal) : Int :=
  match v with
  | .fin s m e _ =>
    let n : Int := if 0 ≤ e + 240 then ((m * 2 ^ (e + 240).toNat : Nat) : Int) else ((m >>> (-(e + 240)).toNat : Nat) : Int)
    if s then -n else n
  | _ => 0

/-- A fixed-point number as a value, inexact below. -/
def unfix240 (z : Int) : FVal := .fin (z < 0) z.natAbs (-240) true

def mul240 (a b : Int) : Int := a * b / one240

/-- The sum of a series whose next term is got from the last and its number. -/
def series (next : Int → Nat → Int) : Nat → Nat → Int → Int → Int
  | 0, _, _, acc => acc
  | n + 1, k, t, acc => let t := next t k; series next n (k + 1) t (acc + t)

/-- e^t − 1 for |t| at most 45. -/
def expm1 (t : Int) : Int := series (fun u k => mul240 u t / ((k : Int) + 1)) 280 0 one240 0
/-- sin t for |t| at most π. -/
def sin240 (t : Int) : Int :=
  let q := mul240 t t
  series (fun u k => -(mul240 u q) / ((2 * (k : Int) + 2) * (2 * k + 3))) 60 0 t t
/-- cos t for |t| at most π. -/
def cos240 (t : Int) : Int :=
  let q := mul240 t t
  series (fun u k => -(mul240 u q) / ((2 * (k : Int) + 1) * (2 * k + 2))) 60 0 one240 one240
/-- ln x for x from 1 to 2. -/
def ln240 (x : Int) : Int :=
  let z := (x - one240) * one240 / (x + one240)
  let q := mul240 z z
  let rec go : Nat → Int → Int → Int → Int
    | 0, _, _, acc => acc
    | n + 1, k, p, acc => go n (k + 2) (mul240 p q) (acc + p / k)
  2 * go 90 1 z 0

/-! ## Approximate functions (R212) -/

/-- The distance of an FP32 code from a value in units of 2^−240. -/
def dist240 (code : Nat) (y : FVal) : Nat := (fix240 (decodeFp .fp32 code) - fix240 y).natAbs

/-- A result within a bound of the exact value: the nearest FP32 code moved by the implementation's error (log entry
2), where that stays within bound ulp and among the normal numbers; else the exact value, rounded once. -/
def approx (fn bound opd : Nat) (y : FVal) : FVal :=
  let c0 : Nat := (roundTo .fp32 .rne false y 0).code
  let mag : Nat := c0 % 2 ^ 31
  let k := max (-(bound : Int)) (min (bound : Int) (Config.ulpError fn opd))
  let c1 : Nat := ((mag : Int) + k).toNat
  let ulp : Nat := match y with
    | .fin _ m e _ => 2 ^ (leadExp m e - 23 + 240).toNat
    | _ => 0
  if 0x00800000 ≤ mag && mag < 0x7F800000 && 0x00800000 ≤ c1 && c1 < 0x7F800000 &&
      dist240 (c1 + (c0 - mag)) y ≤ bound * ulp then decodeFp .fp32 (c1 + (c0 - mag))
  else y

/-- Whether a finite value is a power of two. -/
def isPow2 (v : FVal) : Bool :=
  match v with
  | .fin _ m _ _ => m ≠ 0 && m = 2 ^ Nat.log2 m
  | _ => false

/-- √2 ÷ 2 correctly rounded (R213). -/
def halfRoot2 : FVal := decodeFp .fp32 0x3F3504F3

/-- a − RoundToIntegral(a), ties away from zero, in eighths of a turn times 2^−237 (R213): the reduced angle in
units of 2^−240 turns. -/
def reduceTurn (x : FVal) : Int := fix240 x - toIntegral .rna x 0 * one240

/-- SINT (R212, R213). -/
def sintV (opd : Nat) (x : FVal) : FVal :=
  match x with
  | .nan .. => x.quiet
  | .inf _ => defaultNaN
  | .fin s .. =>
    let r := reduceTurn x
    let eighth := one240 / 8
    if r % eighth = 0 then
      let j := r / eighth % 8
      if j = 0 || j = 4 then .fin s 0 0 false
      else if j = 2 then ofInt 1
      else if j = 6 then ofInt (-1)
      else if j = 1 || j = 3 then halfRoot2 else halfRoot2.neg
    else approx 0 2 opd (unfix240 (sin240 (mul240 r twoPi240)))

/-- COST (R212, R213). -/
def costV (opd : Nat) (x : FVal) : FVal :=
  match x with
  | .nan .. => x.quiet
  | .inf _ => defaultNaN
  | .fin .. =>
    let r := reduceTurn x
    let eighth := one240 / 8
    if r % eighth = 0 then
      let j := r / eighth % 8
      if j = 2 || j = 6 then fzero
      else if j = 0 then ofInt 1
      else if j = 4 then ofInt (-1)
      else if j = 1 || j = 7 then halfRoot2 else halfRoot2.neg
    else approx 1 2 opd (unfix240 (cos240 (mul240 r twoPi240)))

/-- EXP2 (R212): exact for an integral operand. Beyond ±4,000 the result overflows or underflows alike. -/
def exp2V (opd : Nat) (x : FVal) : FVal :=
  match x with
  | .nan .. => x.quiet
  | .inf s => if s then fzero else x
  | .fin .. =>
    let n := ffloor x
    let f := fix240 x - n * one240
    let k := max (-4000) (min 4000 n)
    if f = 0 then .fin false 1 k false
    else approx 2 2 opd ((unfix240 (one240 + expm1 (mul240 f ln2240))).scale k)

/-- LOG2 (R212): exact for powers of two; for an operand from 0.5 to 2 the bound is absolute, 2^−22. -/
def log2V (opd : Nat) (x : FVal) : FVal :=
  match x with
  | .nan .. => x.quiet
  | .inf s => if s then defaultNaN else x
  | .fin s m e _ =>
    if m = 0 then .inf true
    else if s then defaultNaN
    else
      let k := leadExp m e
      if isPow2 x then ofInt k
      else
        let z := k * one240 + ln240 (fix240 (x.scale (-k))) * one240 / ln2240
        if k = -1 || k = 0 then
          let err := max (-(2 ^ 20)) (min (2 ^ 20 : Int) (Config.ulpError 3 opd))
          unfix240 (z + err * 2 ^ 197)
        else approx 3 2 opd (unfix240 z)

/-- RCP (R212): exact for powers of two. -/
def rcpV (opd : Nat) (x : FVal) : FVal :=
  let y := fdiv (ofInt 1) x
  match x with
  | .fin _ m _ _ => if m = 0 || isPow2 x then y else approx 4 1 opd y
  | _ => if x.isNaN then x.quiet else y

/-- RSQ (R212). -/
def rsqV (opd : Nat) (x : FVal) : FVal :=
  match x with
  | .nan .. => x.quiet
  | .inf s => if s then defaultNaN else fzero
  | .fin s m _ _ =>
    if m = 0 then .inf s
    else if s then defaultNaN
    else approx 5 1 opd (fdiv (ofInt 1) (fsqrt x))

/-- TANH (R212): odd, the magnitude at most 1. -/
def tanhV (opd : Nat) (x : FVal) : FVal :=
  match x with
  | .nan .. => x.quiet
  | .inf s => ofInt (if s then -1 else 1)
  | .fin s m _ _ =>
    if m = 0 then x
    else
      let y := x.setSign false
      let v := if fcmp y (ofInt 20) = .gt then unfix240 (one240 - 2 ^ 180)
        else
          let q := expm1 (2 * fix240 y)
          unfix240 (q * one240 / (q + 2 * one240))
      let r := approx 7 3 (opd % 2 ^ 31) v
      (if fcmp r (ofInt 1) = .gt then ofInt 1 else r).setSign s

/-- One lane of an element-wise FP32 function: the operation reads the modified operands and the raw code of the
first; an infinity from a zero input records divide by zero (R211). -/
def xfLane (d a b : BitVec 8) (n : Nat) (op : Nat → FVal → FVal → FVal) (e : Ex) (i : Nat) : LaneOut :=
  let md := fpMod e .rne
  let p := lanePair e .fp32 .fp32 a.toNat (if n = 2 then b.toNat else 0xF0) i
  let x := modA md (readFp .fp32 md.ftz p.1.1.toNat)
  let y := readFp .fp32 md.ftz p.2.1.1.toNat
  let dr := srDraw md.rnd p.2.2
  let v := op (roundTo .fp32 .rne false x 0).code x y
  let ins := if n = 2 then [x, y] else [x]
  let r := finishFp .fp32 md false md.ftz ins v dr.1
  let dz := v.isInf && (if n = 2 then x.isFin && !x.isZero && y.isZero else x.isZero)
  { lane := i, lo := BitVec.ofNat 32 r.code, result := BitVec.ofNat 32 r.code, a := some p.1
    b := if n = 2 then some p.2.1 else none, old := (vreg e.g d.toNat i).2, ev := { r.ev with dz := dz }
    born := r.born, dice := drawn e i dr.2 }

/-- An element-wise FP32 function over the active lanes. -/
def xfBody (d a b : BitVec 8) (n : Nat) (op : Nat → FVal → FVal → FVal) (e : Ex) (s : State) : State :=
  pipeLanes s e d.toNat 1 .produce false (e.lanes.map (xfLane d a b n op e))

/-- SINT: sin(2π·a) (R212). -/
def execSint (d a : BitVec 8) (s : State) : Host.Outcome State Fault Refusal :=
  plainWord (.sint d a) (xfBody d a 0#8 1 fun o x _ => sintV o x) s

/-- COST: cos(2π·a) (R212). -/
def execCost (d a : BitVec 8) (s : State) : Host.Outcome State Fault Refusal :=
  plainWord (.cost d a) (xfBody d a 0#8 1 fun o x _ => costV o x) s

/-- EXP2 (R212). -/
def execExp2 (d a : BitVec 8) (s : State) : Host.Outcome State Fault Refusal :=
  plainWord (.exp2 d a) (xfBody d a 0#8 1 fun o x _ => exp2V o x) s

/-- LOG2 (R212). -/
def execLog2 (d a : BitVec 8) (s : State) : Host.Outcome State Fault Refusal :=
  plainWord (.log2 d a) (xfBody d a 0#8 1 fun o x _ => log2V o x) s

/-- RCP (R212). -/
def execRcp (d a : BitVec 8) (s : State) : Host.Outcome State Fault Refusal :=
  plainWord (.rcp d a) (xfBody d a 0#8 1 fun o x _ => rcpV o x) s

/-- RSQ (R212). -/
def execRsq (d a : BitVec 8) (s : State) : Host.Outcome State Fault Refusal :=
  plainWord (.rsq d a) (xfBody d a 0#8 1 fun o x _ => rsqV o x) s

/-- SQRT, correctly rounded in the mode (R212). -/
def execSqrt (d a : BitVec 8) (s : State) : Host.Outcome State Fault Refusal :=
  plainWord (.sqrt d a) (xfBody d a 0#8 1 fun _ x _ => fsqrt x) s

/-- TANH (R212). -/
def execTanh (d a : BitVec 8) (s : State) : Host.Outcome State Fault Refusal :=
  plainWord (.tanh d a) (xfBody d a 0#8 1 fun o x _ => tanhV o x) s

/-- DIVF: correctly rounded in the mode (R212, R214). -/
def execDivf (d a b : BitVec 8) (s : State) : Host.Outcome State Fault Refusal :=
  plainWord (.divf d a b) (xfBody d a b 2 fun _ x y => fdiv x y) s

/-- One lane of DDIV and DSQRT: FP64, no FTZ (R211). -/
def xfLane64 (d a b : BitVec 8) (n : Nat) (op : FVal → FVal → FVal) (e : Ex) (i : Nat) : LaneOut :=
  let md := fpMod e .rne
  let p := operand64 e true a.toNat i
  let q := operand64 e true (if n = 2 then b.toNat else 0xF0) i
  let x := modA md (decodeFp .fp64 p.1.toNat)
  let y := decodeFp .fp64 q.1.toNat
  let dr := srDraw md.rnd (diceOf e.g i)
  let v := op x y
  let r := finishFp .fp64 md false false (if n = 2 then [x, y] else [x]) v dr.1
  let w := BitVec.ofNat 64 r.code
  let dz := v.isInf && n = 2 && x.isFin && !x.isZero && y.isZero
  { lane := i, lo := loWord w, hi := some (hiWord w), result := hiWord w, a := some (hiWord p.1, p.2)
    b := if n = 2 then some (hiWord q.1, q.2) else none, old := (vreg e.g d.toNat i).2
    ev := { r.ev with dz := dz }, born := r.born, dice := drawn e i dr.2 }

/-- DDIV (R212, R214). -/
def execDdiv (d a b : BitVec 8) (s : State) : Host.Outcome State Fault Refusal :=
  plainWord (.ddiv d a b) (fun e s =>
    pipeLanes s e d.toNat 2 .produce true (e.lanes.map (xfLane64 d a b 2 fdiv e))) s

/-- DSQRT (R212). -/
def execDsqrt (d a : BitVec 8) (s : State) : Host.Outcome State Fault Refusal :=
  plainWord (.dsqrt d a) (fun e s =>
    pipeLanes s e d.toNat 2 .produce true (e.lanes.map (xfLane64 d a 0#8 1 (fun x _ => fsqrt x) e))) s

/-- The CRC of a state after the first n bytes of a word (R215). -/
def crcWord (c a : Word) (n : Nat) : Word := BitVec.ofNat 32 (((bytesOf 4 a.toNat).take n).foldl crcByte c.toNat)

/-- One lane of CRC32C (R215). -/
def crcLane (d a b : BitVec 8) (e : Ex) (i : Nat) : LaneOut :=
  let p := lanePair e .int .int a.toNat b.toNat i
  let c := vreg e.g d.toNat i
  let v := crcWord c.1 p.1.1 (4 - p.2.1.1.toNat % 4)
  { lane := i, lo := v, result := v, a := some p.1, b := some p.2.1, c := some c, old := c.2, dice := drawn e i p.2.2 }

/-- CRC32C (R215). -/
def execCrc32c (d a b : BitVec 8) (s : State) : Host.Outcome State Fault Refusal :=
  plainWord (.crc32c d a b) (fun e s => pipeLanes s e d.toNat 1 .produce false (e.lanes.map (crcLane d a b e))) s

/-! ## Block operations (R216 to R219) -/

/-- The block format of a fmt field (R216). -/
def blockFmt (f : BitVec 2) : BFmt :=
  match f.toNat with
  | 0 => .e2m1 | 1 => .e4m3 | 2 => .e5m2 | _ => .int8

/-- The rounding mode of a block conversion: RNE, SR or EF (R217). -/
def blockRnd (e : Ex) : Rnd := rndOf (modRnd e.x.mod) .rne

/-- An input of QPACK: NEGA and ABSA, CLAMP, and with SAT an infinity read as the largest FP32 value (R217). -/
def qpackInput (md : FpMod) (w : Word) : FVal :=
  let x := modA md (decodeFp .fp32 w.toNat)
  if md.clamp then decodeFp .fp32 (clamp01 .fp32 (roundTo .fp32 .rne false x 0).code)
  else if md.sat && x.isInf then decodeFp .fp32 (Fmt.fp32.withSign x.sign Fmt.fp32.maxCode)
  else x

/-- The active lanes of block k. -/
def blockLanes (e : Ex) (k : Nat) : List Nat := e.lanes.filter fun i => i / 32 = k

/-- The flag bits 11 to 9 of R217. -/
def blockFlags (sc : BScale) : Nat :=
  (if sc.satur then 0x800 else 0) + (if sc.zero then 0x400 else 0) + (if sc.nan then 0x200 else 0)

/-- The event of an input of QPACK: a signalling NaN (R15), or a NaN that CLAMP removes, is invalid (R64, R396). -/
def qpackEvents (md : FpMod) (w : Word) : Events :=
  let x := decodeFp .fp32 w.toNat
  { inv := x.isSig || (md.clamp && x.isNaN) }

/-- One block of QPACK (R217). -/
def qpackBlock (d a : Nat) (f : BFmt) (outl : Bool) (e : Ex) (k : Nat) : List LaneOut :=
  let md := fpMod e .rne
  let r := blockRnd e
  let ls := blockLanes e k
  let ins := ls.map fun i =>
    let dr := srDraw r (diceOf e.g i)
    (i, qpackInput md (vreg e.g a i).1, dr)
  let sc := chooseScale f outl (ins.map fun x => x.2.1)
  let qs := blockElems f r sc 0 fzero (ins.map fun x => (x.2.1, x.2.2.1))
  let tags := ls.map fun i => (vreg e.g a i).2
  let amax : Word := BitVec.ofNat 32 (roundTo .fp32 .rne false sc.amax 0).code
  (ins.zip qs).zipIdx.map fun x =>
    let i := x.1.1.1
    let q := x.1.2
    let isOut := sc.out = some x.2
    let lo : Word := BitVec.ofNat 32 q.1
    let hi : Word := BitVec.ofNat 32 (sc.byte + blockFlags sc + (if isOut then 0x100 + q.2 * 65536 else 0))
    { lane := i, lo := lo, hi := some hi, result := lo, a := some (vreg e.g a i), old := (vreg e.g d i).2
      ev := qpackEvents md (vreg e.g a i).1, born := { bsat := sc.satur }, w0 := amax, w1 := BitVec.ofNat 32 k
      dice := if r = .sr then some x.1.1.2.2.2 else none, group := some tags }

/-- QPACK (R216, R217). -/
def execQpack (d a : BitVec 8) (f : BitVec 2) (o : BitVec 1) (s : State) : Host.Outcome State Fault Refusal :=
  plainWord (.qpack d a f o) (fun e s =>
    pipeLanes s e d.toNat 2 .produce false
      ((upTo 2).flatMap (qpackBlock d.toNat a.toNat (blockFmt f) (flag o) e))) s

/-- One lane of QUNPK (R218). -/
def qunpkLane (d a : BitVec 8) (f : BitVec 2) (e : Ex) (i : Nat) : LaneOut :=
  let x := vreg e.g a.toNat i
  let y := vreg e.g (a.toNat + 1) i
  let v := if y.1.getLsbD 8 then decodeFp .bf16 (y.1.toNat / 65536)
    else scaledElem (blockFmt f) (y.1.toNat % 256) (if f = 0#2 then x.1.toNat % 16 else x.1.toNat % 256)
  let r := finishFp .fp32 (fpMod e .rne) false false [v] (if v.isNaN then v.quiet else v) 0
  { lane := i, lo := BitVec.ofNat 32 r.code, result := BitVec.ofNat 32 r.code, a := some x
    old := (vreg e.g d.toNat i).2, ev := r.ev, born := r.born, group := some [x.2, y.2] }

/-- QUNPK (R218). -/
def execQunpk (d a : BitVec 8) (f : BitVec 2) (s : State) : Host.Outcome State Fault Refusal :=
  plainWord (.qunpk d a f) (fun e s => pipeLanes s e d.toNat 1 .produce false (e.lanes.map (qunpkLane d a f e))) s

/-- One block of BSCALE (R219): its scale and flags in each of its lanes. -/
def bscaleBlock (d a : Nat) (f : BFmt) (outl : Bool) (e : Ex) (k : Nat) : List LaneOut :=
  let ls := blockLanes e k
  let sc := chooseScale f outl (ls.map fun i => decodeFp .fp32 (vreg e.g a i).1.toNat)
  let v : Word := BitVec.ofNat 32 (sc.byte + blockFlags sc)
  ls.map fun i =>
    { lane := i, lo := v, result := v, a := some (vreg e.g a i), old := (vreg e.g d i).2
      group := some (ls.map fun j => (vreg e.g a j).2) }

/-- BSCALE (R219). -/
def execBscale (d a : BitVec 8) (f : BitVec 2) (o : BitVec 1) (s : State) : Host.Outcome State Fault Refusal :=
  plainWord (.bscale d a f o) (fun e s =>
    pipeLanes s e d.toNat 1 .produce false ((upTo 2).flatMap (bscaleBlock d.toNat a.toNat (blockFmt f) (flag o) e))) s

/-! ## Shuffles (R220, R221) -/

/-- A shuffle: src names the source lane of a lane and its b; a lane whose source is not active keeps d. Every
active lane takes its draw of a %dice b. -/
def shuffleBody (d a b : BitVec 8) (src : Nat → Word → Option Nat) (e : Ex) (s : State) : State :=
  let ops := e.lanes.map fun i => (i, laneOne e .int b.toNat i)
  let outs := ops.filterMap fun x =>
    match src x.1 x.2.1.1 with
    | none => none
    | some j =>
      if j < e.width && e.x.amask.getLsbD j then
        let v := vreg e.g a.toNat j
        some { lane := x.1, lo := v.1, result := v.1, a := some v, b := some x.2.1, old := (vreg e.g d.toNat x.1).2 : LaneOut }
      else none
  let s := commitLanes s e d.toNat .carryA false outs
  setGroup s e fun g => writeDice g (ops.filterMap fun x => (drawn e x.1 x.2.2).map fun y => (x.1, y))

/-- SHFL: from the lane b names (R221). -/
def execShfl (d a b : BitVec 8) (s : State) : Host.Outcome State Fault Refusal :=
  plainWord (.shfl d a b) (shuffleBody d a b fun _ n => some n.toNat) s

/-- SHFLX: from lane i XOR b (R221). -/
def execShflx (d a b : BitVec 8) (s : State) : Host.Outcome State Fault Refusal :=
  plainWord (.shflx d a b) (shuffleBody d a b fun i n => some (i.xor n.toNat)) s

/-- SHFLU: from lane i − b (R221). -/
def execShflu (d a b : BitVec 8) (s : State) : Host.Outcome State Fault Refusal :=
  plainWord (.shflu d a b) (shuffleBody d a b fun i n => if n.toNat ≤ i then some (i - n.toNat) else none) s

/-- SHFLD: from lane i + b (R221). -/
def execShfld (d a b : BitVec 8) (s : State) : Host.Outcome State Fault Refusal :=
  plainWord (.shfld d a b) (shuffleBody d a b fun i n => some (i + n.toNat)) s

/-- SWAPP: the halves of each run of 2m lanes exchanged, m from the lowest active lane (R221). -/
def execSwapp (d a b : BitVec 8) (s : State) : Host.Outcome State Fault Refusal :=
  plainWord (.swapp d a b) (fun e s =>
    let m := (e.low.map fun i => (laneOne e .int b.toNat i).1.1.toNat).getD 0
    shuffleBody d a b (fun i _ =>
      if m = 0 then some i else if i / m % 2 = 0 then some (i + m) else if m ≤ i then some (i - m) else none) e s) s

/-! ## Votes, reductions and scans (R222 to R225) -/

/-- One result for the whole split, written to a scalar once or to a vector in every active lane: its tag, events
and captures are those of the lanes' results (R58, R222, R223). -/
def commitOne (s : State) (e : Ex) (d : Nat) (pair : Bool) (f : Nat → LaneOut) : State :=
  if e.lanes = [] then s
  else if isV d then commitLanes s e d .produce false (e.lanes.map f)
  else
    let k := d - 0xC0
    let r := settleLanes s e d .produce false (e.lanes.map fun i => { f i with old := (sreg e.g k).2 })
    let t := (r.cells.head?.map fun c => c.2.2).getD 0#16
    let o := f ((e.low).getD 0)
    let s := putS r.st e ((k, (o.lo, t)) :: (if pair then [(k + 1, (o.hi.getD 0#32, t))] else []))
    record s e r.status

/-- VOTE (R222). -/
def execVote (d : BitVec 8) (k : BitVec 2) (n : BitVec 1) (p : BitVec 3) (s : State) :
    Host.Outcome State Fault Refusal :=
  plainWord (.vote d k n p) (fun e s =>
    let yes := predLanes e (flag n) p.toNat
    let v : DWord :=
      match k.toNat with
      | 0 => if yes ≠ [] then 1#64 else 0#64
      | 1 => if yes.length = e.lanes.length then 1#64 else 0#64
      | _ => maskOf yes
    commitOne s e d.toNat (k = 2#2) fun i =>
      { lane := i, lo := loWord v, hi := if k = 2#2 then some (hiWord v) else none, result := loWord v
        old := (vreg e.g d.toNat i).2 }) s

/-- The identity of a reduction (R223). -/
def redIdent (r : Nat) : Word :=
  match r with
  | 1 => 0x7FFFFFFF#32 | 2 => 0x80000000#32 | 3 => 0xFFFFFFFF#32 | 5 => 0xFFFFFFFF#32
  | 8 => 0x80000000#32 | 9 => 0x7F800000#32 | 10 => 0xFF800000#32 | _ => 0#32

/-- An FP32 combine with FTZ (R223): its code and events. -/
def redFp (ftz : Bool) (op : FVal → FVal → FVal) (x y : Word) : Word × Events :=
  let md : FpMod := { sat := false, clamp := false, nega := false, negb := false, absa := false, absb := false, scale := 0, rnd := .rne, ftz := ftz }
  let u := readFp .fp32 ftz x.toNat
  let v := readFp .fp32 ftz y.toNat
  let r := finishFp .fp32 md false ftz [u, v] (op u v) 0
  (BitVec.ofNat 32 r.code, r.ev)

/-- The combine of a reduction (R223). FTZ reaches FADD alone: R223 gives it on that row, and FMIN and FMAX leave subnormals as they
are (DESIGN CHOICE, log entry 39). -/
def redCombine (ftz : Bool) (r : Nat) (x y : Word) : Word × Events :=
  match r with
  | 0 => (x + y, {})
  | 1 => (smin32 x y, {})
  | 2 => (smax32 x y, {})
  | 3 => (umin32 x y, {})
  | 4 => (umax32 x y, {})
  | 5 => (x &&& y, {})
  | 6 => (x ||| y, {})
  | 7 => (x ^^^ y, {})
  | 8 => redFp ftz (fadd .rne) x y
  | 9 => redFp false fminV x y
  | _ => redFp false fmaxV x y

/-- A node of the tree: absent, or a value with the events below it. -/
abbrev RedNode := Option (Word × Events)

/-- Two nodes combined (R224). -/
def redJoin (ftz : Bool) (r : Nat) (a b : RedNode) : RedNode :=
  match a, b with
  | some x, some y =>
    let c := redCombine ftz r x.1 y.1
    some (c.1, (x.2.or y.2).or c.2)
  | some x, none => some x
  | none, y => y

/-- One level of the tree over adjacent nodes (R224). -/
def redLevel (ftz : Bool) (r : Nat) : List RedNode → List RedNode
  | a :: b :: xs => redJoin ftz r a b :: redLevel ftz r xs
  | xs => xs

/-- The tree of R224 over the lanes of the width. -/
def redTree (ftz : Bool) (r : Nat) : Nat → List RedNode → RedNode
  | 0, xs => xs.headD none
  | n + 1, xs => redTree ftz r n (redLevel ftz r xs)

/-- The births of an FADD result from its contributors (R223). -/
def redBorn (r : Nat) (v : Word) (ins : List Word) : Births :=
  if r ≠ 8 || ins = [] then {}
  else
    let x := decodeFp .fp32 v.toNat
    let xs := ins.map fun w => decodeFp .fp32 w.toNat
    { nanf := x.isNaN && !xs.any FVal.isNaN, inff := x.isInf && xs.all FVal.isFin }

/-- REDUX (R223, R224). -/
def execRedux (d a : BitVec 8) (r : BitVec 4) (s : State) : Host.Outcome State Fault Refusal :=
  plainWord (.redux d a r) (fun e s =>
    let cell := fun (i : Nat) => vreg e.g a.toNat i
    let nodes : List RedNode := (upTo e.width).map fun i =>
      if e.x.amask.getLsbD i then some ((cell i).1, {}) else none
    match redTree e.lch.ftz r.toNat 6 nodes with
    | none => s
    | some v =>
      let tags := e.lanes.map fun i => (cell i).2
      let first := e.low.map fun i => (0#32, (cell i).2)
      commitOne s e d.toNat false fun i =>
        { lane := i, lo := v.1, result := v.1, old := (vreg e.g d.toNat i).2, ev := v.2
          born := redBorn r.toNat v.1 (e.lanes.map fun j => (cell j).1), group := some tags, carry := first }) s

/-- SCAN's lanes in ascending order (R225): the value so far with its events and contributors. -/
def scanLanes (ftz : Bool) (r : Nat) (excl : Bool) (acc : Word) (ev : Events) (seen : List Cell) :
    List (Nat × Cell) → List (Nat × Word × Events × List Cell)
  | [] => []
  | (i, c) :: xs =>
    let v := redCombine ftz r acc c.1
    let ev2 := ev.or v.2
    let out := if excl then (i, acc, ev, seen) else (i, v.1, ev2, seen ++ [c])
    out :: scanLanes ftz r excl v.1 ev2 (seen ++ [c]) xs

/-- SCAN (R223, R225). -/
def execScan (d a : BitVec 8) (r : BitVec 4) (x : BitVec 1) (s : State) : Host.Outcome State Fault Refusal :=
  plainWord (.scan d a r x) (fun e s =>
    let outs := scanLanes e.lch.ftz r.toNat (flag x) (redIdent r.toNat) {} []
      (e.lanes.map fun i => (i, vreg e.g a.toNat i))
    let mk := fun (o : Nat × Word × Events × List Cell) =>
      { lane := o.1, lo := o.2.1, result := o.2.1, old := (vreg e.g d.toNat o.1).2, ev := o.2.2.1
        born := redBorn r.toNat o.2.1 (o.2.2.2.map fun c => c.1), group := some (o.2.2.2.map fun c => c.2)
        carry := o.2.2.2.head?.map fun c => (0#32, c.2), capLane := e.low, ident := o.2.2.2 = [] : LaneOut }
    commitLanes s e d.toNat .produce false (outs.map mk)) s

end Sys2Proof.Machine
end

