-- ==== Sys2Proof/Machine/Dispatch.lean ====
section
/-! DEFINITION. exec: one arm per constructor of Instr, each one direct call of its meaning. -/

namespace Sys2Proof.Machine

/-- What an instruction, or an event, does to the machine. -/
def exec (i : Instr) (s : State) : Host.Outcome State Fault Refusal :=
  match i with
  | .imm im => Sys2Proof.Machine.execImm im s
  | .mod sf c n m a b k r t g o => Sys2Proof.Machine.execMod sf c n m a b k r t g o s
  | .hint sf y a b c => Sys2Proof.Machine.execHint sf y a b c s
  | .nop => Sys2Proof.Machine.execNop s
  | .trap n p c => Sys2Proof.Machine.execTrap n p c s
  | .bkpt c => Sys2Proof.Machine.execBkpt c s
  | .rfe => Sys2Proof.Machine.execRfe s
  | .mfsr d sf => Sys2Proof.Machine.execMfsr d sf s
  | .mtsr sf a => Sys2Proof.Machine.execMtsr sf a s
  | .br o => Sys2Proof.Machine.execBr o s
  | .bru n p o => Sys2Proof.Machine.execBru n p o s
  | .brd k n p o => Sys2Proof.Machine.execBrd k n p o s
  | .brz n o => Sys2Proof.Machine.execBrz n o s
  | .jmpi a => Sys2Proof.Machine.execJmpi a s
  | .call c o => Sys2Proof.Machine.execCall c o s
  | .ret a => Sys2Proof.Machine.execRet a s
  | .rejoin k => Sys2Proof.Machine.execRejoin k s
  | .yield => Sys2Proof.Machine.execYield s
  | .yieldD => Sys2Proof.Machine.execYieldD s
  | .exit => Sys2Proof.Machine.execExit s
  | .regroup b n o => Sys2Proof.Machine.execRegroup b n o s
  | .msav d => Sys2Proof.Machine.execMsav d s
  | .mres a => Sys2Proof.Machine.execMres a s
  | .mand n p => Sys2Proof.Machine.execMand n p s
  | .enall => Sys2Proof.Machine.execEnall s
  | .enres => Sys2Proof.Machine.execEnres s
  | .sadd d a b => Sys2Proof.Machine.execSadd d a b s
  | .ssub d a b => Sys2Proof.Machine.execSsub d a b s
  | .smul d a b => Sys2Proof.Machine.execSmul d a b s
  | .smulhu d a b => Sys2Proof.Machine.execSmulhu d a b s
  | .sand d a b => Sys2Proof.Machine.execSand d a b s
  | .sor d a b => Sys2Proof.Machine.execSor d a b s
  | .sxor d a b => Sys2Proof.Machine.execSxor d a b s
  | .sshl d a b => Sys2Proof.Machine.execSshl d a b s
  | .sshr d a b => Sys2Proof.Machine.execSshr d a b s
  | .ssra d a b => Sys2Proof.Machine.execSsra d a b s
  | .smin d a b => Sys2Proof.Machine.execSmin d a b s
  | .smax d a b => Sys2Proof.Machine.execSmax d a b s
  | .sminu d a b => Sys2Proof.Machine.execSminu d a b s
  | .smaxu d a b => Sys2Proof.Machine.execSmaxu d a b s
  | .smovi d im => Sys2Proof.Machine.execSmovi d im s
  | .smovhi d im => Sys2Proof.Machine.execSmovhi d im s
  | .scmp c m p a b => Sys2Proof.Machine.execScmp c m p a b s
  | .saddi d im => Sys2Proof.Machine.execSaddi d im s
  | .spopc d a => Sys2Proof.Machine.execSpopc d a s
  | .sffs d a => Sys2Proof.Machine.execSffs d a s
  | .sbfe d a b => Sys2Proof.Machine.execSbfe d a b s
  | .sdivu d a b => Sys2Proof.Machine.execSdivu d a b s
  | .sremu d a b => Sys2Proof.Machine.execSremu d a b s
  | .saddw d a b => Sys2Proof.Machine.execSaddw d a b s
  | .vadd d a b => Sys2Proof.Machine.execVadd d a b s
  | .vsub d a b => Sys2Proof.Machine.execVsub d a b s
  | .vmul d a b => Sys2Proof.Machine.execVmul d a b s
  | .vmulhi d a b => Sys2Proof.Machine.execVmulhi d a b s
  | .vmulhu d a b => Sys2Proof.Machine.execVmulhu d a b s
  | .vmad d a b => Sys2Proof.Machine.execVmad d a b s
  | .vand d a b => Sys2Proof.Machine.execVand d a b s
  | .vor d a b => Sys2Proof.Machine.execVor d a b s
  | .vxor d a b => Sys2Proof.Machine.execVxor d a b s
  | .vshl d a b => Sys2Proof.Machine.execVshl d a b s
  | .vshr d a b => Sys2Proof.Machine.execVshr d a b s
  | .vsra d a b => Sys2Proof.Machine.execVsra d a b s
  | .vmin d a b => Sys2Proof.Machine.execVmin d a b s
  | .vmax d a b => Sys2Proof.Machine.execVmax d a b s
  | .vminu d a b => Sys2Proof.Machine.execVminu d a b s
  | .vmaxu d a b => Sys2Proof.Machine.execVmaxu d a b s
  | .vabsd d a b => Sys2Proof.Machine.execVabsd d a b s
  | .vadds d a b => Sys2Proof.Machine.execVadds d a b s
  | .vsubs d a b => Sys2Proof.Machine.execVsubs d a b s
  | .vpopc d a => Sys2Proof.Machine.execVpopc d a s
  | .vclz d a => Sys2Proof.Machine.execVclz d a s
  | .vbrev d a => Sys2Proof.Machine.execVbrev d a s
  | .vbfe d a b => Sys2Proof.Machine.execVbfe d a b s
  | .vbfi d a b => Sys2Proof.Machine.execVbfi d a b s
  | .vmov d a => Sys2Proof.Machine.execVmov d a s
  | .vmovi d im => Sys2Proof.Machine.execVmovi d im s
  | .vmovhi d im => Sys2Proof.Machine.execVmovhi d im s
  | .vcmp c m p a b => Sys2Proof.Machine.execVcmp c m p a b s
  | .vcmpu c m p a b => Sys2Proof.Machine.execVcmpu c m p a b s
  | .vprmt d a b => Sys2Proof.Machine.execVprmt d a b s
  | .vcvti d a sf t => Sys2Proof.Machine.execVcvti d a sf t s
  | .vaddw d a b => Sys2Proof.Machine.execVaddw d a b s
  | .vselPk p d a b => Sys2Proof.Machine.execVselPk p d a b s
  | .fadd d a b => Sys2Proof.Machine.execFadd d a b s
  | .fsub d a b => Sys2Proof.Machine.execFsub d a b s
  | .fmul d a b => Sys2Proof.Machine.execFmul d a b s
  | .ffma d a b => Sys2Proof.Machine.execFfma d a b s
  | .fmin d a b => Sys2Proof.Machine.execFmin d a b s
  | .fmax d a b => Sys2Proof.Machine.execFmax d a b s
  | .fcmp c m p a b => Sys2Proof.Machine.execFcmp c m p a b s
  | .fclass d a => Sys2Proof.Machine.execFclass d a s
  | .fscaleb d a b => Sys2Proof.Machine.execFscaleb d a b s
  | .ffrac d a => Sys2Proof.Machine.execFfrac d a s
  | .frnd d a => Sys2Proof.Machine.execFrnd d a s
  | .fcvt d a sf t => Sys2Proof.Machine.execFcvt d a sf t s
  | .dadd d a b => Sys2Proof.Machine.execDadd d a b s
  | .dsub d a b => Sys2Proof.Machine.execDsub d a b s
  | .dmul d a b => Sys2Proof.Machine.execDmul d a b s
  | .dfma d a b => Sys2Proof.Machine.execDfma d a b s
  | .dcmp c m p a b => Sys2Proof.Machine.execDcmp c m p a b s
  | .dcvt d a sf t => Sys2Proof.Machine.execDcvt d a sf t s
  | .badd2 d a b => Sys2Proof.Machine.execBadd2 d a b s
  | .bmul2 d a b => Sys2Proof.Machine.execBmul2 d a b s
  | .bfma2 d a b => Sys2Proof.Machine.execBfma2 d a b s
  | .hadd2 d a b => Sys2Proof.Machine.execHadd2 d a b s
  | .hmul2 d a b => Sys2Proof.Machine.execHmul2 d a b s
  | .hfma2 d a b => Sys2Proof.Machine.execHfma2 d a b s
  | .vdot2Bf d a b => Sys2Proof.Machine.execVdot2Bf d a b s
  | .vdot4E4 d a b => Sys2Proof.Machine.execVdot4E4 d a b s
  | .vdot4E5 d a b => Sys2Proof.Machine.execVdot4E5 d a b s
  | .vdot8F4 d a b => Sys2Proof.Machine.execVdot8F4 d a b s
  | .vdot4I8 d a b => Sys2Proof.Machine.execVdot4I8 d a b s
  | .vdot2H d a b => Sys2Proof.Machine.execVdot2H d a b s
  | .cvtpkBf d a b => Sys2Proof.Machine.execCvtpkBf d a b s
  | .cvtpkH d a b => Sys2Proof.Machine.execCvtpkH d a b s
  | .cvt8E4l d a b => Sys2Proof.Machine.execCvt8E4l d a b s
  | .cvt8E4h d a b => Sys2Proof.Machine.execCvt8E4h d a b s
  | .cvt8E5l d a b => Sys2Proof.Machine.execCvt8E5l d a b s
  | .cvt8E5h d a b => Sys2Proof.Machine.execCvt8E5h d a b s
  | .unpk d a f sf => Sys2Proof.Machine.execUnpk d a f sf s
  | .dice d => Sys2Proof.Machine.execDice d s
  | .shfl d a b => Sys2Proof.Machine.execShfl d a b s
  | .shflx d a b => Sys2Proof.Machine.execShflx d a b s
  | .shflu d a b => Sys2Proof.Machine.execShflu d a b s
  | .shfld d a b => Sys2Proof.Machine.execShfld d a b s
  | .swapp d a b => Sys2Proof.Machine.execSwapp d a b s
  | .vote d k n p => Sys2Proof.Machine.execVote d k n p s
  | .redux d a r => Sys2Proof.Machine.execRedux d a r s
  | .scan d a r x => Sys2Proof.Machine.execScan d a r x s
  | .sint d a => Sys2Proof.Machine.execSint d a s
  | .cost d a => Sys2Proof.Machine.execCost d a s
  | .exp2 d a => Sys2Proof.Machine.execExp2 d a s
  | .log2 d a => Sys2Proof.Machine.execLog2 d a s
  | .rcp d a => Sys2Proof.Machine.execRcp d a s
  | .rsq d a => Sys2Proof.Machine.execRsq d a s
  | .sqrt d a => Sys2Proof.Machine.execSqrt d a s
  | .tanh d a => Sys2Proof.Machine.execTanh d a s
  | .divf d a b => Sys2Proof.Machine.execDivf d a b s
  | .qpack d a f o => Sys2Proof.Machine.execQpack d a f o s
  | .qunpk d a f => Sys2Proof.Machine.execQunpk d a f s
  | .bscale d a f o => Sys2Proof.Machine.execBscale d a f o s
  | .crc32c d a b => Sys2Proof.Machine.execCrc32c d a b s
  | .ddiv d a b => Sys2Proof.Machine.execDdiv d a b s
  | .dsqrt d a => Sys2Proof.Machine.execDsqrt d a s
  | .ldg d a w o => Sys2Proof.Machine.execLdg d a w o s
  | .stg d a w o => Sys2Proof.Machine.execStg d a w o s
  | .ldl d a w o => Sys2Proof.Machine.execLdl d a w o s
  | .stl d a w o => Sys2Proof.Machine.execStl d a w o s
  | .ldc d a w o => Sys2Proof.Machine.execLdc d a w o s
  | .stc d a w o => Sys2Proof.Machine.execStc d a w o s
  | .lda d a w o => Sys2Proof.Machine.execLda d a w o s
  | .sta d a w o => Sys2Proof.Machine.execSta d a w o s
  | .ldk d a w o => Sys2Proof.Machine.execLdk d a w o s
  | .ldu d a w o => Sys2Proof.Machine.execLdu d a w o s
  | .ldul d a w o => Sys2Proof.Machine.execLdul d a w o s
  | .ldacq d a w o => Sys2Proof.Machine.execLdacq d a w o s
  | .strel d a w o => Sys2Proof.Machine.execStrel d a w o s
  | .fence k => Sys2Proof.Machine.execFence k s
  | .pref l a o => Sys2Proof.Machine.execPref l a o s
  | .cctl c a => Sys2Proof.Machine.execCctl c a s
  | .atomAdd d a w b => Sys2Proof.Machine.execAtomAdd d a w b s
  | .atomFadd d a w b => Sys2Proof.Machine.execAtomFadd d a w b s
  | .atomMin d a w b => Sys2Proof.Machine.execAtomMin d a w b s
  | .atomMax d a w b => Sys2Proof.Machine.execAtomMax d a w b s
  | .atomMinu d a w b => Sys2Proof.Machine.execAtomMinu d a w b s
  | .atomMaxu d a w b => Sys2Proof.Machine.execAtomMaxu d a w b s
  | .atomAnd d a w b => Sys2Proof.Machine.execAtomAnd d a w b s
  | .atomOr d a w b => Sys2Proof.Machine.execAtomOr d a w b s
  | .atomXor d a w b => Sys2Proof.Machine.execAtomXor d a w b s
  | .atomExch d a w b => Sys2Proof.Machine.execAtomExch d a w b s
  | .atomCas d a w b => Sys2Proof.Machine.execAtomCas d a w b s
  | .atomInc d a w b => Sys2Proof.Machine.execAtomInc d a w b s
  | .lock a => Sys2Proof.Machine.execLock a s
  | .unlock a => Sys2Proof.Machine.execUnlock a s
  | .waitc c im a b => Sys2Proof.Machine.execWaitc c im a b s
  | .ladd d a b => Sys2Proof.Machine.execLadd d a b s
  | .waitn l sf c t => Sys2Proof.Machine.execWaitn l sf c t s
  | .batch d => Sys2Proof.Machine.execBatch d s
  | .waitb p a => Sys2Proof.Machine.execWaitb p a s
  | .barinit b e n => Sys2Proof.Machine.execBarinit b e n s
  | .arrive b => Sys2Proof.Machine.execArrive b s
  | .arrivex b a => Sys2Proof.Machine.execArrivex b a s
  | .barwait b q p => Sys2Proof.Machine.execBarwait b q p s
  | .bartry b q p => Sys2Proof.Machine.execBartry b q p s
  | .gridbar => Sys2Proof.Machine.execGridbar s
  | .gset g a p => Sys2Proof.Machine.execGset g a p s
  | .xcopy c r d l b => Sys2Proof.Machine.execXcopy c r d l b s
  | .xgather c r l b => Sys2Proof.Machine.execXgather c r l b s
  | .xscatter c r l b => Sys2Proof.Machine.execXscatter c r l b s
  | .xfill c r l b => Sys2Proof.Machine.execXfill c r l b s
  | .xstat d sf im => Sys2Proof.Machine.execXstat d sf im s
  | .coll o b t h r y sf => Sys2Proof.Machine.execColl o b t h r y sf s
  | .commq d a sf => Sys2Proof.Machine.execCommq d a sf s
  | .mstart a b => Sys2Proof.Machine.execMstart a b s
  | .tdesc t a => Sys2Proof.Machine.execTdesc t a s
  | .mldw w f => Sys2Proof.Machine.execMldw w f s
  | .mswap => Sys2Proof.Machine.execMswap s
  | .mmaM32 a c f t z m n => Sys2Proof.Machine.execMmaM32 a c f t z m n s
  | .mmaM64 a c f t z m n => Sys2Proof.Machine.execMmaM64 a c f t z m n s
  | .mmaM128 a c f t z m n => Sys2Proof.Machine.execMmaM128 a c f t z m n s
  | .mmaM256 a c f t z m n => Sys2Proof.Machine.execMmaM256 a c f t z m n s
  | .mzero t => Sys2Proof.Machine.execMzero t s
  | .mdrain d c f sf z m n => Sys2Proof.Machine.execMdrain d c f sf z m n s
  | .marrive b => Sys2Proof.Machine.execMarrive b s
  | .mwait b q m p => Sys2Proof.Machine.execMwait b q m p s
  | .msett t m => Sys2Proof.Machine.execMsett t m s
  | .maddi m sf im => Sys2Proof.Machine.execMaddi m sf im s
  | .mloop m o => Sys2Proof.Machine.execMloop m o s
  | .mend => Sys2Proof.Machine.execMend s
  | .mguard g n => Sys2Proof.Machine.execMguard g n s
  | .tget d a => Sys2Proof.Machine.execTget d a s
  | .tset d a => Sys2Proof.Machine.execTset d a s
  | .tstamp d => Sys2Proof.Machine.execTstamp d s
  | .tchk a m => Sys2Proof.Machine.execTchk a m s
  | .tcap d a w => Sys2Proof.Machine.execTcap d a w s
  | .trule c => Sys2Proof.Machine.execTrule c s
  | .lstat d m => Sys2Proof.Machine.execLstat d m s
  | .lstatMask m => Sys2Proof.Machine.execLstatMask m s
  | .reservedOpcode w => Sys2Proof.Machine.execReservedOpcode w s
  | .powerGood => Sys2Proof.Machine.execPowerGood s
  | .bringupRestart => Sys2Proof.Machine.execBringupRestart s
  | .enableWrite => Sys2Proof.Machine.execEnableWrite s
  | .registerWrite => Sys2Proof.Machine.execRegisterWrite s
  | .tailWrite => Sys2Proof.Machine.execTailWrite s
  | .createContext => Sys2Proof.Machine.execCreateContext s
  | .destroyContext => Sys2Proof.Machine.execDestroyContext s
  | .createRing => Sys2Proof.Machine.execCreateRing s
  | .createComm => Sys2Proof.Machine.execCreateComm s
  | .invalidate => Sys2Proof.Machine.execInvalidate s
  | .checkpoint => Sys2Proof.Machine.execCheckpoint s
  | .resetContext => Sys2Proof.Machine.execResetContext s
  | .resetRing => Sys2Proof.Machine.execResetRing s
  | .resetDumpArea => Sys2Proof.Machine.execResetDumpArea s
  | .resetTraceRing => Sys2Proof.Machine.execResetTraceRing s
  | .admitContract => Sys2Proof.Machine.execAdmitContract s
  | .readCounters => Sys2Proof.Machine.execReadCounters s
  | .definePartition => Sys2Proof.Machine.execDefinePartition s
  | .updateContext => Sys2Proof.Machine.execUpdateContext s
  | .writeWatchpoint => Sys2Proof.Machine.execWriteWatchpoint s
  | .releaseRing => Sys2Proof.Machine.execReleaseRing s
  | .releaseComm => Sys2Proof.Machine.execReleaseComm s
  | .releaseContract => Sys2Proof.Machine.execReleaseContract s
  | .restore => Sys2Proof.Machine.execRestore s
  | .getVersion => Sys2Proof.Machine.execGetVersion s
  | .getCapabilities => Sys2Proof.Machine.execGetCapabilities s
  | .negotiateAlgorithms => Sys2Proof.Machine.execNegotiateAlgorithms s
  | .getCertificate => Sys2Proof.Machine.execGetCertificate s
  | .challenge => Sys2Proof.Machine.execChallenge s
  | .getMeasurements => Sys2Proof.Machine.execGetMeasurements s
  | .hostWrite => Sys2Proof.Machine.execHostWrite s
  | .hostRead => Sys2Proof.Machine.execHostRead s
  | .atsInvalidation => Sys2Proof.Machine.execAtsInvalidation s
  | .atsTranslationReply => Sys2Proof.Machine.execAtsTranslationReply s
  | .priResponse => Sys2Proof.Machine.execPriResponse s
  | .ringLaunch => Sys2Proof.Machine.execRingLaunch s
  | .ringNode => Sys2Proof.Machine.execRingNode s
  | .ringWait => Sys2Proof.Machine.execRingWait s
  | .ringSignal => Sys2Proof.Machine.execRingSignal s
  | .ringFence => Sys2Proof.Machine.execRingFence s
  | .ringMapping => Sys2Proof.Machine.execRingMapping s
  | .teamDispatch => Sys2Proof.Machine.execTeamDispatch s
  | .dispatchStarvation => Sys2Proof.Machine.execDispatchStarvation s
  | .gridRuleSave => Sys2Proof.Machine.execGridRuleSave s
  | .launchCompletion => Sys2Proof.Machine.execLaunchCompletion s
  | .contractRelease => Sys2Proof.Machine.execContractRelease s
  | .contractOverrun => Sys2Proof.Machine.execContractOverrun s
  | .preemptionRequest => Sys2Proof.Machine.execPreemptionRequest s
  | .drainDeadline => Sys2Proof.Machine.execDrainDeadline s
  | .save => Sys2Proof.Machine.execSave s
  | .teamRestore => Sys2Proof.Machine.execTeamRestore s
  | .loadReply => Sys2Proof.Machine.execLoadReply s
  | .storeAcknowledgement => Sys2Proof.Machine.execStoreAcknowledgement s
  | .transformPipeReply => Sys2Proof.Machine.execTransformPipeReply s
  | .walkCompletion => Sys2Proof.Machine.execWalkCompletion s
  | .faultService => Sys2Proof.Machine.execFaultService s
  | .monitorRecheck => Sys2Proof.Machine.execMonitorRecheck s
  | .nodeCommit => Sys2Proof.Machine.execNodeCommit s
  | .nodeRollback => Sys2Proof.Machine.execNodeRollback s
  | .regulatorWindow => Sys2Proof.Machine.execRegulatorWindow s
  | .florixRemoteRequest => Sys2Proof.Machine.execFlorixRemoteRequest s
  | .fabricTimeout => Sys2Proof.Machine.execFabricTimeout s
  | .florixPortFailure => Sys2Proof.Machine.execFlorixPortFailure s
  | .sramUncorr => Sys2Proof.Machine.execSramUncorr s
  | .unitFencing => Sys2Proof.Machine.execUnitFencing s
  | .contextFault => Sys2Proof.Machine.execContextFault s
  | .streamFaultDelivery => Sys2Proof.Machine.execStreamFaultDelivery s
  | .commandToEngine => Sys2Proof.Machine.execCommandToEngine s
  | .chunkDelivery => Sys2Proof.Machine.execChunkDelivery s
  | .heldArrival => Sys2Proof.Machine.execHeldArrival s
  | .engineStalemate => Sys2Proof.Machine.execEngineStalemate s
  | .arbiterGrant => Sys2Proof.Machine.execArbiterGrant s
  | .mldwCompletion => Sys2Proof.Machine.execMldwCompletion s
  | .mswapExchange => Sys2Proof.Machine.execMswapExchange s
  | .passCompletion => Sys2Proof.Machine.execPassCompletion s
  | .mzeroCompletion => Sys2Proof.Machine.execMzeroCompletion s
  | .drainCompletion => Sys2Proof.Machine.execDrainCompletion s
  | .signatureReceipt => Sys2Proof.Machine.execSignatureReceipt s
  | .chunkStep => Sys2Proof.Machine.execChunkStep s
  | .chunkCredit => Sys2Proof.Machine.execChunkCredit s
  | .collAbort => Sys2Proof.Machine.execCollAbort s
  | .sequencerTimeout => Sys2Proof.Machine.execSequencerTimeout s
  | .splitStalemate => Sys2Proof.Machine.execSplitStalemate s
  | .regroupMigration => Sys2Proof.Machine.execRegroupMigration s
  | .syncPeriodic => Sys2Proof.Machine.execSyncPeriodic s
  | .branchFlush => Sys2Proof.Machine.execBranchFlush s
  | .mailboxUnknownCommand => Sys2Proof.Machine.execMailboxUnknownCommand s
  | .nvmeCompletion => Sys2Proof.Machine.execNvmeCompletion s
  | .florixPortUp => Sys2Proof.Machine.execFlorixPortUp s
  | .onPackageLinkFailure => Sys2Proof.Machine.execOnPackageLinkFailure s
  | .healthCorrWindow => Sys2Proof.Machine.execHealthCorrWindow s

end Sys2Proof.Machine
end

