-- ==== Sys2Proof/Machine/Shadow.lean ====
section
/-! DEFINITION. Shadow execution (R426, R427): a shadowed group and its shadow run every word in step, so that the load-value queue
and the store buffer never fill (log entry 37). The shadow's
word runs on the machine in which the shadow stands in its group's place; what it does to registers is kept, and all else that it
does is the leading group's alone. What R427 has compared is compared before the word takes effect. -/

namespace Sys2Proof.Machine

/-! ## The machine in which the shadows stand in their groups' places -/

/-- The shadow of a group. -/
def shadowOf (s : State) (tid gi : Nat) : Option Shadow := s.shadows.find? fun h => h.tid = tid && h.gi = gi

/-- A group with the registers and trap registers of its shadow. -/
def withRegs (g h : Group) : Group :=
  { g with
    vregs := h.vregs, sregs := h.sregs, sold := h.sold, preds := h.preds, dice := h.dice, orig := h.orig, lstat := h.lstat
    tcause := h.tcause, tpc := h.tpc, tmask := h.tmask, tinfo0 := h.tinfo0, tinfo1 := h.tinfo1, tinfo2 := h.tinfo2
    tinfo3 := h.tinfo3, hs := h.hs, held := h.held }

/-- A split with its shadow's A and bracket. -/
def withMask (s : State) (x : Split) : Split :=
  match (shadowOf s x.tid x.gi).bind fun h => h.masks.find? fun m => m.1 = x.rank with
  | some m => { x with amask := m.2.1, ba := m.2.2.1, br := m.2.2.2 }
  | none => x

/-- An operation of a group's transform pipe as its shadow has it. -/
def withXform (s : State) (f : Flight) : Flight :=
  match (shadowOf s f.tid f.gi).bind fun h => h.xforms.find? fun q => q.id = f.id with
  | some q => q
  | none => f

/-- The machine as the shadows see it. -/
def swapAll (s : State) : State :=
  { s with
    groups := s.groups.map fun g => match shadowOf s g.tid g.gi with | some h => withRegs g h.g | none => g
    splits := s.splits.map (withMask s)
    mem := { s.mem with flights := s.mem.flights.map (withXform s) } }

/-- A shadow after a word or an event whose outcome for the shadows is t. -/
def shadowAfter (t : State) (h : Shadow) : Shadow :=
  { h with
    g := (findGroup t h.tid h.gi).getD h.g
    masks := masksOf t h.tid h.gi
    xforms := t.mem.flights.filter fun f => f.tid = h.tid && f.gi = h.gi && f.kind = .xform }

/-- The shadows after t, the leading groups' outcome of what s met, and t', the shadows': a shadow ends with its group, and one that
has only started is its group's copy. -/
def keepShadows (s t t' : State) : State :=
  let live := t.shadows.filter fun h => match findGroup t h.tid h.gi with | some g => !g.exited | none => false
  { t with shadows := live.map fun h => if (shadowOf s h.tid h.gi).isSome then shadowAfter t' h else h }

/-- Something that is no word of a shadowed group happens: it happens to the shadows' registers as to their groups'. -/
def mirrored (f : State → Host.Outcome State Fault Refusal) (s : State) : Host.Outcome State Fault Refusal :=
  if s.shadows = [] then f s
  else
    match f s, f (swapAll s) with
    | .next t, .next t' => .next (keepShadows s t t')
    | r, _ => r

/-! ## What is compared (R427) -/

/-- The row of R427's table that a word falls under. The rows name no fence, PREF, WAITN, BR, BRZ, CALL, RET, XSTAT or COMMQ: those that
act on memory or a unit are taken with the row of their like, those that set the PC with row 5 (DESIGN CHOICE, log entry 37). -/
def pairRow (i : Instr) : Nat :=
  match i with
  | .ldg .. | .ldl .. | .ldc .. | .lda .. | .ldk .. | .ldu .. | .ldul .. | .ldacq .. | .tcap .. | .pref .. => 1
  | .mfsr _ k => if [0x09#8, 0x0A#8, 0x0B#8, 0x0C#8, 0x0E#8].contains k then 1 else 0
  | .stg .. | .strel .. | .stl .. | .stc .. | .sta .. | .cctl .. => 2
  | .atomAdd .. | .atomFadd .. | .atomMin .. | .atomMax .. | .atomMinu .. | .atomMaxu .. | .atomAnd .. | .atomOr .. | .atomXor ..
  | .atomExch .. | .atomCas .. | .atomInc .. | .ladd .. | .lock .. | .unlock .. | .waitc .. => 3
  | .xcopy .. | .xgather .. | .xscatter .. | .xfill .. | .xstat .. | .commq .. | .barinit .. | .arrive .. | .arrivex ..
  | .barwait .. | .bartry .. | .gridbar | .gset .. | .batch _ | .waitb .. | .coll .. | .mstart .. | .tdesc .. | .mtsr ..
  | .trule _ | .waitn .. | .fence _ => 4
  | .brd .. | .rejoin _ | .yieldD | .regroup .. | .exit | .bru .. | .jmpi _ | .br _ | .brz .. | .call .. | .ret _ => 5
  | _ => 0

/-- The registers from code c that a copy has read by its record (R125): those of the command it queued. -/
def copyCodes (t : State) (e : Ex) (c : Nat) : List (Nat × Nat) :=
  match (findTeam t e.x.tid).bind fun u => (u.queue.drop e.tm.queue.length).getLast? with
  | some q => regsAt c (copyRegs q.kind q.record)
  | none => []

/-- The registers of a word of rows 1 to 4 that it reads, its leading group's outcome being t: the addresses, and the data or
operands of rows 2 to 4. -/
def pairSources (t : State) (e : Ex) (i : Instr) : List (Nat × Nat) :=
  match i with
  | .ldg _ a _ _ | .ldacq _ a _ _ | .ldu _ a _ _ | .pref _ a _ => regsAt a.toNat 2
  | .ldl _ a _ _ | .ldc _ a _ _ | .lda _ a _ _ | .ldk _ a _ _ | .ldul _ a _ _ | .tcap _ a _ => regsAt a.toNat 1
  | .mfsr .. | .xstat .. | .batch _ => []
  | .stg d a w _ | .strel d a w _ => regsAt a.toNat 2 ++ regsAt d.toNat (widthRegs w.toNat)
  | .stl d a w _ | .stc d a w _ | .sta d a w _ => regsAt a.toNat 1 ++ regsAt d.toNat (widthRegs w.toNat)
  | .atomAdd _ a w b | .atomFadd _ a w b | .atomMin _ a w b | .atomMax _ a w b | .atomMinu _ a w b | .atomMaxu _ a w b
  | .atomAnd _ a w b | .atomOr _ a w b | .atomXor _ a w b | .atomExch _ a w b | .atomInc _ a w b =>
    (2 * a.toNat, 2) :: regsAt b.toNat (w.toNat + 1)
  | .atomCas _ a w b => (2 * a.toNat, 2) :: regsAt b.toNat (2 * (w.toNat + 1))
  | .ladd _ a b => regsAt a.toNat 1 ++ regsAt b.toNat 1
  | .commq _ a _ => regsAt a.toNat 1
  | .xcopy c r _ _ _ | .xgather c r _ _ | .xscatter c r _ _ | .xfill c r _ _ => (0xC0 + 2 * r.toNat, 2) :: copyCodes t e c.toNat
  | _ => let sh := shape 64 0#32 false i; sh.regs ++ sh.more

/-- The cells of registers that a lane's copy of a word reads; only row 2 compares tags
(R427). -/
def pairCells (i : Instr) (rs : List (Nat × Nat)) (g : Group) (lane : Nat) : List Cell :=
  rs.flatMap fun r => (upTo r.2).map fun k =>
    let c := regCell g (r.1 + k) lane
    if pairRow i = 2 then c else (c.1, 0#16)

/-- The predicate that a word of row 4 reads: a guard's, or the one that names a copy's leader. -/
def pairPred (i : Instr) : Option Nat :=
  match i with
  | .gset _ a p => if a = 1#2 then some p.toNat else none
  | .xcopy _ _ _ l _ | .xgather _ _ l _ | .xscatter _ _ l _ | .xfill _ _ l _ => some l.toNat
  | _ => none

/-- The lanes in which a word of rows 1 to 4 differs between a group and its shadow: those that only one has active, and those
whose operands differ; a scalar operand is every active lane's. -/
def operandDiff (i : Instr) (rs : List (Nat × Nat)) (e h : Ex) : DWord :=
  let scalars := pairCells i (rs.filter fun r => !isV r.1) e.g 0 ≠ pairCells i (rs.filter fun r => !isV r.1) h.g 0
  let preds := match pairPred i with
    | some p => (pred e.g p ^^^ pred h.g p) &&& e.x.amask
    | none => 0#64
  (e.x.amask ^^^ h.x.amask) ||| preds ||| (if scalars then e.x.amask else 0#64) |||
  maskOf (e.lanes.filter fun i' => pairCells i rs e.g i' ≠ pairCells i rs h.g i')

/-- Whether scalar operands of a word differ, which needs no active lane. -/
def scalarDiff (i : Instr) (rs : List (Nat × Nat)) (e h : Ex) : Bool :=
  pairCells i rs e.g 0 ≠ pairCells i rs h.g 0 && rs.all fun r => !isV r.1

/-- Where each lane of a group stands: its split's PC, and whether it is in A. -/
def laneState (s : State) (tid gi i : Nat) : List (Nat × DWord × Bool) :=
  ((splitsOf s tid gi).filter fun x => x.lset.getLsbD i).map fun x => (x.rank, x.pc, x.amask.getLsbD i)

/-- The lanes whose split, PC or place in A differ between the outcomes of a word of row 5. -/
def flowDiff (t t' : State) (e : Ex) : DWord :=
  maskOf ((upTo e.width).filter fun i => laneState t e.x.tid e.x.gi i ≠ laneState t' e.x.tid e.x.gi i)

/-- The cause that a word of a split raised in going from s to t, and its lanes. -/
def raised (s t : State) (e : Ex) : Option (Cause × DWord) :=
  let fault := fun (s : State) => (findCtx s e.lch.ctx).bind fun c => c.fault
  let back := fun (s : State) => (findLaunch s e.lch.id).bind fun l => l.rollback
  match fault t with
  | some f => if (fault s).isNone then some (f.cause, f.trap.mask) else none
  | none =>
    match back t with
    | some r => if (back s).isNone then some (r.cause, r.mask) else none
    | none =>
      match findGroup t e.x.tid e.x.gi with
      | none => none
      | some g =>
        if e.g.held.length < g.held.length then (g.held.getLast?).map fun h => (h.trap.cause, h.trap.mask)
        else if e.g.hs.isNone && g.hs.isSome then some (BitVec.ofNat 8 g.tcause.toNat, g.tmask)
        else none

/-- SHADOW_DIVERGENCE in the leading group before the word takes effect (R427): TINFO0 is the row, TINFO1 the differing lanes,
of which its 32 bits hold the low ones. -/
def diverge (s : State) (e : Ex) (w : Word) (row : Nat) (lanes : DWord) : State :=
  takeK s e (beforeTrap e w 0xB2#8 lanes (BitVec.ofNat 32 row) (loWord lanes) 0#32)

/-- The lanes of two members' causes in which they differ: those of one alone, or of either where the causes differ; with no lane of
its own, a cause is every active lane's. -/
def causeLanes (e : Ex) (c d : Option (Cause × DWord)) : DWord :=
  let m := fun (c : Option (Cause × DWord)) => (c.map fun k => k.2).getD 0#64
  let both := m c ||| m d
  if both = 0#64 then e.x.amask else both

/-- What a word comes to for the pair: t is the leading group's outcome and t' the shadow's. A cause in one alone, or a compare that
differs, is a divergence; a cause that both raise is taken in both. -/
def pairOutcome (s t t' : State) (e h : Ex) (i : Option Instr) (w : Word) : State :=
  let row := match i with | some i => pairRow i | none => 0
  let c := raised s t e
  let d := raised (swapAll s) t' h
  if (c.map fun k => k.1) ≠ d.map fun k => k.1 then diverge s e w row (causeLanes e c d)
  else if c.isSome then keepShadows s t t'
  else
    match i with
    | none => keepShadows s t t'
    | some i =>
      if !mayIssue s e || mustWait s e i then keepShadows s t t'
      else if row = 5 then
        let d := flowDiff t t' e
        if d = 0#64 then keepShadows s t t' else diverge s e w row d
      else if row = 0 then keepShadows s t t'
      else
        let rs := pairSources t e i
        let d := operandDiff i rs e h
        if d = 0#64 && !scalarDiff i rs e h then keepShadows s t t' else diverge s e w row d

/-- A word of a split and of its shadow, where its group has one. -/
def pairWord (i : Option Instr) (w : Word) (f : State → Host.Outcome State Fault Refusal) (s : State) (e : Ex) :
    Host.Outcome State Fault Refusal :=
  if (shadowOf s e.x.tid e.x.gi).isNone then mirrored f s
  else
    let s' := swapAll s
    match f s, f s', exAt s' e.x.tid e.x.gi e.x.rank with
    | .next t, .next t', some h => .next (tidy (pairOutcome s t t' e h i w))
    | r, _, _ => r

/-- A register cell of a shadowed group or of its shadow comes to hold a wrong value (R427; from outside, log entry 37). -/
def upset (s : State) (shadow : Bool) (tid gi code lane : Nat) (v : Word) : State :=
  let put := fun (g : Group) =>
    if isV code then { g with vregs := mapSet (0#32, 0#16) g.vregs (code * 64 + lane % 64) (v, (regCell g code lane).2) }
    else { g with sregs := mapSet (0#32, 0#16) g.sregs (code - 0xC0) (v, (regCell g code lane).2) }
  if (shadowOf s tid gi).isNone || !isReg code then s
  else if shadow then
    { s with shadows := s.shadows.map fun h => if h.tid = tid && h.gi = gi then { h with g := put h.g } else h }
  else updGroup s tid gi put

end Sys2Proof.Machine
end

