-- ==== Sys2Proof/Machine/Cycle.lean ====
section
/-! DEFINITION. What one turn does: a word fetched, decoded and executed by a split or a matrix stream, words and replies of a group
in one cycle (R68, R317), an event, and what comes about outside. -/

namespace Sys2Proof.Machine

/-- A word executed by whoever has the turn: the instruction it decodes to, or, with a reserved bit set, the cause of
R72. -/
def execWord (w : Word) (s : State) : Host.Outcome State Fault Refusal :=
  match decode w with
  | some i => exec i s
  | none => badWord w s

/-- The turn of a split (R360), and of its shadow (R427). -/
def splitTurn (s : State) (tid gi rank : Nat) : Host.Outcome State Fault Refusal :=
  match exAt s tid gi rank with
  | none => .next s
  | some e =>
    if mayIssue s e then
      match fetchAt s e.tm.core e.lch.ctx e.x.pc with
      | .word w =>
        pairWord (decode w) w (fun s => execWord w { s with cur := .split tid gi rank })
          (fetchTouch s e.tm.core e.lch.ctx e.x.pc) e
      | r => mirrored (fun s => .next (match exAt s tid gi rank with | some e => fetchFail s e r | none => s)) s
    else .next s

/-- The turn of a matrix stream (R245). -/
def streamTurn (s : State) (tid : Nat) : Host.Outcome State Fault Refusal :=
  match sxOf s tid with
  | none => .next s
  | some x =>
    if mayStream s x then
      match fetchAt s x.tm.core x.lch.ctx x.tm.seqPc with
      | .word w => execWord w { fetchTouch s x.tm.core x.lch.ctx x.tm.seqPc with cur := .stream tid }
      | r => .next (streamFetchFail s x r)
    else .next s

/-- The turn of an event, which is an instruction that has no word. -/
def eventTurn (s : State) (i : Instr) (arg : EvArg) : Host.Outcome State Fault Refusal :=
  match encode i with
  | none => exec i { s with cur := .nobody, arg := arg }
  | some _ => .next s

/-! ## One cycle of a group (R68, R175, R317) -/

/-- The resources of R317. -/
inductive IssueUnit where
  | scalar | vector | fp64 | crossbar | memory | engine | transform | none
  deriving DecidableEq, Repr

/-- The resource that an opcode needs (R317). -/
def unitOf (op : Nat) : IssueUnit :=
  if op < 4 then .none
  else if 0x6C ≤ op && op ≤ 0x71 then .fp64
  else if op < 0x38 then .scalar
  else if 0x88 ≤ op && op ≤ 0x8F then .crossbar
  else if op < 0x90 then .vector
  else if op < 0xA0 then .transform
  else if op < 0xC0 || op = 0xF4 then .memory
  else if op = 0xC1 || op = 0xC9 || op = 0xD4 || op = 0xD6 || 0xF0 ≤ op then .scalar
  else .engine

/-- The resource of a split's next word. -/
def nextUnit (s : State) (e : Ex) : IssueUnit :=
  match fetchAt s e.tm.core e.lch.ctx e.x.pc with
  | .word w => unitOf (w.toNat / 2 ^ 24)
  | _ => .none

/-- Whether words of these resources issue together: four at most, and one for each resource but the vector pipe (R317). -/
def unitsFit (us : List IssueUnit) : Bool :=
  us.length ≤ 4 && (us.filter fun u => u ≠ .vector && u ≠ .none).Nodup

/-- Scalars and the rule register are read in a group and its shadow as the cycle found them (R49, R68). -/
def openCycle (s : State) (tid gi : Nat) : State :=
  let s := updGroup s tid gi fun g => { g with sold := some g.sregs, ruleOld := some g.rule }
  { s with shadows := s.shadows.map fun h =>
      if h.tid = tid && h.gi = gi then { h with g := { h.g with sold := some h.g.sregs } } else h }

/-- The cycle ends. -/
def closeCycle (s : State) (tid gi : Nat) : State :=
  let s := updGroup s tid gi fun g => { g with sold := none, ruleOld := none }
  { s with shadows := s.shadows.map fun h =>
      if h.tid = tid && h.gi = gi then { h with g := { h.g with sold := none } } else h }

/-- The reply of an operation, by its kind. -/
def replyTurn (s : State) (f : Flight) : Host.Outcome State Fault Refusal :=
  if f.isRemote then .next s
  else
    match f.kind with
    | .load => eventTurn s .loadReply { a := f.id }
    | .store => eventTurn s .storeAcknowledgement { a := f.id }
    | .xform => eventTurn s .transformPipeReply { a := f.id }

/-- Whether a split's next word waits for a reply (R68). -/
def nextWaits (s : State) (tid gi rank : Nat) : Bool :=
  match exAt s tid gi rank with
  | some e =>
    (match fetchAt s e.tm.core e.lch.ctx e.x.pc with
     | .word w => (match decode w with | some i => mustWait s e i | none => false)
     | _ => false)
  | none => false

/-- What the splits of a group do in a cycle, the one of higher id after the others, so that its writes of scalars stand (R68):
the replies to each, then its word, unless a reply of the same cycle is what it waited for. -/
def cycleWords (tid gi : Nat) (replies : List Nat) : List Nat → State → Host.Outcome State Fault Refusal
  | [], s => .next s
  | rank :: rs, s =>
    let back := s.mem.flights.filter fun f => f.tid = tid && f.gi = gi && f.rank = rank && replies.contains f.id
    let land := back.foldl (fun (r : Host.Outcome State Fault Refusal) f =>
      match r with | .next s => mirrored (fun s => replyTurn s f) s | r => r) (.next s)
    let waits := back ≠ [] && nextWaits s tid gi rank
    match land with
    | .next s =>
      (match if waits then .next s else splitTurn s tid gi rank with
       | .next s => cycleWords tid gi replies rs { s with cur := .nobody }
       | r => r)
    | r => r

/-- Words of splits of one group in one cycle, with replies to its splits (R68, R175, R226, R317). Words that no one cycle can hold do
not issue. -/
def cycleTurn (s : State) (tid gi : Nat) (ranks replies : List Nat) : Host.Outcome State Fault Refusal :=
  let es := sortBy (fun e : Ex => e.x.id.toNat) (ranks.dedup.filterMap (exAt s tid gi))
  if !unitsFit (es.map (nextUnit s)) then .next s
  else
    match cycleWords tid gi replies (es.map fun e => e.x.rank) (openCycle s tid gi) with
    | .next s => .next (closeCycle s tid gi)
    | r => r

/-! ## What comes about outside -/

/-- A correction is counted (R419, R461), and in a core's store for that core too (R432). -/
def corrected (s : State) (core : Option Nat) : State :=
  updDev s fun d =>
    { d with
      corrRun := min 0xFFFFFFFF (d.corrRun + 1)
      sramCorr := match core with | some c => mapSet 0 d.sramCorr c (mapGet 0 d.sramCorr c + 1) | none => d.sramCorr }

/-- The words of a granule of a staged line become 0 tagged POISON (R419). -/
def poisonStaged (launch gr : Nat) (g : Staged) : Staged :=
  if g.launch = launch && g.line = gr / 2 then
    { g with words := g.words.zipIdx.map fun c => if c.2 / 8 = gr % 2 then (0#32, poison) else c.1 }
  else g

/-- An error strikes, one that can be corrected or one that cannot (R419). In DRAM it is found when the granule is read (R44, R92). In
a staged line, an L2 sector or an L1 word it is found at once (DESIGN CHOICE, log entry 48): a clean sector or a word that is not
owned goes and is fetched again, a dirty sector's words and an owned word become 0 tagged POISON. -/
def damage (s : State) (hit : Struck) (soft : Bool) : State :=
  match hit with
  | .dram gr =>
    if !inRegion s (gr * 32) then s
    else updMem s fun m => if soft then { m with soft := gr :: m.soft } else { m with uncorr := gr :: m.uncorr }
  | .staged l gr =>
    if (stagedLine s.mem l (gr / 2)).isNone then s
    else if soft then corrected (updMem s fun m => { m with eccCorr := bump m.eccCorr (stackOf (gr * 32)) 1 }) none
    else
      updMem s fun m =>
        { m with eccUncorr := bump m.eccUncorr (stackOf (gr * 32)) 1, staged := m.staged.map (poisonStaged l gr) }
  | .sector sec =>
    match s.mem.l2.find? fun e => e.1 = sec with
    | none => s
    | some e =>
      if soft then corrected s none
      else if e.2 then
        setWordTags (updMem s fun m => { m with bytes := writeBytes m.bytes (sec * 32) (List.replicate 32 0#8) }) (sec / 2)
          ((upTo 8).map fun w => (sec % 2 * 8 + w, poison))
      else dropSector s sec
  | .l1 core pa =>
    let w := l1Get s.mem core pa
    if !w.valid then s
    else if soft then corrected s (some core)
    else if w.owned then
      writeBack (updMem s fun m => l1Set m core pa { w with val := 0#32, tag := poison }) core (pa / 64)
    else updMem s fun m => l1Set m core pa {}

/-- One turn taken. -/
def takeTurn (t : Turn) (s : State) : Host.Outcome State Fault Refusal :=
  match t with
  | .event i arg => mirrored (fun s => eventTurn s i arg) s
  | .split tid gi rank => splitTurn s tid gi rank
  | .cycle tid gi ranks replies => cycleTurn s tid gi ranks replies
  | .stream tid => mirrored (fun s => streamTurn s tid) s
  | .damage hit soft => .next (damage s hit soft)
  | .upset shadow tid gi code lane v => .next (upset s shadow tid gi code lane v)
  | .credit port vc => .next (linkCredit s port vc)

/-- The model's own fields after a turn: nobody executes, no event supplies anything, and teams that have come to be parked are
noted (R359). -/
def endTurn (r : Host.Outcome State Fault Refusal) : Host.Outcome State Fault Refusal :=
  match r with
  | .next s => .next (noteParked { s with cur := .nobody, arg := {} })
  | .fault f => .fault f
  | .refused f => .refused f

/-- One turn. -/
def runTurn (t : Turn) (s : State) : Host.Outcome State Fault Refusal := endTurn (takeTurn t s)

end Sys2Proof.Machine
end

