-- ==== Sys2Proof/Machine/Turns.lean ====
section
/-! DEFINITION. Which turns the machine can take by itself (log entry 1): the words of splits and streams, and the
events that need nothing from outside. An event that is not enabled changes nothing. -/

namespace Sys2Proof.Machine

/-- An event turn with up to three numbers. -/
def ev (i : Instr) (a : Nat := 0) (b : Nat := 0) (c : Nat := 0) : Turn := .event i { a := a, b := b, c := c }

/-- Turns of the splits that may issue. -/
def splitTurns (s : State) : List Turn :=
  s.splits.filterMap fun x =>
    match exAt s x.tid x.gi x.rank with
    | some e => if mayIssue s e then some (.split x.tid x.gi x.rank) else none
    | none => none

/-- Turns of the sequencers that may issue. -/
def streamTurns (s : State) : List Turn :=
  s.teams.filterMap fun t =>
    match sxOf s t.tid with
    | some x => if mayStream s x then some (.stream t.tid) else none
    | none => none

/-- Replies, walks and re-checks of the memory system. -/
def memoryTurns (s : State) : List Turn :=
  (s.mem.flights.filterMap fun f =>
    match f.kind with
    | .xform => some (ev .transformPipeReply f.id)
    | .load => if f.isRemote then none else some (ev .loadReply f.id)
    | .store => if f.isRemote then none else some (ev .storeAcknowledgement f.id)) ++
  (s.mem.walks.map fun w => ev .walkCompletion w.id)

/-- The completion event of a granted operation. -/
def matTurn (t : Team) : List Turn :=
  match t.posted with
  | [] => []
  | p :: _ =>
    let a := t.tid
    match p.op with
    | .mldw _ => [ev .arbiterGrant a, ev .mldwCompletion a]
    | .mswap => [ev .arbiterGrant a, ev .mswapExchange a]
    | .mma .. => [ev .arbiterGrant a, ev .passCompletion a]
    | .mzero _ => [ev .arbiterGrant a, ev .mzeroCompletion a]
    | .mdrain .. => [ev .arbiterGrant a, ev .drainCompletion a]

/-- The chunks of a command that may move or issue: those whose requests are out, and the one begun, or else the next. -/
def openChunks (c : Cmd) : List Nat :=
  c.out ++
  (if c.begun ≠ [] then c.begun.map fun b => b.1
   else (firstIdx c.chunks fun k => !c.done.contains k && !c.sent.contains k && !c.out.contains k).toList)

/-- Turns of a team's engines, barriers and matrix operations, and its deadline while it drains (R362). -/
def teamTurns (t : Team) : List Turn :=
  (if t.queue = [] then [] else [ev .commandToEngine t.tid, ev .engineStalemate t.tid]) ++
  (t.running.flatMap fun c => (openChunks c).map fun k => ev .chunkDelivery t.tid c.csn k) ++
  (if t.drain then [ev .drainDeadline t.tid] else []) ++
  ((upTo t.heldArr.length).map fun k => ev .heldArrival t.tid k) ++
  matTurn t ++
  (if t.seqFault.isSome then [ev .streamFaultDelivery t.tid] else [])

/-- Turns of a group: its stalemate, its migration and its packets. -/
def groupTurns (g : Group) : List Turn :=
  (if g.joins.all fun j => j = [] then [] else [ev .splitStalemate g.tid g.gi]) ++
  (if g.regroup = .migrating then (upTo 16).map fun b => ev .regroupMigration g.tid b else []) ++
  (if 256 ≤ g.packets then [ev .syncPeriodic g.tid g.gi] else [])

/-- The turn of the command at a ring's HEAD, and of its mapping (R348, R349). -/
def ringTurns (s : State) (q : Ring) : List Turn :=
  (if wantsSlot s q then [ev .ringMapping q.idx] else []) ++
  match ringAt s q.idx with
  | .idle => []
  | .cmd _ _ (.launch _) => [ev .ringLaunch q.idx]
  | .cmd _ _ (.node ..) => [ev .ringNode q.idx]
  | .cmd _ _ (.wait ..) => [ev .ringWait q.idx]
  | .cmd _ _ (.signal ..) => [ev .ringSignal q.idx]
  | .cmd _ _ .fence => [ev .ringFence q.idx]
  | .waits _ => [ev .ringFence q.idx]
  | .dead => [ev .ringFence q.idx]

/-- The turns of a launch: its rollback, or its dispatch, commit and completion (R353, R356, R422). -/
def launchTurns (s : State) (l : Launch) : List Turn :=
  if l.complete then []
  else if l.rollback.isSome then [ev .nodeRollback l.id]
  else
    (if dispatchable s l && itsTurn s l then
      (if l.coop then [ev .teamDispatch l.id] else
        ((upTo 192).filter fun c => (spotsAt s l c).isSome).map fun c => ev .teamDispatch l.id c)
     else []) ++ [ev .nodeCommit l.id, ev .launchCompletion l.id, ev .dispatchStarvation l.id, ev .gridRuleSave l.id]

/-- The cores of a launch's partition, or all of them. -/
def launchCores (s : State) (l : Launch) : List Nat :=
  match l.contract.bind (findContract s) with
  | some c => (upTo 192).filter fun k => (partMask s c.part).getLsbD k
  | none => upTo 192

/-- The pre-emption requests that a launch without room raises (R358, R361): for the teams of lower classes on the cores that it may
use. A released launch's have the deadline Lp (R355); another deadline and the cycles that a team has been resident are free
values. -/
def requestTurns (s : State) (l : Launch) : List Turn :=
  if !wantsCore s l || !itsTurn s l || nextFits s l then []
  else
    let deadline := match l.contract.bind (findContract s) with
      | some c => 3200 + (Config.smax c.part).toNat / 256
      | none => (Config.freeValue s.fresh).toNat
    (s.teams.filter fun t => !t.retired && !t.stopping && (launchCores s l).contains t.core &&
      (match findLaunch s t.launch with | some k => classRank l < classRank k | none => false)).map fun t =>
        ev .preemptionRequest t.tid deadline (Config.freeValue (s.fresh + 1)).toNat

/-- The fencing of a core or a quad that is under way (R432). -/
def fencingTurns (s : State) : List Turn := s.dev.fencing.map fun u => .event .unitFencing { a := u.1, yes := u.2 }

/-- The turns of an image: the cores where its team fits (R366). -/
def imageTurns (s : State) (m : Image) : List Turn :=
  match findLaunch s m.team.launch with
  | none => []
  | some l =>
    if mayRestore s l && nextImage s l m then ((upTo 192).filter fun c => (fitsOn s l c).isSome).map fun c => ev .teamRestore m.id c else []

/-- Words read again because no monitor watches them (R101, R106). -/
def recheckTurns (s : State) : List Turn :=
  s.mem.rechecks.map fun q =>
    match q.waiter with
    | .split tid gi rank => ev .monitorRecheck tid gi rank
    | .ring r => .event .monitorRecheck { a := r, yes := true }

/-- The steps of collectives. -/
def collTurns (s : State) : List Turn :=
  s.colls.flatMap fun c => match collAt s c.id with
    | some x => x.steps_.map fun k => ev .chunkStep c.id k
    | none => []

/-- The windows of the regulators in which a unit has moved lines, or after which it uses new words (R122, R454). -/
def windowTurns (s : State) : List Turn :=
  let used := s.dev.used.map fun u => u.1 / 130
  let spent := s.dev.buckets.map fun b => b.1 / 130
  let news := s.ctxs.flatMap fun c => c.oldRegs.map fun e => e.1
  (used ++ spent ++ news).dedup.map fun u => ev .regulatorWindow u

/-- The command that a request names (R452, R455). -/
def commandOf (r : List Byte) : Instr :=
  let kind := reqNum r 8 1
  match reqNum r 0 1 with
  | 0x1 => .createContext
  | 0x2 => .destroyContext
  | 0x3 => .createRing
  | 0x4 => .createComm
  | 0x5 => .invalidate
  | 0x6 => .checkpoint
  | 0x7 => if kind = 1 then .resetRing else if kind = 2 then .resetDumpArea else if kind = 3 then .resetTraceRing else .resetContext
  | 0x8 => .admitContract
  | 0x9 => .readCounters
  | 0xA => .definePartition
  | 0xB => .updateContext
  | 0xC => .writeWatchpoint
  | 0xD => if kind = 1 then .releaseComm else if kind = 2 then .releaseContract else .releaseRing
  | 0xE => .restore
  | _ => .mailboxUnknownCommand

/-- The command in the mailbox, while busy: Keeper takes it up, or goes on with it (R452). -/
def commandTurns (s : State) : List Turn := if s.dev.busy then [ev (commandOf (areaBytes s.dev.request))] else []

/-- Every turn the machine can take by itself. -/
def ownTurns (s : State) : List Turn :=
  splitTurns s ++ streamTurns s ++ memoryTurns s ++ s.teams.flatMap teamTurns ++ s.groups.flatMap groupTurns ++
  (s.splits.filterMap fun x => if 64 ≤ x.brBits.length then some (ev .branchFlush x.tid x.gi x.rank) else none) ++
  collTurns s ++ windowTurns s ++ fencingTurns s ++ s.launches.flatMap (requestTurns s) ++
  (s.ctxs.filterMap fun c => match c.fault with
    | some f => if f.served then none else some (ev .contextFault c.num)
    | none => none) ++
  (s.teams.filterMap fun t => if t.stopping && !t.retired then some (ev .save t.tid) else none) ++
  s.rings.flatMap (ringTurns s) ++ s.launches.flatMap (launchTurns s) ++ s.images.flatMap (imageTurns s) ++
  recheckTurns s ++ commandTurns s

/-- The splits of a group that a mask of their ranks names. -/
def ranksOf (s : State) (tid gi mask : Nat) : List Nat :=
  ((splitsOf s tid gi).map fun x => x.rank).filter fun r => mask.testBit r

/-- A turn in which splits of the group issue in one cycle, with replies to them, in place of the turn of one split: which is a free
choice (R317, R360). -/
def together (s : State) (t : Turn) : Turn × State :=
  match t with
  | .split tid gi rank =>
    if (splitsOf s tid gi).length < 2 then (t, s)
    else
      let (m, s) := freeChoice s (2 ^ 64)
      let (r, s) := freeChoice s (2 ^ 64)
      let replies := (((s.mem.flights.filter fun f => f.tid = tid && f.gi = gi && !f.isRemote).map fun f => f.id).zipIdx.filter
        fun f => r.testBit f.2).map fun f => f.1
      (.cycle tid gi (rank :: ranksOf s tid gi m) replies, s)
  | t => (t, s)

/-- The turn taken when nothing on the agenda says who moves: bring-up till READY (R446), else a free choice among the turns the
machine can take. -/
def nextTurn (s : State) : Option Turn × State :=
  if !s.dev.ready && !s.dev.err then (some (.event .powerGood { a := 1024 }), s)
  else
    let l := ownTurns s
    let (k, s) := freeChoice { s with fresh := s.fresh + 2 } l.length
    match l[k]? with
    | some t => let r := together s t; (some r.1, r.2)
    | none => (none, s)

end Sys2Proof.Machine
end

