-- ==== Sys2Proof/Machine/Step.lean ====
section
/-! DEFINITION. One step of the machine: the turn at the head of the agenda, or the one the machine takes by itself
(log entry 1); a word is fetched, decoded and executed. -/

namespace Sys2Proof.Machine

/-- One step: the clock advances and one turn is taken. -/
def step (s : State) : Host.Outcome State Fault Refusal :=
  let s := { s with clock := s.clock + 1 }
  match s.agenda with
  | t :: ts => runTurn t { s with agenda := ts }
  | [] =>
    match nextTurn s with
    | (some t, s) => runTurn t s
    | (none, s) => .next s

/-! ## Placing a word for the host -/

/-- Where the host's word lies: virtual page 0x10000, physical page 0x20000. -/
def hostPc : DWord := 0x10000#64

/-- The leaf that maps the host's page: valid, readable, writable, executable, HBM4E (R110). -/
def hostLeaf : DWord := 0x2001F#64

/-- The launch, team and places of the host's word. -/
def hostLaunch : Launch :=
  { id := 0, ctx := 0, code := hostPc, hdr := { regs := 192, scalars := 48, width := 8, splits := 16 }, begun := true }

/-- The places of the host's group. -/
def hostPlace : Taken := ⟨0, 0, 0, 2, 192, upTo 16⟩

/-- The machine with a launch of one team, one group of eight lanes and one split, ready at the host's word, and a turn for
it at the head of the agenda; a stream word gets a running sequencer (log entry 10). -/
def State.withFetchWord (s : State) (_nbits w : Nat) : State :=
  let op := w / 2 ^ 24 % 256
  let isStream := 0xE0 ≤ op && op ≤ 0xEE
  { s with
    dev := { s.dev with ready := true, step := 6 }
    mem := { s.mem with
      bytes := writeBytes s.mem.bytes 0x20000 (bytesOf 4 w)
      tlb := [{ core := some 0, die := 0, ctx := 0, page := 1, leaf := hostLeaf, level := 3 }] }
    ctxs := [{ num := 0, root := 0x30000#64 }]
    launches := [hostLaunch]
    teams := [{ newTeam hostLaunch 0 0 0 with seqState := if isStream then .running else .idle, seqPc := hostPc }]
    groups := [newGroup hostLaunch 0 0 0 (hostPlace, none)]
    splits := [newSplit hostLaunch 0 0 hostPlace]
    shadows := []
    agenda := (if isStream then Turn.stream 0 else Turn.split 0 0 0) :: s.agenda
    nextId := s.nextId + 1 }

end Sys2Proof.Machine
end

