-- ==== Sys2Proof/Safety.lean ====
section
/-! DEFINITION. What counts as a sound state and a safe run, in the terms the claims use: the canonical form of every map
and of memory, the legal values of fields that the manual bounds, and a run that never stops. -/

namespace Sys2Proof.Machine

/-- Memory in canonical form: addresses strictly rising, no byte listed that reads as an unlisted one does. -/
def memWf (m : Mem) : Bool := memoryWf m.bytes && memoryWf m.hostMem

/-- The device's own fields within what R446, R447, R450 and R461 give them: READY at STEP 6 alone, ERR with a nonzero ECODE
below STEP 6, ENABLE within CAPS and CORR in 32 bits. -/
def devOk (d : Dev) : Prop :=
  (d.ready = true → d.step = 6 ∧ d.err = false) ∧ (d.err = true → d.ecode ≠ 0 ∧ d.step < 6) ∧
  d.enable &&& ~~~d.caps = 0#5 ∧ d.corr < 2 ^ 32

/-- A machine that goes on: the step answers a next state. -/
def runsOn (s : State) : Prop := ∃ t, step s = .next t

/-- n steps of the machine, stopping at a fault or refusal. -/
def runFor (n : Nat) (s : State) : Host.Outcome State Fault Refusal := Sys2Proof.core.run n s

/-! ## Words that run (the vocabulary of the claims) -/

/-- No watchpoint of a core is enabled (R439). -/
def watchesOff (s : State) (core : Nat) : Bool :=
  (upTo 8).all fun k => (mapGet ({} : Watch) s.dev.watches (core * 8 + k)).field 57 54 = 0

/-- A context that is there and has no trace ring (R434, R437). -/
def traceOff (s : State) (ctx : Nat) : Bool :=
  match findCtx s ctx with
  | some c => c.trace = 0#64
  | none => false

/-- No word of any team's LS has an older value that a split may still read (R371; log entry 19). -/
def lsSettled (s : State) : Bool := s.teams.all fun t => t.lsOld = []

/-- Nothing keeps a split from running word i with its own effect: it may issue, no pending reply stalls it (R68), the word's
encoding is legal where it stands (R72), no handler restriction (R402) and no arithmetic report (R398) comes first, and
neither a watchpoint (R439) nor a trace (R437) looks on. No other word of its group issues in the same cycle (R68), and no
word of LS has an older value to be read (R371). -/
def runs (s : State) (e : Ex) (i : Instr) : Bool :=
  mayIssue s e && !mustWait s e i &&
  (encodingCause e.lch.hdr false (inHandler e) false e.x.imm e.x.mod e.x.hint (wordOf i) i).isNone &&
  !(inHandler e && handlerForbids i) && !(reportPoint i && !inHandler e && unreported e ≠ []) &&
  traceOff s e.lch.ctx && watchesOff s e.tm.core && e.x.brBits.length < 64 &&
  e.g.sold.isNone && e.g.ruleOld.isNone && lsSettled s

/-- The same of a matrix stream whose sequencer has the turn (R245, R259). -/
def streamRuns (s : State) (x : Sx) (i : Instr) : Bool :=
  mayStream s x && !x.tm.seqSkip &&
  (encodingCause x.lch.hdr true false false x.tm.seqImm x.tm.seqMod x.tm.seqHint (wordOf i) i).isNone

/-- No capture record can come of a word (R33, R35): its context has no capture ring, or its launch enables no cause. -/
def captureOff (s : State) (e : Ex) : Bool := !hasRing s e.lch.ctx || e.lch.hdr.capture = 0#16

/-- The frame of a word that a split runs: from s to t nothing changes but the split e.x, its group, its team, and the model's own
notes of a word. e' is what the split sees afterwards. -/
def onlySplit (s t : State) (e e' : Ex) : Prop :=
  exOf t = some e' ∧ e'.lch = e.lch ∧
  t = { s with teams := t.teams, groups := t.groups, splits := t.splits, fx := [], devFail := none } ∧
  (∀ tid, tid ≠ e.x.tid → findTeam t tid = findTeam s tid) ∧
  (∀ tid gi, ¬(tid = e.x.tid ∧ gi = e.x.gi) → findGroup t tid gi = findGroup s tid gi) ∧
  (∀ tid gi rank, ¬(tid = e.x.tid ∧ gi = e.x.gi ∧ rank = e.x.rank) →
    findSplit t tid gi rank = findSplit s tid gi rank)

/-- A split after a word that completes at pc: its prefix latch is consumed (R66). -/
def retired (x : Split) (pc : DWord) : Split := { x with pc := pc, imm := 0#32, mod := 0#32, hint := 0#32 }

/-- A team one word later (R362). -/
def counted (t : Team) : Team := { t with retWords := t.retWords + 1 }

/-- A word of a split that completes at PC + 4 and changes, beside that, its group alone. -/
def groupOnly (s t : State) (e e' : Ex) : Prop :=
  onlySplit s t e e' ∧ e'.x = retired e.x (e.x.pc + 4#64) ∧ e'.tm = counted e.tm

end Sys2Proof.Machine
end

