-- ==== Sys2Proof/WellFormed.lean ====
section
/-! DEFINITION. Which terms of Instr stand for a step of the machine: every field that its encoding holds may take every
value of its width, but for two rows whose opcode depends on the field. -/

namespace Sys2Proof

/-- The opcodes that R69 reserves, and 0x00 (R72). -/
def reservedCode (op : Nat) : Bool :=
  op = 0 || [0x58, 0x86, 0x87, 0x9F, 0xEF].contains op || (0x0A ≤ op && op ≤ 0x0F) || (0xCA ≤ op && op ≤ 0xCF) ||
  (0xD9 ≤ op && op ≤ 0xDF) || 0xF7 ≤ op

/-- Well-formed instructions: VSEL.PK names a predicate other than p0, whose opcode 0x58 is reserved (R184), and
RESERVED_OPCODE's word has a reserved opcode (R72). -/
def Instr.wellFormed (i : Instr) : Bool :=
  match i with
  | .vselPk p _ _ _ => p ≠ 0#3
  | .reservedOpcode w => reservedCode (w.toNat / 2 ^ 24)
  | _ => true

end Sys2Proof
end

