-- ==== Sys2Proof/Certificates/Slice0/Obligations.lean ====
section
/-! DEFINITION. The statements for the provers, one obligation per definition, spread over every family of the opcode table and every
kind of state, and the vocabulary they use (in the namespace Sys2Proof.Claims): most of it writes a rule's result out a second time,
so that a statement compares the meaning with the rule. -/

open Sys2Proof Sys2Proof.Machine

namespace Sys2Proof.Claims
open Sys2Proof.Machine

/-! ## Integer words (R176 to R182) -/

/-- The word whose bit j is f j. -/
def wordOfBits (f : Nat → Bool) : Word :=
  (List.range 32).foldl (fun w j => if f j then w ||| (1#32 <<< j) else w) 0#32

/-- R179's field of a BFE or BFI: its position and its length. -/
def fieldPos (b : Word) : Nat := b.toNat % 32
def fieldLen (b : Word) : Nat := min (min (b.toNat / 256 % 64) 32) (32 - fieldPos b)

/-- R179: the field at bit 0, its top bit repeated above it where b[16] is set. -/
def fieldExtract (a b : Word) : Word :=
  wordOfBits fun j =>
    if j < fieldLen b then a.getLsbD (fieldPos b + j)
    else fieldLen b ≠ 0 && b.getLsbD 16 && a.getLsbD (fieldPos b + fieldLen b - 1)

/-- R179: d with the field replaced by the low bits of a. -/
def fieldInsert (a b d : Word) : Word :=
  wordOfBits fun j =>
    if fieldPos b ≤ j ∧ j < fieldPos b + fieldLen b then a.getLsbD (j - fieldPos b) else d.getLsbD j

/-- Bit j of byte n of the eight bytes of R180: 0 to 3 of a, 4 to 7 of the old d. -/
def byteBit (a d : Word) (n j : Nat) : Bool := if n < 4 then a.getLsbD (8 * n + j) else d.getLsbD (8 * (n - 4) + j)

/-- R180: nibble k of b picks a source byte, or bit 7 of it eight times. -/
def bytePermute (a b d : Word) : Word :=
  wordOfBits fun j =>
    let n := b.toNat / 16 ^ (j / 8) % 16
    if n < 8 then byteBit a d n (j % 8) else byteBit a d (n - 8) 7

/-- I32 of an integer, saturated (R177). -/
def clampI32 (z : Int) : Word := BitVec.ofInt 32 (max (-2147483648) (min 2147483647 z))

/-- The destination and sources of the scalar words of R177. -/
def scalarOperands (i : Instr) : Option (BitVec 8 × BitVec 8 × Option (BitVec 8)) :=
  match i with
  | .sadd d a b | .ssub d a b | .smul d a b | .smulhu d a b | .sand d a b | .sor d a b | .sxor d a b | .sshl d a b
  | .sshr d a b | .ssra d a b | .smin d a b | .smax d a b | .sminu d a b | .smaxu d a b | .sbfe d a b | .sdivu d a b
  | .sremu d a b => some (d, a, some b)
  | .spopc d a | .sffs d a => some (d, a, none)
  | _ => none

/-- R177's result of a scalar word for its source words x and y. -/
def scalarResult (i : Instr) (x y : Word) : Word :=
  match i with
  | .sadd .. => BitVec.ofInt 32 (x.toInt + y.toInt)
  | .ssub .. => BitVec.ofInt 32 (x.toInt - y.toInt)
  | .smul .. => BitVec.ofInt 32 (x.toInt * y.toInt)
  | .smulhu .. => BitVec.ofNat 32 (x.toNat * y.toNat / 2 ^ 32)
  | .sand .. => wordOfBits fun j => x.getLsbD j && y.getLsbD j
  | .sor .. => wordOfBits fun j => x.getLsbD j || y.getLsbD j
  | .sxor .. => wordOfBits fun j => x.getLsbD j != y.getLsbD j
  | .sshl .. => wordOfBits fun j => y.toNat ≤ j && x.getLsbD (j - y.toNat)
  | .sshr .. => wordOfBits fun j => x.getLsbD (j + y.toNat)
  | .ssra .. => wordOfBits fun j => x.getLsbD (min 31 (j + y.toNat))
  | .smin .. => BitVec.ofInt 32 (min x.toInt y.toInt)
  | .smax .. => BitVec.ofInt 32 (max x.toInt y.toInt)
  | .sminu .. => BitVec.ofNat 32 (min x.toNat y.toNat)
  | .smaxu .. => BitVec.ofNat 32 (max x.toNat y.toNat)
  | .sbfe .. => fieldExtract x y
  | .sdivu .. => if y = 0#32 then 0xFFFFFFFF#32 else BitVec.ofNat 32 (x.toNat / y.toNat)
  | .sremu .. => if y = 0#32 then x else BitVec.ofNat 32 (x.toNat % y.toNat)
  | .spopc .. => BitVec.ofNat 32 ((List.range 32).countP fun j => x.getLsbD j)
  | .sffs .. => BitVec.ofNat 32 ((List.range 32).findIdx fun j => x.getLsbD j)
  | _ => 0#32

/-- Whether a scalar word records a divide-by-zero (R178). -/
def dividesByZero (i : Instr) (y : Word) : Bool :=
  match i with
  | .sdivu .. | .sremu .. => y = 0#32
  | _ => false

/-- The destination and sources of the vector words of R177 and R180, and whether the old d is the last source. -/
def vectorOperands (i : Instr) : Option (BitVec 8 × BitVec 8 × Option (BitVec 8) × Bool) :=
  match i with
  | .vadd d a b | .vsub d a b | .vmul d a b | .vmulhi d a b | .vmulhu d a b | .vand d a b | .vor d a b | .vxor d a b
  | .vshl d a b | .vshr d a b | .vsra d a b | .vmin d a b | .vmax d a b | .vminu d a b | .vmaxu d a b | .vabsd d a b
  | .vadds d a b | .vsubs d a b | .vbfe d a b => some (d, a, some b, false)
  | .vmad d a b | .vbfi d a b | .vprmt d a b => some (d, a, some b, true)
  | .vpopc d a | .vclz d a | .vbrev d a | .vmov d a => some (d, a, none, false)
  | _ => none

/-- R177's and R180's result of a vector word for source words x and y and the old d. -/
def vectorResult (i : Instr) (x y d : Word) : Word :=
  match i with
  | .vadd .. => BitVec.ofInt 32 (x.toInt + y.toInt)
  | .vsub .. => BitVec.ofInt 32 (x.toInt - y.toInt)
  | .vmul .. => BitVec.ofInt 32 (x.toInt * y.toInt)
  | .vmulhi .. => BitVec.ofInt 32 (x.toInt * y.toInt / 2 ^ 32)
  | .vmulhu .. => BitVec.ofNat 32 (x.toNat * y.toNat / 2 ^ 32)
  | .vmad .. => BitVec.ofInt 32 (x.toInt * y.toInt + d.toInt)
  | .vand .. => wordOfBits fun j => x.getLsbD j && y.getLsbD j
  | .vor .. => wordOfBits fun j => x.getLsbD j || y.getLsbD j
  | .vxor .. => wordOfBits fun j => x.getLsbD j != y.getLsbD j
  | .vshl .. => wordOfBits fun j => y.toNat ≤ j && x.getLsbD (j - y.toNat)
  | .vshr .. => wordOfBits fun j => x.getLsbD (j + y.toNat)
  | .vsra .. => wordOfBits fun j => x.getLsbD (min 31 (j + y.toNat))
  | .vmin .. => BitVec.ofInt 32 (min x.toInt y.toInt)
  | .vmax .. => BitVec.ofInt 32 (max x.toInt y.toInt)
  | .vminu .. => BitVec.ofNat 32 (min x.toNat y.toNat)
  | .vmaxu .. => BitVec.ofNat 32 (max x.toNat y.toNat)
  | .vabsd .. => BitVec.ofNat 32 (x.toInt - y.toInt).natAbs
  | .vadds .. => clampI32 (x.toInt + y.toInt)
  | .vsubs .. => clampI32 (x.toInt - y.toInt)
  | .vbfe .. => fieldExtract x y
  | .vbfi .. => fieldInsert x y d
  | .vprmt .. => bytePermute x y d
  | .vpopc .. => BitVec.ofNat 32 ((List.range 32).countP fun j => x.getLsbD j)
  | .vclz .. => BitVec.ofNat 32 ((List.range 32).findIdx fun j => x.getLsbD (31 - j))
  | .vbrev .. => wordOfBits fun j => x.getLsbD (31 - j)
  | .vmov .. => x
  | _ => 0#32

/-- Whether a lane of VADDS or VSUBS saturates (R178). -/
def saturates (i : Instr) (x y : Word) : Bool :=
  match i with
  | .vadds .. => x.toInt + y.toInt > 2147483647 || x.toInt + y.toInt < -2147483648
  | .vsubs .. => x.toInt - y.toInt > 2147483647 || x.toInt - y.toInt < -2147483648
  | _ => false

/-- The class default of a vector word's tag: CARRY-A for VMOV, else PRODUCE (R178). -/
def vectorClass (i : Instr) : TagClass :=
  match i with
  | .vmov .. => .carryA
  | _ => .produce

/-- A group whose scalars change at most in the places ks. -/
def scalarsBut (g g' : Group) (ks : List Nat) : Prop := ∀ k, k ∉ ks → sreg g' k = sreg g k

/-- A group whose vector cells change at most in the registers rs and the lanes ls. -/
def vectorsBut (g g' : Group) (rs ls : List Nat) : Prop :=
  ∀ r i, i < 64 → ¬(r ∈ rs ∧ i ∈ ls) → vreg g' r i = vreg g r i

/-- Destination code d takes n registers with the cells f: a scalar code once, a vector code in every active lane; nothing else of
the group changes. -/
def registersOnly (e e' : Ex) (d n : Nat) (f : Nat → Nat → Cell) : Prop :=
  if d < 0xC0 then
    e'.g = { e.g with vregs := e'.g.vregs } ∧ (∀ k, k < n → ∀ j ∈ e.lanes, vreg e'.g (d + k) j = f k j) ∧
      vectorsBut e.g e'.g ((List.range n).map fun k => d + k) e.lanes
  else
    e'.g = { e.g with sregs := e'.g.sregs } ∧ (∀ k, k < n → sreg e'.g (d - 0xC0 + k) = f k 0) ∧
      scalarsBut e.g e'.g ((List.range n).map fun k => d - 0xC0 + k)

/-- The two status bits of an event: the sticky bit and its UNREP bit (R395, R396). -/
def sticky (b : Word) : Word := b ||| (b <<< 8)

/-- The lane's dice state after a draw for each of its sources that is %dice, and the value a second draw gives. -/
def diceAfter (e : Ex) (i : Nat) (codes : List (BitVec 8)) : Word :=
  (codes.filter fun c => c = 0xF7#8).foldl (fun x _ => diceStep x) (diceOf e.g i)

end Sys2Proof.Claims

open Sys2Proof.Claims

/-- R177, R178, R179 and the frame of a scalar integer word: it completes with R177's result in S(d), tagged by the rule over its
sources (R37), records a divide-by-zero of SDIVU and SREMU in every active lane, and changes nothing else. -/
def Obligations.ScalarIntegerWord : Prop :=
  ∀ s e i d a b, exOf s = some e → runs s e i = true → scalarOperands i = some (d, a, b) →
    let x := operand e .int a.toNat 0 0#32
    let y := b.map fun b => operand e .int b.toNat 0 0#32
    let yw := (y.map fun c => c.1).getD 0#32
    ∃ t e', exec i s = .next t ∧ groupOnly s t e e' ∧
      e'.g = { e.g with sregs := e'.g.sregs, lstat := e'.g.lstat } ∧
      sreg e'.g (d.toNat - 0xC0) = (scalarResult i x.1 yw,
        ruleTag (ruleOf e) .produce (own e) (x.2 :: (y.map fun c => c.2).toList) x.2 ((y.map fun c => c.2).getD 0#16)
          (sreg e.g (d.toNat - 0xC0)).2) ∧
      scalarsBut e.g e'.g [d.toNat - 0xC0] ∧
      ∀ j, lstatOf e'.g j = if j ∈ e.lanes ∧ dividesByZero i yw = true then lstatOf e.g j ||| sticky 0x02#32 else lstatOf e.g j

/-- R177, R178, R180 and the frame of a vector integer word: in each active lane V(d,i) takes R177's result and the rule's tag, a
lane of VADDS or VSUBS that saturates records it, a %dice source draws once per lane, and nothing else changes. -/
def Obligations.VectorIntegerWord : Prop :=
  ∀ s e i d a b u, exOf s = some e → runs s e i = true → vectorOperands i = some (d, a, b, u) →
    let q := fun j => lanePair e .int .int a.toNat ((b.map fun c => c.toNat).getD 0xF0) j
    let c := fun j => vreg e.g d.toNat j
    ∃ t e', exec i s = .next t ∧ groupOnly s t e e' ∧
      e'.g = { e.g with vregs := e'.g.vregs, lstat := e'.g.lstat, dice := e'.g.dice } ∧
      (∀ j ∈ e.lanes, vreg e'.g d.toNat j = (vectorResult i (q j).1.1 (q j).2.1.1 (c j).1,
        ruleTag (ruleOf e) (vectorClass i) (own e)
          ((q j).1.2 :: (b.map fun _ => (q j).2.1.2).toList ++ (if u then [(c j).2] else [])) (q j).1.2
          ((b.map fun _ => (q j).2.1.2).getD 0#16) (c j).2)) ∧
      vectorsBut e.g e'.g [d.toNat] e.lanes ∧
      (∀ j, lstatOf e'.g j =
        if j ∈ e.lanes ∧ saturates i (q j).1.1 (q j).2.1.1 = true then lstatOf e.g j ||| sticky 0x10#32
        else lstatOf e.g j) ∧
      ∀ j, diceOf e'.g j = if j ∈ e.lanes then diceAfter e j (a :: b.toList) else diceOf e.g j

/-- R181, R182 and the frame of the moves and adds with an immediate, SMOVI, SMOVHI, SADDI, VMOVI and VMOVHI, and of SADDW and VADDW, the
64-bit sum of a pair and a signed 32-bit offset with one tag in both registers. With an IMM prefix the immediate is imm24[15:0] : imm16. -/
def Obligations.ImmediateWords : Prop :=
  (∀ s e i d (n : BitVec 16), exOf s = some e → runs s e i = true →
    i = .smovi d n ∨ i = .smovhi d n ∨ i = .saddi d n →
    let v : Word := if e.x.imm = 0#32 then n.signExtend 32 else BitVec.ofNat 32 (e.x.imm.toNat % 65536 * 65536 + n.toNat)
    let old := sreg e.g (d.toNat - 0xC0)
    ∃ t e', exec i s = .next t ∧ groupOnly s t e e' ∧ e'.g = { e.g with sregs := e'.g.sregs } ∧
      scalarsBut e.g e'.g [d.toNat - 0xC0] ∧
      (i = .smovi d n → sreg e'.g (d.toNat - 0xC0) =
        (v, ruleTag (ruleOf e) .produce (own e) [] 0#16 0#16 old.2)) ∧
      (i = .smovhi d n → sreg e'.g (d.toNat - 0xC0) =
        (BitVec.ofNat 32 (n.toNat * 65536 + old.1.toNat % 65536), ruleTag (ruleOf e) .produce (own e) [old.2] 0#16 0#16 old.2)) ∧
      (i = .saddi d n → sreg e'.g (d.toNat - 0xC0) =
        (BitVec.ofInt 32 (old.1.toInt + v.toInt), ruleTag (ruleOf e) .produce (own e) [old.2] 0#16 0#16 old.2))) ∧
  ((∀ s e i d (n : BitVec 16), exOf s = some e → runs s e i = true → i = .vmovi d n ∨ i = .vmovhi d n →
    let v : Word := if e.x.imm = 0#32 then n.signExtend 32 else BitVec.ofNat 32 (e.x.imm.toNat % 65536 * 65536 + n.toNat)
    ∃ t e', exec i s = .next t ∧ groupOnly s t e e' ∧ e'.g = { e.g with vregs := e'.g.vregs, lstat := e'.g.lstat, dice := e'.g.dice } ∧
      vectorsBut e.g e'.g [d.toNat] e.lanes ∧ (∀ j, lstatOf e'.g j = lstatOf e.g j) ∧ (∀ j, diceOf e'.g j = diceOf e.g j) ∧
      ∀ j ∈ e.lanes, let old := vreg e.g d.toNat j
        (i = .vmovi d n → vreg e'.g d.toNat j = (v, ruleTag (ruleOf e) .produce (own e) [] 0#16 0#16 old.2)) ∧
        (i = .vmovhi d n → vreg e'.g d.toNat j = (BitVec.ofNat 32 (n.toNat * 65536 + old.1.toNat % 65536),
          ruleTag (ruleOf e) .produce (own e) [old.2] 0#16 0#16 old.2))) ∧
  (∀ s e d a b, exOf s = some e → runs s e (.saddw d a b) = true →
    let x := operand64 e false a.toNat 0
    let y := operand e .int b.toNat 0 0#32
    let v := BitVec.ofInt 64 (x.1.toNat + y.1.toInt)
    let g := ruleTag (ruleOf e) .produce (own e) [x.2, y.2] x.2 y.2 (sreg e.g (d.toNat - 0xC0)).2
    ∃ t e', exec (.saddw d a b) s = .next t ∧ groupOnly s t e e' ∧ e'.g = { e.g with sregs := e'.g.sregs } ∧
      sreg e'.g (d.toNat - 0xC0) = (v.extractLsb' 0 32, g) ∧ sreg e'.g (d.toNat - 0xC0 + 1) = (v.extractLsb' 32 32, g) ∧
      scalarsBut e.g e'.g [d.toNat - 0xC0, d.toNat - 0xC0 + 1]) ∧
  (∀ s e d a b, exOf s = some e → runs s e (.vaddw d a b) = true →
    ∃ t e', exec (.vaddw d a b) s = .next t ∧ groupOnly s t e e' ∧
      e'.g = { e.g with vregs := e'.g.vregs, lstat := e'.g.lstat, dice := e'.g.dice } ∧
      vectorsBut e.g e'.g [d.toNat, d.toNat + 1] e.lanes ∧ (∀ j, lstatOf e'.g j = lstatOf e.g j) ∧
      (∀ j, diceOf e'.g j = if j ∈ e.lanes then diceAfter e j [b] else diceOf e.g j) ∧
      ∀ j ∈ e.lanes,
        let x := operand64 e false a.toNat j
        let y := operand e .int b.toNat j (diceAfter e j [b])
        let v := BitVec.ofInt 64 (x.1.toNat + y.1.toInt)
        let g := ruleTag (ruleOf e) .produce (own e) [x.2, y.2] x.2 y.2 (vreg e.g d.toNat j).2
        vreg e'.g d.toNat j = (v.extractLsb' 0 32, g) ∧ vreg e'.g (d.toNat + 1) j = (v.extractLsb' 32 32, g)))

namespace Sys2Proof.Claims
open Sys2Proof.Machine

/-! ## Compares and selects (R59, R183, R184, R198) -/

/-- The fields of a compare word: condition, combine, predicate and sources. -/
def compareFields (i : Instr) : Option (BitVec 3 × BitVec 2 × BitVec 3 × BitVec 8 × BitVec 8) :=
  match i with
  | .vcmp c m p a b | .vcmpu c m p a b | .scmp c m p a b | .fcmp c m p a b | .dcmp c m p a b => some (c, m, p, a, b)
  | _ => none

/-- R59's integer conditions on two numbers. -/
def intCondition (c : BitVec 3) (x y : Int) : Bool :=
  match c.toNat with
  | 0 => x = y | 1 => x ≠ y | 2 => x < y | 3 => x ≤ y | 4 => x > y | 5 => x ≥ y | _ => false

/-- R59's floating-point conditions: with a NaN, NE and UN hold and nothing else does. -/
def floatCondition (c : BitVec 3) (x y : FVal) : Bool :=
  let nan := x.isNaN || y.isNaN
  match c.toNat with
  | 0 => !nan && fcmp x y = .eq
  | 1 => nan || fcmp x y ≠ .eq
  | 2 => !nan && fcmp x y = .lt
  | 3 => !nan && fcmp x y ≠ .gt
  | 4 => !nan && fcmp x y = .gt
  | 5 => !nan && fcmp x y ≠ .lt
  | 6 => nan
  | _ => !nan

/-- The two floating-point operands of a lane of FCMP and DCMP, after FTZ and MOD (R64, R198). -/
def floatOperands (e : Ex) (i : Instr) (a b : BitVec 8) (j : Nat) : FVal × FVal :=
  let md := fpMod e .rne
  match i with
  | .dcmp .. => (modA md (decodeFp .fp64 (operand64 e true a.toNat j).1.toNat), modB md (decodeFp .fp64 (operand64 e true b.toNat j).1.toNat))
  | _ =>
    let q := lanePair e .fp32 .fp32 a.toNat b.toNat j
    (modA md (readFp .fp32 e.lch.ftz q.1.1.toNat), modB md (readFp .fp32 e.lch.ftz q.2.1.1.toNat))

/-- The condition of a compare word in a lane; SCMP compares once, for every lane. -/
def compareHolds (e : Ex) (i : Instr) (c : BitVec 3) (a b : BitVec 8) (j : Nat) : Bool :=
  let q := lanePair e .int .int a.toNat b.toNat j
  match i with
  | .vcmp .. => intCondition c q.1.1.toInt q.2.1.1.toInt
  | .vcmpu .. => intCondition c q.1.1.toNat q.2.1.1.toNat
  | .scmp .. => intCondition c (operand e .int a.toNat 0 0#32).1.toInt (operand e .int b.toNat 0 0#32).1.toInt
  | _ => floatCondition c (floatOperands e i a b j).1 (floatOperands e i a b j).2

/-- Whether FCMP or DCMP meets a signalling NaN in a lane (R198). -/
def compareInvalid (e : Ex) (i : Instr) (a b : BitVec 8) (j : Nat) : Bool :=
  match i with
  | .fcmp .. | .dcmp .. => (floatOperands e i a b j).1.isSig || (floatOperands e i a b j).2.isSig
  | _ => false

/-- R59's combine of the old predicate bit with the condition. -/
def combined (m : BitVec 2) (old new : Bool) : Bool :=
  match m.toNat with
  | 1 => old && new | 2 => old || new | _ => new

/-- Whether a compare's source holds POISON where the compare looks: a scalar always, a vector in an active lane. -/
def comparePoison (e : Ex) (i : Instr) (a b : BitVec 8) : Bool :=
  match i with
  | .scmp .. => anyPoison e a.toNat 0 || anyPoison e b.toNat 0
  | _ => e.lanes.any fun j => anyPoison e a.toNat j || anyPoison e b.toNat j

end Sys2Proof.Claims

/-- R45, R59, R183, R198 and the frame of the compare words: without POISON in a source they write P(p,i) in every active lane, a signalling
NaN records invalid, and nothing else changes. One that meets POISON escapes before any lane is written: outside a replayable node the
context takes a fault with cause 0xB1, and no register of any group changes. -/
def Obligations.CompareWords : Prop :=
  (∀ s e i c m p a b, exOf s = some e → runs s e i = true → compareFields i = some (c, m, p, a, b) →
    comparePoison e i a b = false →
    ∃ t e', exec i s = .next t ∧ groupOnly s t e e' ∧
      e'.g = { e.g with preds := e'.g.preds, lstat := e'.g.lstat, dice := e'.g.dice } ∧
      (∀ k j, j < 64 → predBit e'.g k j =
        if k = p.toNat ∧ j ∈ e.lanes then combined m (predBit e.g p.toNat j) (compareHolds e i c a b j) else predBit e.g k j) ∧
      (∀ j, lstatOf e'.g j =
        if j ∈ e.lanes ∧ compareInvalid e i a b j = true then lstatOf e.g j ||| sticky 0x01#32 else lstatOf e.g j) ∧
      ∀ j, diceOf e'.g j = if j ∈ e.lanes then diceAfter e j [a, b] else diceOf e.g j) ∧
  (∀ s e i c m p a b q, exOf s = some e → runs s e i = true → compareFields i = some (c, m, p, a, b) →
    comparePoison e i a b = true → (e.lch.node && e.lch.replayable) = false → findCtx s e.lch.ctx = some q →
    ∃ t q', exec i s = .next t ∧ t.groups = s.groups ∧ t.splits = s.splits ∧ t.teams = s.teams ∧ t.mem = s.mem ∧
      findCtx t e.lch.ctx = some { q with fault := some q' } ∧ q'.cause = 0xB1#8 ∧ q'.trap.pc = e.x.pc ∧
      q'.trap.info0 = 3#32 ∧ q'.trap.info2 = wordOf i)

namespace Sys2Proof.Claims
open Sys2Proof.Machine

/-- A source code of R54 whose register, if it is one, the group has (R57). -/
def sourceIn (h : Header) (c : Nat) : Prop :=
  (c < 0xC0 ∧ c < h.regs) ∨ (0xC0 ≤ c ∧ c < 0xF0 ∧ c - 0xC0 < h.scalars) ∨ (0xF0 ≤ c ∧ c ≤ 0xF8)

/-- A latched MOD that holds nothing but a TRULE field (R62); a MOD word itself refuses the codes 6 and 7. -/
def truleAlone (mod : Word) : Prop := ∃ r, r < 8 ∧ mod.toNat % 2 ^ 24 = 128 * r

/-- A MOD word with a reserved RND, TRULE or SCOPE code or a guard slot without its valid bit (R62), or a HINT word with a nonzero
reserved bit (R65). -/
def prefixIllegal (w : Word) : Prop :=
  let f := fun (lo n : Nat) => w.toNat / 2 ^ lo % 2 ^ n
  (f 24 8 = 2 ∧ (f 10 3 = 7 ∨ 6 ≤ f 7 3 ∨ 6 ≤ f 0 3 ∨ (f 6 1 = 0 ∧ f 3 3 ≠ 0))) ∨ (f 24 8 = 3 ∧ f 0 15 ≠ 0)

/-- A word of group code with this latch raises no encoding fault. -/
def legalWith (h : Header) (imm mod hint : Word) (i : Instr) : Prop := encodingCause h false false false imm mod hint (wordOf i) i = none

end Sys2Proof.Claims

/-- R184 and the frame of VSEL.Pk: each active lane takes the operand that its bit of Pk selects, and that operand's tag under
the default rule; the other operand takes no part. POISON in the selected operand gives POISON, a constant UNMARKED by default. The
opcode names the predicate, 0x58 being reserved; with legal operands the word accepts IMM when a or b is 0xF8, MOD TRULE and HINT. -/
def Obligations.SelectWord : Prop :=
  (∀ s e p d a b, exOf s = some e → runs s e (.vselPk p d a b) = true →
    let q := fun j => lanePair e .int .int a.toNat b.toNat j
    let v := fun j => if predBit e.g p.toNat j then (q j).1 else (q j).2.1
    ∃ t e', exec (.vselPk p d a b) s = .next t ∧ groupOnly s t e e' ∧
      e'.g = { e.g with vregs := e'.g.vregs, lstat := e'.g.lstat, dice := e'.g.dice } ∧
      (∀ j ∈ e.lanes, vreg e'.g d.toNat j =
        ((v j).1, ruleTag (ruleOf e) .carryA (own e) [(v j).2] (v j).2 (v j).2 (vreg e.g d.toNat j).2)) ∧
      (∀ j ∈ e.lanes, (v j).2 = 0xFF00#16 → (vreg e'.g d.toNat j).2 = 0xFF00#16) ∧
      (∀ j ∈ e.lanes, ruleOf e = 0 → 0xF0 ≤ (if predBit e.g p.toNat j then a else b).toNat → (vreg e'.g d.toNat j).2 = 0#16) ∧
      vectorsBut e.g e'.g [d.toNat] e.lanes ∧ (∀ j, lstatOf e'.g j = lstatOf e.g j) ∧
      ∀ j, diceOf e'.g j = if j ∈ e.lanes then diceAfter e j [a, b] else diceOf e.g j) ∧
  (∀ p d a b, decode (0xB#5 ++ p ++ d ++ a ++ b) =
    some (if p = 0#3 then .reservedOpcode (0x58#8 ++ d ++ a ++ b) else .vselPk p d a b)) ∧
  ∀ h imm mod hint p d a b, p ≠ 0#3 → d.toNat < 0xC0 → d.toNat < h.regs → sourceIn h a.toNat → sourceIn h b.toNat →
    a ≠ 0xF3#8 → b ≠ 0xF3#8 →
    (legalWith h imm mod hint (.vselPk p d a b) ↔
      (imm = 0#32 ∨ a = 0xF8#8 ∨ b = 0xF8#8) ∧ (mod = 0#32 ∨ truleAlone mod))

/-- R75, R187, R188, R333 and the frame of the mask words: MRES, MAND, ENALL and ENRES change A within L, the bracket words also the bracket,
and nothing else; a split's A stays within its L. ENALL is legal outside a bracket and ENRES inside one. MSAV puts A into a scalar
pair with the own site tag. -/
def Obligations.MaskWords : Prop :=
  (∀ s e i, exOf s = some e → runs s e i = true →
    let goes := fun (a ba : DWord) (br : Bool) =>
      ∃ t e', exec i s = .next t ∧ onlySplit s t e e' ∧ e'.g = e.g ∧ e'.tm = counted e.tm ∧
        e'.x = { retired e.x (e.x.pc + 4#64) with amask := a, ba := ba, br := br } ∧ a &&& ~~~e.x.lset = 0#64
    (∀ a, i = .mres a → goes ((operand64 e false a.toNat 0).1 &&& e.x.lset) e.x.ba e.x.br) ∧
    (∀ n p, i = .mand n p →
      goes (e.x.amask &&& (if n = 1#1 then ~~~(pred e.g p.toNat) else pred e.g p.toNat) &&& e.x.lset) e.x.ba e.x.br) ∧
    (i = .enall → e.x.br = false → goes e.x.lset e.x.amask true) ∧
    (i = .enres → e.x.br = true → goes (e.x.ba &&& e.x.lset) e.x.ba false)) ∧
  (∀ s e d, exOf s = some e → runs s e (.msav d) = true →
    ∃ t e', exec (.msav d) s = .next t ∧ groupOnly s t e e' ∧
      registersOnly e e' d.toNat 2 fun k _ => (e.x.amask.extractLsb' (32 * k) 32, own e))

/-- R62, R65, R73 and the frame of NOP and the prefix words: a prefix fills its slot of the latch and the split, or the stream, moves on;
NOP empties the latch and changes nothing else. A MOD or HINT word with a reserved code or bit raises ILL_FIELD itself. NOP's word is
0x0400_0000, a reserved bit raises ILL_FIELD, and it accepts HINT alone. -/
def Obligations.PrefixAndNop : Prop :=
  (∀ s e i, exOf s = some e → runs s e i = true →
    let goes := fun (x : Split) =>
      ∃ t e', exec i s = .next t ∧ onlySplit s t e e' ∧ e'.g = e.g ∧ e'.tm = counted e.tm ∧ e'.x = x
    (∀ v, i = .imm v → goes { e.x with imm := 0x01000000#32 ||| v.setWidth 32, pc := e.x.pc + 4#64 }) ∧
    (∀ sa c n m a b k r q g o, i = .mod sa c n m a b k r q g o →
      goes { e.x with mod := 0x02#8 ++ sa ++ c ++ n ++ m ++ a ++ b ++ k ++ r ++ q ++ g ++ o, pc := e.x.pc + 4#64 }) ∧
    (∀ st y a b c, i = .hint st y a b c →
      goes { e.x with hint := 0x03#8 ++ st ++ y ++ a ++ b ++ c ++ 0#15, pc := e.x.pc + 4#64 }) ∧
    (i = .nop → goes (retired e.x (e.x.pc + 4#64)))) ∧
  (∀ s x i, s.cur = .stream x.tm.tid → sxOf s x.tm.tid = some x → streamRuns s x i = true →
    let goes := fun (u : Team) => ∃ t x', exec i s = .next t ∧ sxOf t x.tm.tid = some x' ∧ x'.lch = x.lch ∧ x'.tm = u ∧
      t = { s with teams := t.teams, fx := [], devFail := none } ∧ ∀ tid, tid ≠ x.tm.tid → findTeam t tid = findTeam s tid
    (∀ v, i = .imm v → goes { counted x.tm with seqImm := 0x01000000#32 ||| v.setWidth 32, seqPc := x.tm.seqPc + 4#64 }) ∧
    (∀ st y a b c, i = .hint st y a b c →
      goes { counted x.tm with seqHint := 0x03#8 ++ st ++ y ++ a ++ b ++ c ++ 0#15, seqPc := x.tm.seqPc + 4#64 }) ∧
    (i = .nop →
      goes { counted x.tm with seqImm := 0#32, seqMod := 0#32, seqHint := 0#32, seqPc := x.tm.seqPc + 4#64 })) ∧
  (∀ n : BitVec 24, decode (0x04#8 ++ n) = if n = 0#24 then some .nop else none) ∧
  (∀ (n : BitVec 24) h, nearestInstr (0x04#8 ++ n) = some .nop ∧
    encodingCause h false false true 0#32 0#32 0#32 (0x04#8 ++ n) .nop = some (illField, 0x04#8 ++ n, 0#32)) ∧
  (∀ h (w : Word) b i, prefixIllegal w → encodingCause h false false b 0#32 0#32 0#32 w i = some (illField, w, 0#32)) ∧
  ∀ h imm mod hint, legalWith h imm mod hint .nop ↔ imm = 0#32 ∧ mod = 0#32

/-- R53, R323, R324 and the frame of the branches of a whole split: where each continues, the UNIF bit of a BRU, JMPI or RET whose
lanes differ, and nothing else (CALL's link pair is CallWord's). A vector pair's targets are aligned and free of POISON; UNIFTRAP is clear or
the lanes agree. -/
def Obligations.BranchWord : Prop :=
  ∀ s e i, exOf s = some e → runs s e i = true →
    let target := fun (o : BitVec 16) => e.x.pc + BitVec.ofInt 64 (4 * o.toInt)
    let fall := e.x.pc + 4#64
    let goes := fun (pc : DWord) (unif : Bool) =>
      ∃ t e', exec i s = .next t ∧ onlySplit s t e e' ∧ e'.x = retired e.x pc ∧ e'.tm = counted e.tm ∧
        e'.g = { e.g with lstat := e'.g.lstat } ∧
        ∀ j, lstatOf e'.g j = if unif = true ∧ j ∈ e.lanes then lstatOf e.g j ||| sticky 0x20#32 else lstatOf e.g j
    (∀ o, i = .br o → goes (target o) false) ∧
    (∀ n o, i = .brz n o → goes (if (e.lanes = []) ↔ n = 0#1 then target o else fall) false) ∧
    (∀ n p o, i = .bru n p o →
      let v := fun j => predBit e.g p.toNat j != (n = 1#1)
      let taken := (e.lanes.head?.map v).getD false
      let differ := e.lanes.any fun j => v j ≠ taken
      (e.lch.unifTrap && differ) = false → goes (if taken then target o else fall) differ) ∧
    (∀ a, i = .jmpi a ∨ i = .ret a →
      ∀ l, (if 0xC0 ≤ a.toNat then some 0 else if e.lanes = [] then lowLane e.x.lset else e.lanes.head?) = some l →
      let dest := fun j => (operand64 e false a.toNat j).1
      let differ := a.toNat < 0xC0 && e.lanes.any fun j => dest j ≠ dest l
      (e.lanes.any fun j => anyPoison e a.toNat j) = false → (dest l).toNat % 4 = 0 → (e.lch.unifTrap && differ) = false →
      goes (dest l) differ)

/-- R40, R324 and the frame of CALL: the link pair takes PC + 4 with the own site tag, a scalar pair once and a vector pair in
every active lane, and the split continues at the target. -/
def Obligations.CallWord : Prop :=
  ∀ s e c o, exOf s = some e → runs s e (.call c o) = true →
    let v := e.x.pc + 4#64
    ∃ t e', exec (.call c o) s = .next t ∧ onlySplit s t e e' ∧ e'.tm = counted e.tm ∧
      e'.x = retired e.x (e.x.pc + BitVec.ofInt 64 (4 * o.toInt)) ∧
      registersOnly e e' c.toNat 2 fun k _ => (v.extractLsb' (32 * k) 32, own e)

namespace Sys2Proof.Claims
open Sys2Proof.Machine

/-! ## Control flow (R325 to R331) -/

/-- The lanes of group slice k. -/
def sliceOfGroup (k : Nat) : DWord := 0xF#64 <<< (4 * k)

/-- Fm of R325: the union of the slices whose held lanes, in L or in a deferral entry, all lie in F. -/
def allFalseSlices (x : Split) (f : DWord) : DWord :=
  (List.range 16).foldl (fun m k =>
    let h := allLanes x &&& sliceOfGroup k
    if h ≠ 0#64 ∧ h &&& ~~~f = 0#64 then m ||| h else m) 0#64

/-- The lowest rank below the budget that no split of the group holds. -/
def freeRank (s : State) (e : Ex) : Option Nat :=
  (List.range e.lch.hdr.splits).find? fun r => (findSplit s e.x.tid e.x.gi r).isNone

/-- Every split of a group but those named keeps all but its slice mask, which R319 recomputes; splits of other groups keep all. -/
def otherSplits (s t : State) (e : Ex) (ranks : List Nat) : Prop :=
  (∀ tid gi r, ¬(tid = e.x.tid ∧ gi = e.x.gi) → findSplit t tid gi r = findSplit s tid gi r) ∧
  ∀ r, r ∉ ranks → ∃ sl, findSplit t e.x.tid e.x.gi r = (findSplit s e.x.tid e.x.gi r).map fun x => { x with slices := sl }

/-- A word that moves lanes: memory, stores and every other part of the machine stay; the split's group changes in its join sets
alone. -/
def lanesMove (s t : State) (e e' : Ex) : Prop :=
  exOf t = some e' ∧ e'.lch = e.lch ∧ e'.tm = counted e.tm ∧ e'.g = { e.g with joins := e'.g.joins } ∧
  t = { s with teams := t.teams, groups := t.groups, splits := t.splits, fx := [], devFail := none } ∧
  (∀ tid, tid ≠ e.x.tid → findTeam t tid = findTeam s tid) ∧
  ∀ tid gi, ¬(tid = e.x.tid ∧ gi = e.x.gi) → findGroup t tid gi = findGroup s tid gi

end Sys2Proof.Claims

/-- R325: what BRD does with A = L outside a bracket: it falls through with T empty, jumps with F empty, and else continues at
the target with L, A = T, making a split of the all-F slices where the budget has room and deferring the other F lanes. The new
split takes the lowest free rank (log entry 5). -/
def Obligations.DivergentBranch : Prop :=
  ∀ s e k n p o, exOf s = some e → runs s e (.brd k n p o) = true → e.x.br = false → e.x.amask = e.x.lset →
    let q := e.x.lset &&& (if n = 1#1 then ~~~(pred e.g p.toNat) else pred e.g p.toNat)
    let yes := e.x.amask &&& q
    let no := e.x.amask &&& ~~~q
    let fall := e.x.pc + 4#64
    let target := e.x.pc + BitVec.ofInt 64 (4 * o.toInt)
    let fm := allFalseSlices e.x no
    let fork := if fm = 0#64 then none else freeRank s e
    let fd := if fork.isSome then no &&& ~~~fm else no
    let stack := if fd = 0#64 then e.x.stack else { lanes := fd, pc := fall, mark := k.toNat, arr := false } :: e.x.stack
    (yes = 0#64 → ∃ t e', exec (.brd k n p o) s = .next t ∧ onlySplit s t e e' ∧ e'.g = e.g ∧ e'.tm = counted e.tm ∧
      e'.x = retired e.x fall) ∧
    (yes ≠ 0#64 → no = 0#64 → ∃ t e', exec (.brd k n p o) s = .next t ∧ onlySplit s t e e' ∧ e'.g = e.g ∧
      e'.tm = counted e.tm ∧ e'.x = retired e.x target) ∧
    (yes ≠ 0#64 → no ≠ 0#64 → spillFits s e stack.length = true →
      ∃ t e', exec (.brd k n p o) s = .next t ∧ lanesMove s t e e' ∧
        e'.x = { retired e.x target with lset := yes, amask := yes, stack := stack, slices := e'.x.slices } ∧
        (fork = none → e'.g = e.g ∧ otherSplits s t e [e.x.rank]) ∧
        ∀ r, fork = some r → otherSplits s t e [e.x.rank, r] ∧
          (∃ y, findSplit t e.x.tid e.x.gi r = some y ∧ y.pc = fall ∧ y.lset = fm ∧ y.amask = fm ∧ y.stack = [] ∧ y.st = .ready) ∧
          ∀ h, h < e.g.joins.length → ∀ m, m ∈ e'.g.joins.getD h [] ↔
            m ∈ e.g.joins.getD h [] ∨ (h = k.toNat ∧ (m = e.x.rank ∨ m = r)))

/-- R327's first and third cases: REJOIN pops the topmost pending entry of its mark, leaving the split's lanes in an arrived entry;
without one, and outside JOIN[k] or with no other live member of it, the split takes its arrived lanes back and continues, READY
also where it still holds an arrived entry of another mark (R327's words, which the model follows over R322's table by log entry 44). -/
def Obligations.Rejoin : Prop :=
  ∀ s e k, exOf s = some e → runs s e (.rejoin k) = true → e.x.br = false → e.x.amask = e.x.lset →
    (∀ pre en post, e.x.stack = pre ++ en :: post → en.arr = false → en.mark = k.toNat →
      (∀ y ∈ pre, ¬(y.arr = false ∧ y.mark = k.toNat)) →
      let rest := pre ++ post
      ∃ t e', exec (.rejoin k) s = .next t ∧ lanesMove s t e e' ∧ e'.g = e.g ∧ otherSplits s t e [e.x.rank] ∧
        e'.x = { retired e.x en.pc with
          lset := en.lanes, amask := en.lanes, st := .deferred, slices := e'.x.slices
          stack := if rest.any (fun y => y.arr && y.mark = k.toNat) then
              rest.map fun y => if y.arr && y.mark = k.toNat then { y with lanes := y.lanes ||| e.x.lset } else y
            else { lanes := e.x.lset, pc := e.x.pc, mark := k.toNat, arr := true } :: rest }) ∧
    ((∀ y ∈ e.x.stack, ¬(y.arr = false ∧ y.mark = k.toNat)) →
      (e.x.rank ∉ e.g.joins.getD k.toNat [] ∨
        ∀ r ∈ e.g.joins.getD k.toNat [], r ≠ e.x.rank → findSplit s e.x.tid e.x.gi r = none) →
      let back := (e.x.stack.filter fun y => y.arr && y.mark = k.toNat).foldl (fun (l : DWord) y => l ||| y.lanes) e.x.lset
      ∃ t e', exec (.rejoin k) s = .next t ∧ lanesMove s t e e' ∧ otherSplits s t e [e.x.rank] ∧
        e'.x = { retired e.x (e.x.pc + 4#64) with
          lset := back, amask := back, st := .ready
          stack := e.x.stack.filter fun y => !(y.arr && y.mark = k.toNat) } ∧
        ∀ h m, m ∈ e'.g.joins.getD h [] ↔ m ∈ e.g.joins.getD h [] ∧ ¬(h = k.toNat ∧ m = e.x.rank))

/-- R330, R331: YIELD, and YIELD.D without a pending entry, move to PC + 4; YIELD.D rotates the topmost pending entry, the split's own lanes
going below every other pending entry of that mark. EXIT outside a bracket retires the active lanes; the split runs on with A empty
while L has lanes, else continues at the topmost entry, and without one its entry is freed. The last case is stated where another split
of the group lives and no join set has a member. -/
def Obligations.YieldAndExit : Prop :=
  ((∀ s e i, exOf s = some e → runs s e i = true →
    i = .yield ∨ (i = .yieldD ∧ e.x.br = false ∧ e.x.amask = e.x.lset ∧ ∀ y ∈ e.x.stack, y.arr = true) →
    ∃ t e', exec i s = .next t ∧ onlySplit s t e e' ∧ e'.g = e.g ∧ e'.tm = counted e.tm ∧ e'.x = retired e.x (e.x.pc + 4#64)) ∧
  ∀ s e, exOf s = some e → runs s e .yieldD = true → e.x.br = false → e.x.amask = e.x.lset →
    ∀ pre en post, e.x.stack = pre ++ en :: post → en.arr = false → (∀ y ∈ pre, y.arr = true) →
    let own : DefEntry := { lanes := e.x.lset, pc := e.x.pc + 4#64, mark := en.mark, arr := false }
    let goes := fun (stack : List DefEntry) =>
      ∃ t e', exec .yieldD s = .next t ∧ lanesMove s t e e' ∧ e'.g = e.g ∧ otherSplits s t e [e.x.rank] ∧
        e'.x = { retired e.x en.pc with
          lset := en.lanes, amask := en.lanes, stack := stack, slices := e'.x.slices
          st := if stack.any fun y => y.arr then .deferred else .ready }
    ((∀ y ∈ post, ¬(y.arr = false ∧ y.mark = en.mark)) → goes (pre ++ own :: post)) ∧
    ∀ l1 z l2, post = l1 ++ z :: l2 → z.arr = false → z.mark = en.mark → (∀ y ∈ l2, ¬(y.arr = false ∧ y.mark = en.mark)) →
      goes (pre ++ l1 ++ z :: own :: l2)) ∧
  (∀ s e, exOf s = some e → runs s e .exit = true → e.x.br = false →
    let left := e.x.lset &&& ~~~e.x.amask
    (left ≠ 0#64 → ∃ t e', exec .exit s = .next t ∧ lanesMove s t e e' ∧ e'.g = e.g ∧ otherSplits s t e [e.x.rank] ∧
      e'.x = { retired e.x (e.x.pc + 4#64) with lset := left, amask := 0#64, slices := e'.x.slices }) ∧
    (left = 0#64 → ∀ en rest, e.x.stack = en :: rest →
      ∃ t e', exec .exit s = .next t ∧ lanesMove s t e e' ∧ e'.g = e.g ∧ otherSplits s t e [e.x.rank] ∧
        e'.x = { retired e.x en.pc with
          lset := en.lanes, amask := en.lanes, stack := rest, slices := e'.x.slices
          st := if rest.any fun y => y.arr then .deferred else .ready }) ∧
    (left = 0#64 → e.x.stack = [] → e.x.brBits = [] → (∀ j ∈ e.g.joins, j = []) →
      (∃ y ∈ s.splits, y.tid = e.x.tid ∧ y.gi = e.x.gi ∧ y.rank ≠ e.x.rank) →
      ∃ t, exec .exit s = .next t ∧ t = { s with teams := t.teams, groups := t.groups, splits := t.splits, fx := [], devFail := none } ∧
        findTeam t e.x.tid = some (counted e.tm) ∧ (∀ tid, tid ≠ e.x.tid → findTeam t tid = findTeam s tid) ∧
        (∀ tid gi, findGroup t tid gi = findGroup s tid gi) ∧
        findSplit t e.x.tid e.x.gi e.x.rank = none ∧ otherSplits s t e [e.x.rank]))

namespace Sys2Proof.Claims
open Sys2Proof.Machine

/-! ## Special registers and tag words (R46 to R49, R74 to R76, R397) -/

/-- R74's value of a special register in a lane, as 64 bits; a 32-bit register stands in the low half. -/
def specialValue (s : State) (e : Ex) (n j : Nat) : DWord :=
  match n with
  | 0x00 => BitVec.ofNat 64 j
  | 0x01 => (mapGet 0#32 e.g.orig j).setWidth 64
  | 0x02 => BitVec.ofNat 64 e.g.gi
  | 0x03 => BitVec.ofNat 64 (e.tm.ordinal % 2 ^ 32)
  | 0x04 => BitVec.ofNat 64 (e.tm.cluster % 2 ^ 32)
  | 0x05 => BitVec.ofNat 64 (e.lch.id % 2 ^ 32)
  | 0x06 => BitVec.ofNat 64 e.lch.hdr.width
  | 0x07 => BitVec.ofNat 64 e.lch.hdr.groups
  | 0x08 => BitVec.ofNat 64 (e.lch.gx * e.lch.gy * e.lch.gz % 2 ^ 32)
  | 0x09 => e.x.id.setWidth 64
  | 0x0A => BitVec.ofNat 64 e.tm.core
  | 0x0B => BitVec.ofNat 64 (quadOf e.tm.core)
  | 0x0C => BitVec.ofNat 64 (dieOf e.tm.core)
  | 0x0D => (diceOf e.g j).setWidth 64
  | 0x0E => Config.cycle e.tm.core s.clock
  | 0x0F => e.lch.args
  | 0x10 => e.g.tcause.setWidth 64
  | 0x11 => e.g.tpc
  | 0x12 => e.g.tmask
  | 0x13 => e.g.tinfo0.setWidth 64
  | 0x14 => e.g.tinfo1.setWidth 64
  | 0x15 => e.g.tinfo2.setWidth 64
  | 0x16 => e.g.tinfo3.setWidth 64
  | _ => (lstatOf e.g j).setWidth 64

/-- The registers of R74 that fill a pair. -/
def wideRegister (n : Nat) : Bool := n = 0x0E || n = 0x0F || n = 0x11 || n = 0x12

end Sys2Proof.Claims

/-- R74 to R76 and the frame of MFSR and MTSR. MFSR's destination takes the special register's value, a pair for a 64-bit one, with the own
site tag; %cycle is the model's free value (log entry 2). MTSR writes %dice per active lane, where 0 becomes 1, and %tpc and %tmask
inside a handler from the scalar pair or the lowest active lane of a vector pair (log entry 7). -/
def Obligations.SpecialRegisters : Prop :=
  (∀ s e d n, exOf s = some e → runs s e (.mfsr d n) = true →
    ∃ t e', exec (.mfsr d n) s = .next t ∧ groupOnly s t e e' ∧
      registersOnly e e' d.toNat (if wideRegister n.toNat then 2 else 1) fun k j =>
        ((specialValue s e n.toNat j).extractLsb' (32 * k) 32, own e)) ∧
  (∀ s e n a, exOf s = some e → runs s e (.mtsr n a) = true → (e.lanes.any fun j => anyPoison e a.toNat j) = false →
    (0xC0 ≤ a.toNat → anyPoison e a.toNat 0 = false) →
    let v := (operand64 e false a.toNat (e.lanes.head?.getD 0)).1
    ∃ t e', exec (.mtsr n a) s = .next t ∧ groupOnly s t e e' ∧
      (n = 0x0D#8 → e'.g = { e.g with dice := e'.g.dice } ∧ ∀ j, diceOf e'.g j =
        if j ∈ e.lanes then
          let w := (operand e .int a.toNat j (diceAfter e j [a])).1
          if w = 0#32 then 1#32 else w
        else diceOf e.g j) ∧
      (n = 0x11#8 → e'.g = if a.toNat < 0xC0 ∧ e.lanes = [] then e.g else { e.g with tpc := v }) ∧
      (n = 0x12#8 → e'.g = if a.toNat < 0xC0 ∧ e.lanes = [] then e.g else { e.g with tmask := v }))

/-- R397, R398 and the frame of LSTAT and LSTAT.MASK: each active lane's status goes into d and its selected sticky bits, with their
UNREP bits, are cleared; the report mask is set. -/
def Obligations.StatusWord : Prop :=
  (∀ s e d m, exOf s = some e → runs s e (.lstat d m) = true →
    ∃ t e', exec (.lstat d m) s = .next t ∧ groupOnly s t e e' ∧
      e'.g = { e.g with vregs := e'.g.vregs, lstat := e'.g.lstat } ∧
      (∀ j ∈ e.lanes, vreg e'.g d.toNat j = (lstatOf e.g j, own e)) ∧ vectorsBut e.g e'.g [d.toNat] e.lanes ∧
      ∀ j, lstatOf e'.g j = if j ∈ e.lanes then lstatOf e.g j &&& ~~~(sticky (m.setWidth 32)) else lstatOf e.g j) ∧
  ∀ s e m, exOf s = some e → runs s e (.lstatMask m) = true →
    ∃ t e', exec (.lstatMask m) s = .next t ∧ groupOnly s t e e' ∧ e'.g = { e.g with rmask := m }

namespace Sys2Proof.Claims

/-- R47's classes of a tag. -/
def inClass (m : BitVec 6) (t : Tag) : Bool :=
  (m.getLsbD 0 && 0x8000 ≤ t.toNat && t.toNat ≤ 0xFEFF) || (m.getLsbD 1 && t = 0xFF00#16) ||
  (m.getLsbD 2 && t = 0xFF01#16) || (m.getLsbD 3 && t = 0xFF05#16) ||
  (m.getLsbD 4 && 0xFF02 ≤ t.toNat && t ≠ 0xFF05#16) || (m.getLsbD 5 && t = 0#16)

/-- The lanes whose tag TCHK looks at: the active lanes of a vector, and a scalar's once. -/
def checkedTags (e : Ex) (a : BitVec 8) : List Tag :=
  if a.toNat < 0xC0 then e.lanes.map fun j => (vreg e.g a.toNat j).2 else [(sreg e.g (a.toNat - 0xC0)).2]

/-! ## Lane operations (R220 to R225) -/

/-- The lane that feeds lane j of a shuffle with b read as n (R221); m is SWAPP's, from the lowest active lane. -/
def shuffleSource (i : Instr) (m j n : Nat) : Option Nat :=
  match i with
  | .shfl .. => some n
  | .shflx .. => some (j ^^^ n)
  | .shflu .. => if n ≤ j then some (j - n) else none
  | .shfld .. => some (j + n)
  | .swapp .. => if m = 0 then some j else if j / m % 2 = 0 then some (j + m) else some (j - m)
  | _ => none

/-- The fields of a shuffle word. -/
def shuffleFields (i : Instr) : Option (BitVec 8 × BitVec 8 × BitVec 8) :=
  match i with
  | .shfl d a b | .shflx d a b | .shflu d a b | .shfld d a b | .swapp d a b => some (d, a, b)
  | _ => none

/-- The combine of an integer reduction (R223), and its identity. -/
def intCombine (r : Nat) (x y : Word) : Word :=
  match r with
  | 0 => BitVec.ofInt 32 (x.toInt + y.toInt)
  | 1 => BitVec.ofInt 32 (min x.toInt y.toInt)
  | 2 => BitVec.ofInt 32 (max x.toInt y.toInt)
  | 3 => BitVec.ofNat 32 (min x.toNat y.toNat)
  | 4 => BitVec.ofNat 32 (max x.toNat y.toNat)
  | 5 => x &&& y
  | 6 => x ||| y
  | _ => x ^^^ y
def intIdentity (r : Nat) : Word :=
  match r with
  | 1 => 0x7FFFFFFF#32 | 2 => 0x80000000#32 | 3 => 0xFFFFFFFF#32 | 5 => 0xFFFFFFFF#32 | _ => 0#32

end Sys2Proof.Claims

/-- R46, R47, R49, R463 and the frame of TGET, TSET, TSTAMP and TRULE; TCHK whose register holds no tag of a selected class, a mask of 0 among
them, moves on and changes nothing. -/
def Obligations.TagWords : Prop :=
  (∀ s e i, exOf s = some e → runs s e i = true →
    let goes := fun (p : Ex → Prop) => ∃ t e', exec i s = .next t ∧ groupOnly s t e e' ∧ p e'
    (∀ d a, i = .tget d a →
      goes fun e' => registersOnly e e' d.toNat 1 fun _ j => ((regCell e.g a.toNat j).2.setWidth 32, own e)) ∧
    (∀ d a, i = .tset d a →
      let low := e.lanes.head?.getD 0
      let src := fun j => if d.toNat < 0xC0 then j else low
      let tag := fun j => if a = 0xF0#8 then 0#16 else if a = 0xF8#8 then e.x.imm.setWidth 16
        else if a.toNat < 0xC0 then (vreg e.g a.toNat (src j)).1.setWidth 16 else (sreg e.g (a.toNat - 0xC0)).1.setWidth 16
      if 0xC0 ≤ d.toNat ∧ a.toNat < 0xC0 ∧ e.lanes = [] then goes fun e' => e'.g = e.g
      else goes fun e' => registersOnly e e' d.toNat 1 fun _ j => ((regCell e.g d.toNat j).1, tag j)) ∧
    (∀ d, i = .tstamp d → goes fun e' => registersOnly e e' d.toNat 1 fun _ j => ((regCell e.g d.toNat j).1, own e)) ∧
    (∀ c, i = .trule c → goes fun e' => e'.g = { e.g with rule := c })) ∧
  (∀ s e a m, exOf s = some e → runs s e (.tchk a m) = true → (checkedTags e a).any (inClass m) = false →
    ∃ t e', exec (.tchk a m) s = .next t ∧ groupOnly s t e e' ∧ e'.g = e.g)

/-- R220 to R225 and the frame of the shuffles, VOTE and the integer REDUX and SCAN. A lane takes the cell of its source lane where that
lane lies in A, with the carried tag under the default rule, and else keeps its own. VOTE gives one value for the split, to a scalar
once or to a vector in every active lane; with A empty nothing. REDUX combines the active lanes and SCAN those up to or below a lane,
with Produce over the contributors' tags; the identity of an exclusive SCAN is tagged own. -/
def Obligations.LaneExchange : Prop :=
  (∀ s e i d a b, exOf s = some e → runs s e i = true → shuffleFields i = some (d, a, b) →
    let y := fun j => operand e .int b.toNat j (diceAfter e j [b])
    let src := fun j => shuffleSource i ((e.lanes.head?.map fun l => (y l).1.toNat).getD 0) j (y j).1.toNat
    ∃ t e', exec i s = .next t ∧ groupOnly s t e e' ∧
      e'.g = { e.g with vregs := e'.g.vregs, lstat := e'.g.lstat, dice := e'.g.dice } ∧
      (∀ j ∈ e.lanes, ∀ k ∈ e.lanes, src j = some k → vreg e'.g d.toNat j = ((vreg e.g a.toNat k).1,
        ruleTag (ruleOf e) .carryA (own e) [(vreg e.g a.toNat k).2, (y j).2] (vreg e.g a.toNat k).2 (y j).2
          (vreg e.g d.toNat j).2)) ∧
      (∀ r j, j < 64 → ¬(r = d.toNat ∧ j ∈ e.lanes ∧ ∃ k ∈ e.lanes, src j = some k) → vreg e'.g r j = vreg e.g r j) ∧
      (∀ j, lstatOf e'.g j = lstatOf e.g j) ∧
      ∀ j, diceOf e'.g j = if j ∈ e.lanes then diceAfter e j [b] else diceOf e.g j) ∧
  (∀ s e d k n p, exOf s = some e → runs s e (.vote d k n p) = true →
    let q := fun j => predBit e.g p.toNat j != (n = 1#1)
    let v : DWord := if k = 0#2 then (if e.lanes.any q then 1#64 else 0#64)
      else if k = 1#2 then (if e.lanes.all q then 1#64 else 0#64) else maskOf (e.lanes.filter q)
    let old := if d.toNat < 0xC0 then fun j => (vreg e.g d.toNat j).2 else fun _ => (sreg e.g (d.toNat - 0xC0)).2
    ∃ t e', exec (.vote d k n p) s = .next t ∧ groupOnly s t e e' ∧ (e.lanes = [] → e'.g = e.g) ∧
      (e.lanes ≠ [] → registersOnly e e' d.toNat (if k = 2#2 then 2 else 1) fun h j =>
        (v.extractLsb' (32 * h) 32, ruleTag (ruleOf e) .produce (own e) [] 0#16 0#16 (old j)))) ∧
  ((∀ s e d a (r : BitVec 4), exOf s = some e → runs s e (.redux d a r) = true → r.toNat < 8 →
    let c := fun j => vreg e.g a.toNat j
    let tags := e.lanes.map fun j => (c j).2
    let v := (e.lanes.map fun j => (c j).1).foldl (intCombine r.toNat) (intIdentity r.toNat)
    let old := if d.toNat < 0xC0 then fun j => (vreg e.g d.toNat j).2 else fun _ => (sreg e.g (d.toNat - 0xC0)).2
    ∃ t e', exec (.redux d a r) s = .next t ∧ groupOnly s t e e' ∧ (e.lanes = [] → e'.g = e.g) ∧
      (e.lanes ≠ [] → registersOnly e e' d.toNat 1 fun _ j =>
        (v, ruleTag (ruleOf e) .produce (own e) tags (tags.headD 0#16) 0#16 (old j)))) ∧
  ∀ s e d a (r : BitVec 4) x, exOf s = some e → runs s e (.scan d a r x) = true → r.toNat < 8 →
    let c := fun j => vreg e.g a.toNat j
    let from_ := fun j => e.lanes.filter fun k => if x = 1#1 then k < j else k ≤ j
    ∃ t e', exec (.scan d a r x) s = .next t ∧ groupOnly s t e e' ∧
      e'.g = { e.g with vregs := e'.g.vregs, lstat := e'.g.lstat, dice := e'.g.dice } ∧
      (∀ j, lstatOf e'.g j = lstatOf e.g j) ∧ (∀ j, diceOf e'.g j = diceOf e.g j) ∧ vectorsBut e.g e'.g [d.toNat] e.lanes ∧
      ∀ j ∈ e.lanes, vreg e'.g d.toNat j =
        (((from_ j).map fun k => (c k).1).foldl (intCombine r.toNat) (intIdentity r.toNat),
          if from_ j = [] then own e
          else ruleTag (ruleOf e) .produce (own e) ((from_ j).map fun k => (c k).2) (((from_ j).map fun k => (c k).2).headD 0#16)
            0#16 (vreg e.g d.toNat j).2))

namespace Sys2Proof.Claims
open Sys2Proof.Machine

/-! ## Floating-point lanes (R185, R190 to R207, R223) -/

/-- The tag of a lane's result where nothing is captured (R37 to R39, R225). -/
def resultTag (e : Ex) (o : LaneOut) : Tag :=
  if o.ident then own e
  else ruleTag (ruleOf e) .produce (own e) o.srcs (((o.carry.or o.a).map fun c => c.2).getD 0#16)
    ((o.b.map fun c => c.2).getD 0#16) o.old

/-- The events of a lane's result as sticky bits; a birth that nothing captures sets UNCAP (R36, R395). -/
def resultStatus (o : LaneOut) : Word :=
  (if o.ev.inv then 0x01#32 else 0#32) ||| (if o.ev.dz then 0x02#32 else 0#32) ||| (if o.ev.ovf then 0x04#32 else 0#32) |||
  (if o.ev.unf then 0x08#32 else 0#32) ||| (if o.ev.isat then 0x10#32 else 0#32) ||| (if o.causes = [] then 0#32 else 0x40#32)

/-- R197's class of an FP32 code. -/
def classBit (n : Nat) : Nat :=
  let neg := 2 ^ 31 ≤ n
  let ex := n / 2 ^ 23 % 256
  let mf := n % 2 ^ 23
  if ex = 255 then (if mf = 0 then (if neg then 0 else 7) else if mf < 2 ^ 22 then 8 else 9)
  else if ex = 0 then (if mf = 0 then (if neg then 3 else 4) else if neg then 2 else 5)
  else if neg then 1 else 6

/-- The lane results of the floating-point, packed, dot-product, narrowing and conversion words: the model's one-lane meanings, in which
the exact operation (R191, R195, R196) stands as an argument. -/
def floatLane (i : Instr) : Option (BitVec 8 × (Ex → Nat → LaneOut)) :=
  match i with
  | .fadd d a b => some (d, fpLane d a b 2 false .fp32 fun md x y _ _ _ => fadd md.rnd x y)
  | .fsub d a b => some (d, fpLane d a b 2 false .fp32 fun md x y _ _ _ => fsubV md.rnd x y)
  | .fmul d a b => some (d, fpLane d a b 2 false .fp32 fun _ x y _ _ _ => fmul x y)
  | .ffma d a b => some (d, fpLane d a b 2 true .fp32 fun md x y z _ _ => ffma md.rnd x y z)
  | .fmin d a b => some (d, fpLane d a b 2 false .fp32 fun _ x y _ _ _ => fminV x y)
  | .fmax d a b => some (d, fpLane d a b 2 false .fp32 fun _ x y _ _ _ => fmaxV x y)
  | .fscaleb d a b => some (d, fpLane d a b 2 false .int fun _ x _ _ w _ => fscalebV x w)
  | .ffrac d a => some (d, fpLane d a 0#8 1 false .fp32 fun md x _ _ _ _ => ffracV md.rnd x)
  | .frnd d a => some (d, fpLane d a 0#8 1 false .fp32 fun md x _ _ _ dr => frndV md.rnd x dr)
  | .dadd d a b => some (d, dpLane d a b 2 false fun md x y _ _ _ => fadd md.rnd x y)
  | .dsub d a b => some (d, dpLane d a b 2 false fun md x y _ _ _ => fsubV md.rnd x y)
  | .dmul d a b => some (d, dpLane d a b 2 false fun _ x y _ _ _ => fmul x y)
  | .dfma d a b => some (d, dpLane d a b 2 true fun md x y z _ _ => ffma md.rnd x y z)
  | .badd2 d a b => some (d, packedLane .bf16 .bf16 d a b false fun md x y _ _ _ => fadd md.rnd x y)
  | .bmul2 d a b => some (d, packedLane .bf16 .bf16 d a b false fun _ x y _ _ _ => fmul x y)
  | .bfma2 d a b => some (d, packedLane .bf16 .bf16 d a b true fun md x y z _ _ => ffma md.rnd x y z)
  | .hadd2 d a b => some (d, packedLane .fp16 .fp16 d a b false fun md x y _ _ _ => fadd md.rnd x y)
  | .hmul2 d a b => some (d, packedLane .fp16 .fp16 d a b false fun _ x y _ _ _ => fmul x y)
  | .hfma2 d a b => some (d, packedLane .fp16 .fp16 d a b true fun md x y z _ _ => ffma md.rnd x y z)
  | .vdot2Bf d a b => some (d, dotLane .bf16 .bf16 2 16 d a b)
  | .vdot4E4 d a b => some (d, dotLane .e4m3 .e4m3 4 8 d a b)
  | .vdot4E5 d a b => some (d, dotLane .e5m2 .e5m2 4 8 d a b)
  | .vdot8F4 d a b => some (d, dotLane .e2m1 .e2m1 8 4 d a b)
  | .vdot2H d a b => some (d, dotLane .fp16 .fp16 2 16 d a b)
  | .vdot4I8 d a b => some (d, dotI8Lane d a b)
  | .cvtpkBf d a b => some (d, fun e => narrowLane .bf16 e.lch.ftz false putPk d a b e)
  | .cvtpkH d a b => some (d, fun e => narrowLane .fp16 e.lch.ftz false putPk d a b e)
  | .cvt8E4l d a b => some (d, narrowLane .e4m3 false true putLow8 d a b)
  | .cvt8E4h d a b => some (d, narrowLane .e4m3 false true putHigh8 d a b)
  | .cvt8E5l d a b => some (d, narrowLane .e5m2 false true putLow8 d a b)
  | .cvt8E5h d a b => some (d, narrowLane .e5m2 false true putHigh8 d a b)
  | .unpk d a f k => some (d, unpkLane d a f k)
  | .vcvti d a s t => some (d, vcvtiLane d.toNat a.toNat s.toNat t.toNat)
  | .fcvt d a s t | .dcvt d a s t => some (d, cvtLane d.toNat a.toNat s.toNat t.toNat)
  | _ => none

/-- The lane results of the transform-pipe words (R209 to R219), for the whole split, and the registers they fill. -/
def pipeResults (i : Instr) : Option (BitVec 8 × Nat × (Ex → List LaneOut)) :=
  match i with
  | .sint d a => some (d, 1, fun e => e.lanes.map (xfLane d a 0#8 1 (fun o x _ => sintV o x) e))
  | .cost d a => some (d, 1, fun e => e.lanes.map (xfLane d a 0#8 1 (fun o x _ => costV o x) e))
  | .exp2 d a => some (d, 1, fun e => e.lanes.map (xfLane d a 0#8 1 (fun o x _ => exp2V o x) e))
  | .log2 d a => some (d, 1, fun e => e.lanes.map (xfLane d a 0#8 1 (fun o x _ => log2V o x) e))
  | .rcp d a => some (d, 1, fun e => e.lanes.map (xfLane d a 0#8 1 (fun o x _ => rcpV o x) e))
  | .rsq d a => some (d, 1, fun e => e.lanes.map (xfLane d a 0#8 1 (fun o x _ => rsqV o x) e))
  | .sqrt d a => some (d, 1, fun e => e.lanes.map (xfLane d a 0#8 1 (fun _ x _ => fsqrt x) e))
  | .tanh d a => some (d, 1, fun e => e.lanes.map (xfLane d a 0#8 1 (fun o x _ => tanhV o x) e))
  | .divf d a b => some (d, 1, fun e => e.lanes.map (xfLane d a b 2 (fun _ x y => fdiv x y) e))
  | .ddiv d a b => some (d, 2, fun e => e.lanes.map (xfLane64 d a b 2 fdiv e))
  | .dsqrt d a => some (d, 2, fun e => e.lanes.map (xfLane64 d a 0#8 1 (fun x _ => fsqrt x) e))
  | .crc32c d a b => some (d, 1, fun e => e.lanes.map (crcLane d a b e))
  | .qpack d a f o => some (d, 2, fun e => (upTo 2).flatMap (qpackBlock d.toNat a.toNat (blockFmt f) (flag o) e))
  | .qunpk d a f => some (d, 1, fun e => e.lanes.map (qunpkLane d a f e))
  | .bscale d a f o => some (d, 1, fun e => (upTo 2).flatMap (bscaleBlock d.toNat a.toNat (blockFmt f) (flag o) e))
  | _ => none

/-- The register cells of lane results: V(d,i), and V(d+1,i) of a pair, keyed by register × 64 + lane. -/
def resultCells (e : Ex) (d : Nat) (outs : List LaneOut) : List (Nat × Cell) :=
  outs.flatMap fun o => (d * 64 + o.lane, (o.lo, resultTag e o)) ::
    (o.hi.map fun h => ((d + 1) * 64 + o.lane, (h, resultTag e o))).toList

/-- The exact value of a finite floating-point value. -/
def valueOf (v : FVal) : ℚ :=
  match v with
  | .fin s m e _ => (if s then -1 else 1) * (m : ℚ) * (2 : ℚ) ^ e
  | _ => 0

/-- A finite value with nothing left below its mantissa. -/
def isExact (v : FVal) : Bool :=
  match v with
  | .fin _ _ _ more => !more
  | _ => false

end Sys2Proof.Claims

/-- R38, R64, R174, R191, R395 and the frame of the floating-point, packed, dot, narrowing and conversion words, where nothing can be captured:
each active lane's destination takes its result with the produced tag, its events and births are recorded, its draws are kept, and
nothing else changes. -/
def Obligations.FloatWord : Prop :=
  ∀ s e i d f, exOf s = some e → runs s e i = true → captureOff s e = true → floatLane i = some (d, f) →
    ∃ t e', exec i s = .next t ∧ groupOnly s t e e' ∧
      e'.g = { e.g with vregs := e'.g.vregs, lstat := e'.g.lstat, dice := e'.g.dice } ∧
      (∀ j ∈ e.lanes, vreg e'.g d.toNat j = ((f e j).lo, resultTag e (f e j)) ∧
        ∀ h, (f e j).hi = some h → vreg e'.g (d.toNat + 1) j = (h, resultTag e (f e j))) ∧
      (∀ r j, j < 64 → ¬(j ∈ e.lanes ∧ (r = d.toNat ∨ (r = d.toNat + 1 ∧ (f e j).hi.isSome))) → vreg e'.g r j = vreg e.g r j) ∧
      (∀ j, lstatOf e'.g j = if j ∈ e.lanes then lstatOf e.g j ||| sticky (resultStatus (f e j)) else lstatOf e.g j) ∧
      ∀ j, diceOf e'.g j = if j ∈ e.lanes then (f e j).dice.getD (diceOf e.g j) else diceOf e.g j

/-- R197, R207 and the frame of FCLASS and DICE: FCLASS sets one bit by class, with Produce over a, and records no event; DICE takes one draw
of R19 per active lane and writes it, tagged own under the default rule and UNMARKED under the carry rules. MFSR of %dice takes no draw.
With legal operands both accept MOD TRULE and HINT. -/
def Obligations.ClassAndDice : Prop :=
  (∀ s e d a, exOf s = some e → runs s e (.fclass d a) = true →
    let x := fun j => operand e .fp32 a.toNat j (diceAfter e j [a])
    ∃ t e', exec (.fclass d a) s = .next t ∧ groupOnly s t e e' ∧
      e'.g = { e.g with vregs := e'.g.vregs, dice := e'.g.dice } ∧ vectorsBut e.g e'.g [d.toNat] e.lanes ∧
      (∀ j ∈ e.lanes, vreg e'.g d.toNat j = (BitVec.ofNat 32 (2 ^ classBit (x j).1.toNat),
        ruleTag (ruleOf e) .produce (own e) [(x j).2] (x j).2 0#16 (vreg e.g d.toNat j).2)) ∧
      ∀ j, diceOf e'.g j = if j ∈ e.lanes then diceAfter e j [a] else diceOf e.g j) ∧
  (∀ s e d, exOf s = some e → runs s e (.dice d) = true →
    let x := fun j =>
      let p := diceOf e.g j ^^^ (diceOf e.g j <<< 13)
      let q := p ^^^ (p >>> 17)
      q ^^^ (q <<< 5)
    ∃ t e', exec (.dice d) s = .next t ∧ groupOnly s t e e' ∧
      e'.g = { e.g with vregs := e'.g.vregs, dice := e'.g.dice } ∧ vectorsBut e.g e'.g [d.toNat] e.lanes ∧
      (∀ j ∈ e.lanes, vreg e'.g d.toNat j = (x j, ruleTag (ruleOf e) .produce (own e) [] 0#16 0#16 (vreg e.g d.toNat j).2)) ∧
      (∀ j ∈ e.lanes, (ruleOf e = 0 → (vreg e'.g d.toNat j).2 = own e) ∧ (ruleOf e = 2 ∨ ruleOf e = 3 → (vreg e'.g d.toNat j).2 = 0#16)) ∧
      ∀ j, diceOf e'.g j = if j ∈ e.lanes then x j else diceOf e.g j) ∧
  (∀ s e d, exOf s = some e → runs s e (.mfsr d 0x0D#8) = true →
    ∃ t e', exec (.mfsr d 0x0D#8) s = .next t ∧ groupOnly s t e e' ∧ ∀ j, diceOf e'.g j = diceOf e.g j) ∧
  (∀ d a, decode (0x67#8 ++ d ++ a ++ 0#8) = some (.fclass d a) ∧ decode (0x85#8 ++ d ++ 0#16) = some (.dice d)) ∧
  ∀ h imm mod hint d a, d.toNat < 0xC0 → d.toNat < h.regs → sourceIn h a.toNat →
    (legalWith h imm mod hint (.fclass d a) ↔
      (imm = 0#32 ∨ a = 0xF8#8) ∧ (mod = 0#32 ∨ truleAlone mod)) ∧
    (legalWith h imm mod hint (.dice d) ↔ imm = 0#32 ∧ (mod = 0#32 ∨ truleAlone mod))

/-- R209, R396 and the frame of the transform-pipe words, where nothing can be captured: the word issues, its draws are taken, and its
results, tags and events are held in flight until the pipe replies; no register, status bit or byte of memory changes before. -/
def Obligations.TransformWord : Prop :=
  ∀ s e i d n outs, exOf s = some e → runs s e i = true → captureOff s e = true → pipeResults i = some (d, n, outs) →
    ∃ t e' f, exec i s = .next t ∧ exOf t = some e' ∧ e'.lch = e.lch ∧ e'.tm = counted e.tm ∧
      e'.x = retired e.x (e.x.pc + 4#64) ∧ e'.g = { e.g with dice := e'.g.dice } ∧
      (∀ j, j ∉ e.lanes → diceOf e'.g j = diceOf e.g j) ∧
      (∀ o ∈ outs e, diceOf e'.g o.lane = o.dice.getD (diceOf e.g o.lane)) ∧
      t.mem = { s.mem with flights := s.mem.flights ++ [f] } ∧
      f.kind = .xform ∧ f.id = s.nextId ∧ f.tid = e.x.tid ∧ f.gi = e.x.gi ∧ f.rank = e.x.rank ∧ f.counter = none ∧
      f.cells = resultCells e d.toNat (outs e) ∧ f.regs = (List.range n).map (fun k => d.toNat + k) ∧
      f.events = ((outs e).map fun o => (o.lane, resultStatus o)).filter (fun w => w.2 ≠ 0#32) ∧
      t = { s with mem := t.mem, teams := t.teams, groups := t.groups, splits := t.splits, nextId := s.nextId + 1, fx := []
                   devFail := none } ∧
      (∀ tid, tid ≠ e.x.tid → findTeam t tid = findTeam s tid) ∧
      (∀ tid gi, ¬(tid = e.x.tid ∧ gi = e.x.gi) → findGroup t tid gi = findGroup s tid gi) ∧
      ∀ tid gi r, ¬(tid = e.x.tid ∧ gi = e.x.gi ∧ r = e.x.rank) → findSplit t tid gi r = findSplit s tid gi r

/-- R15, R16, R18, R191, R195: sums, differences, products and fused sums of finite operands are exact before the one rounding, and the first
NaN operand is the result, made quiet. Under RNE the rounded code of a finite value that does not overflow is no farther from it than any
finite code of the format. A value beyond the largest finite one becomes infinity or the largest finite value by its sign and mode;
under SAT always the latter. -/
def Obligations.Rounding : Prop :=
  ((∀ r x y, isExact x = true → isExact y = true →
    isExact (fadd r x y) = true ∧ valueOf (fadd r x y) = valueOf x + valueOf y ∧
    isExact (fsubV r x y) = true ∧ valueOf (fsubV r x y) = valueOf x - valueOf y ∧
    isExact (fmul x y) = true ∧ valueOf (fmul x y) = valueOf x * valueOf y) ∧
  (∀ r x y z, isExact x = true → isExact y = true → isExact z = true →
    isExact (ffma r x y z) = true ∧ valueOf (ffma r x y z) = valueOf x * valueOf y + valueOf z) ∧
  (∀ r x y, x.isNaN = true → fadd r x y = x.quiet ∧ fsubV r x y = x.quiet ∧ fmul x y = x.quiet) ∧
  (∀ r x y, x.isNaN = false → y.isNaN = true → fadd r x y = y.quiet ∧ fsubV r x y = y.quiet ∧ fmul x y = y.quiet) ∧
  ∀ r b y, isExact y = true → y.isZero = true →
    fadd r (.inf b) (.inf !b) = defaultNaN ∧ fmul (.inf b) y = defaultNaN ∧ fmul y (.inf b) = defaultNaN) ∧
  (∀ f sat (s : Bool) m e draw, (roundTo f .rne sat (.fin s m e false) draw).ovr = false →
    let r := decodeFp f (roundTo f .rne sat (.fin s m e false) draw).code
    isExact r = true ∧ ∀ c, c < 2 ^ f.bits → isExact (decodeFp f c) = true →
      |valueOf r - valueOf (.fin s m e false)| ≤ |valueOf (decodeFp f c) - valueOf (.fin s m e false)|) ∧
  (∀ f r sat (s : Bool) m e draw, f.hasInf = true → (roundTo f r sat (.fin s m e false) draw).ovr = true →
    (roundTo f r sat (.fin s m e false) draw).code =
      f.withSign s (if sat = true ∨ r = .rtz ∨ (r = .rdn ∧ s = false) ∨ (r = .rup ∧ s = true) then f.maxCode else f.infCode))

namespace Sys2Proof.Claims
open Sys2Proof.Machine

/-! ## Local loads and stores (R52, R158 to R163) -/

/-- The fields of a local load or store. -/
structure MemFields where
  space : Space
  store : Bool
  once : Bool
  d : BitVec 8
  a : BitVec 8
  w : BitVec 3
  o : BitVec 5

/-- The local loads and stores of R158: LDUL acts once for the split. -/
def localFields (i : Instr) : Option MemFields :=
  match i with
  | .ldl d a w o => some ⟨.ls, false, false, d, a, w, o⟩
  | .stl d a w o => some ⟨.ls, true, false, d, a, w, o⟩
  | .ldc d a w o => some ⟨.cl, false, false, d, a, w, o⟩
  | .stc d a w o => some ⟨.cl, true, false, d, a, w, o⟩
  | .lda d a w o => some ⟨.ab, false, false, d, a, w, o⟩
  | .sta d a w o => some ⟨.ab, true, false, d, a, w, o⟩
  | .ldk d a w o => some ⟨.cb, false, false, d, a, w, o⟩
  | .ldul d a w o => some ⟨.ls, false, true, d, a, w, o⟩
  | _ => none

/-- The bytes and the registers of a width code (R52). -/
def sizeOfWidth (w : BitVec 3) : Nat :=
  match w.toNat with | 0 => 1 | 1 => 1 | 2 => 2 | 3 => 2 | 4 => 4 | 5 => 8 | _ => 16
def regsOfWidth (w : BitVec 3) : Nat :=
  match w.toNat with | 5 => 2 | 6 => 4 | _ => 1

/-- R52's byte offset: off5, or imm24 : off5 behind an IMM prefix, in units of the access size. -/
def offsetBytes (e : Ex) (o : BitVec 5) (size : Nat) : Int :=
  (if e.x.imm = 0#32 then o.toInt else (e.x.imm.extractLsb' 0 24 ++ o).toInt) * size

/-- The team, offset and bound of a local access in a lane: the address of R159 as the meaning computes it. -/
def localAddr (s : State) (e : Ex) (f : MemFields) (j : Nat) : Option Nat × Int × Int :=
  localAt s e f.space (operand e .int f.a.toNat j 0#32).1 (offsetBytes e f.o (sizeOfWidth f.w))

/-- The lanes an access acts in. -/
def MemFields.lanes (f : MemFields) (e : Ex) : List Nat := if f.once then [0] else e.lanes

/-- Every lane's address is free of POISON, aligned and in bounds (R40, R160). -/
def localOk (s : State) (e : Ex) (f : MemFields) : Prop :=
  ∀ j ∈ f.lanes e, anyPoison e f.a.toNat j = false ∧ ∃ tid off bound, localAddr s e f j = (some tid, off, bound) ∧
    off % sizeOfWidth f.w = 0 ∧ 0 ≤ off ∧ off + sizeOfWidth f.w ≤ bound

/-- The counter of an access: loads, stores, or typed for AB and CB (R169). -/
def localCounter (f : MemFields) : Nat :=
  match f.space with | .ab | .cb => 3 | _ => if f.store then 1 else 0

/-- The word of a team's store. -/
def teamWord (s : State) (tid : Nat) (sp : Space) (w : Nat) : Cell :=
  ((findTeam s tid).map fun t => storeWord t sp.store w).getD (0#32, 0#16)

/-- Byte x of a store. -/
def storeByte (t : Team) (sp : Space) (x : Nat) : Byte :=
  ((storeWord t sp.store (x / 4)).1 >>> (8 * (x % 4))).extractLsb' 0 8

/-- R52's extension of the word at the address, whose byte b is the first of the access. -/
def extended (w : BitVec 3) (b : Nat) (x : Word) : Word :=
  match w.toNat with
  | 0 => ((x >>> (8 * b)).extractLsb' 0 8).setWidth 32
  | 1 => ((x >>> (8 * b)).extractLsb' 0 8).signExtend 32
  | 2 => ((x >>> (8 * b)).extractLsb' 0 16).setWidth 32
  | 3 => ((x >>> (8 * b)).extractLsb' 0 16).signExtend 32
  | _ => x

/-- Register k of a load of the words at f: its value and, for 64 bits, the summary of both words' tags (R41, R161). -/
def loadedCell (e : Ex) (w : BitVec 3) (b k : Nat) (f : Nat → Cell) (old : Tag) : Cell :=
  let t := if w = 5#3 then summarise [(f 0).2, (f 1).2] else (f k).2
  (extended w b (f k).1, ruleTag (ruleOf e) .carryA (own e) [t] t t old)

/-- Byte o of the data a store takes from d in a lane, and the tag of its word k (R162). -/
def dataByte (e : Ex) (d j o : Nat) : Byte := ((regCell e.g (d + o / 4) j).1 >>> (8 * (o % 4))).extractLsb' 0 8
def dataTag (e : Ex) (w : BitVec 3) (d j k : Nat) (old : Tag) : Tag :=
  let t := if w = 5#3 then (regCell e.g d j).2 else (regCell e.g (d + k) j).2
  ruleTag (ruleOf e) .carryA (own e) [t] t t old

end Sys2Proof.Claims

/-- R52, R158 to R161 and the frame of the local loads: with every address in order and the counter below 255, the destination
registers take the words at the address, extended and tagged as R161 says, and nothing else changes. That a load under CARRY-B keeps
the tag of the loaded word is the model's reading (log entry 14). -/
def Obligations.LocalLoad : Prop :=
  ∀ s e i f, exOf s = some e → runs s e i = true → localFields i = some f → f.store = false → localOk s e f →
    countOf e.g (localCounter f) < 255 →
    ∃ t e', exec i s = .next t ∧ groupOnly s t e e' ∧
      registersOnly e e' f.d.toNat (regsOfWidth f.w) fun k j =>
        let p := localAddr s e f j
        loadedCell e f.w (p.2.1.toNat % 4) k (fun k => teamWord s (p.1.getD 0) f.space (p.2.1.toNat / 4 + k))
          (regCell e.g (f.d.toNat + k) j).2

/-- R158 to R163 and the frame of the local stores: a byte that a lane's access covers takes the byte of such a lane, a word of LS
that it touches takes such a lane's tag, and every other byte and tag stays; no register changes. STC is a side effect of its team
(R362). Where one lane alone touches a granule of AB, its tag is Summarise over the words written and the old tag; where lanes touch all
sixteen words of it, each word by one lane, Summarise over the sixteen (R41). -/
def Obligations.LocalStore : Prop :=
  ∀ s e i f, exOf s = some e → runs s e i = true → localFields i = some f → f.store = true → localOk s e f →
    countOf e.g (localCounter f) < 255 →
    let covers := fun (tid x j : Nat) => j ∈ e.lanes ∧ (localAddr s e f j).1 = some tid ∧
      (localAddr s e f j).2.1.toNat ≤ x ∧ x < (localAddr s e f j).2.1.toNat + sizeOfWidth f.w
    let touches := fun (tid w j : Nat) => ∃ b, b < 4 ∧ covers tid (4 * w + b) j
    ∃ t e', exec i s = .next t ∧ exOf t = some e' ∧ e'.lch = e.lch ∧ e'.g = e.g ∧ e'.x = retired e.x (e.x.pc + 4#64) ∧
      t = { s with teams := t.teams, groups := t.groups, splits := t.splits, fresh := t.fresh, fx := [], devFail := none } ∧
      (∀ tid gi, findGroup t tid gi = findGroup s tid gi) ∧
      (∀ tid gi r, ¬(tid = e.x.tid ∧ gi = e.x.gi ∧ r = e.x.rank) → findSplit t tid gi r = findSplit s tid gi r) ∧
      ∀ tid u, findTeam s tid = some u → ∃ u', findTeam t tid = some u' ∧
        let v := if tid = e.x.tid then counted { u with sideEffect := u.sideEffect || f.space = .cl } else u
        (f.space = .ab → u' = { v with ab := u'.ab, abTags := u'.abTags }) ∧
        (f.space ≠ .ab → u' = { v with ls := u'.ls, lsOld := u'.lsOld }) ∧
        (∀ x, (∀ j, ¬covers tid x j) → storeByte u' f.space x = storeByte u f.space x) ∧
        (∀ x, (∃ j, covers tid x j) → ∃ j, covers tid x j ∧
          storeByte u' f.space x = dataByte e f.d.toNat j (x - (localAddr s e f j).2.1.toNat)) ∧
        (f.space ≠ .ab → ∀ w,
          ((∀ j, ¬touches tid w j) → (storeWord u' .ls w).2 = (storeWord u .ls w).2) ∧
          ((∃ j, touches tid w j) → ∃ j, touches tid w j ∧ (storeWord u' .ls w).2 =
            dataTag e f.w f.d.toNat j (w - (localAddr s e f j).2.1.toNat / 4) (storeWord u .ls w).2)) ∧
        (f.space = .ab → ∀ gr,
          ((∀ w j, w / 16 = gr → ¬touches tid w j) → granTag u' .ab gr = granTag u .ab gr) ∧
          ∀ w j, w / 16 = gr → touches tid w j → (∀ w' j', w' / 16 = gr → touches tid w' j' → j' = j) →
            granTag u' .ab gr = summarise (((List.range (regsOfWidth f.w)).map fun k =>
              dataTag e f.w f.d.toNat j k (granTag u .ab gr)) ++ [granTag u .ab gr])) ∧
        (f.space = .ab → ∀ gr, ∀ L : Nat → Nat,
          (∀ k, k < 16 → touches tid (16 * gr + k) (L k) ∧ ∀ j, touches tid (16 * gr + k) j → j = L k) →
          granTag u' .ab gr = summarise ((List.range 16).map fun k =>
            dataTag e f.w f.d.toNat (L k) (16 * gr + k - (localAddr s e f (L k)).2.1.toNat / 4) (granTag u .ab gr)))

/-- R166 and the frame of LADD: each word of LS gains the sum of the lanes that name it; a lane that alone names its word gives that
word Produce's tag and, where d is a register, takes the old cell. -/
def Obligations.LocalAdd : Prop :=
  ∀ s e d a b, exOf s = some e → runs s e (.ladd d a b) = true →
    (∀ j ∈ e.lanes, anyPoison e a.toNat j = false) →
    let va := fun j => (operand e .int a.toNat j 0#32).1.toNat
    let y := fun j => operand e .int b.toNat j (diceAfter e j [b])
    (∀ j ∈ e.lanes, va j % 4 = 0 ∧ va j + 4 ≤ e.lch.hdr.ls) → countOf e.g (if d = 0xF0#8 then 1 else 0) < 255 →
    let alone := fun (j : Nat) => ∀ k ∈ e.lanes, va k = va j → k = j
    ∃ t e', exec (.ladd d a b) s = .next t ∧ onlySplit { s with fresh := t.fresh } t e e' ∧
      e'.x = retired e.x (e.x.pc + 4#64) ∧ e'.tm = counted { e.tm with ls := e'.tm.ls } ∧
      e'.g = { e.g with vregs := e'.g.vregs, dice := e'.g.dice } ∧
      (∀ w, (storeWord e'.tm .ls w).1 = (storeWord e.tm .ls w).1 +
        ((e.lanes.filter fun j => va j = 4 * w).map fun j => (y j).1).foldl (· + ·) 0#32) ∧
      (∀ w, (∀ j ∈ e.lanes, va j ≠ 4 * w) → (storeWord e'.tm .ls w).2 = (storeWord e.tm .ls w).2) ∧
      (∀ j ∈ e.lanes, alone j → let old := storeWord e.tm .ls (va j / 4)
        (storeWord e'.tm .ls (va j / 4)).2 =
          ruleTag (ruleOf e) .produce (own e) (old.2 :: if b.toNat < 0xF0 then [(y j).2] else []) old.2 (y j).2 old.2 ∧
        (d ≠ 0xF0#8 → vreg e'.g d.toNat j = old)) ∧
      vectorsBut e.g e'.g (if d = 0xF0#8 then [] else [d.toNat]) e.lanes ∧
      ∀ j, diceOf e'.g j = if j ∈ e.lanes then diceAfter e j [b] else diceOf e.g j

namespace Sys2Proof.Claims
open Sys2Proof.Machine

/-! ## Global accesses (R93 to R107, R158 to R168, R378 to R380) -/

/-- Memory at rest: no word in an L1, no granule of DRAM in error, no monitor set. -/
def stillMemory (s : State) : Prop :=
  s.mem.l1 = [] ∧ s.mem.uncorr = [] ∧ s.mem.soft = [] ∧ s.mem.monitors = []

/-- A core's port at rest (R89): no request of it is outstanding and none waits for a number, and no load of the team that a save may
still drop is in flight. -/
def portFree (s : State) (e : Ex) : Prop :=
  s.mem.portWait = [] ∧ ∀ f ∈ s.mem.flights, (f.core = e.tm.core → f.chans = []) ∧ (f.tid = e.x.tid → f.again = [])

/-- The line of a word may take word tags: it is not uniform MIXED, which a write of one word leaves as it is (R42, log entry 15). -/
def takesTags (m : Mem) (pa : Nat) : Prop :=
  (mapGet {} m.tags (pa / 64)).vec = true ∨ (mapGet {} m.tags (pa / 64)).tag ≠ 0xFF01#16

/-- A launch without staged writes: not a replayable node. -/
def unstaged (e : Ex) : Prop := (e.lch.node && e.lch.replayable) = false

/-- The frame of a word that completes at PC + 4 and touches memory: beside its split, group and team only memory and the model's
counters change. -/
def memoryFrame (s t : State) (e e' : Ex) : Prop :=
  exOf t = some e' ∧ e'.lch = e.lch ∧ e'.x = retired e.x (e.x.pc + 4#64) ∧
  t = { s with mem := t.mem, teams := t.teams, groups := t.groups, splits := t.splits, fresh := t.fresh
               nextId := t.nextId, fx := [], devFail := none } ∧
  (∀ tid, tid ≠ e.x.tid → findTeam t tid = findTeam s tid) ∧
  (∀ tid gi, ¬(tid = e.x.tid ∧ gi = e.x.gi) → findGroup t tid gi = findGroup s tid gi) ∧
  ∀ tid gi r, ¬(tid = e.x.tid ∧ gi = e.x.gi ∧ r = e.x.rank) → findSplit t tid gi r = findSplit s tid gi r

/-- The global loads and stores: LDU acts once, LDACQ acquires, STREL releases. -/
def globalFields (i : Instr) : Option MemFields :=
  match i with
  | .ldg d a w o | .ldacq d a w o => some ⟨.glob, false, false, d, a, w, o⟩
  | .ldu d a w o => some ⟨.glob, false, true, d, a, w, o⟩
  | .stg d a w o | .strel d a w o => some ⟨.glob, true, false, d, a, w, o⟩
  | _ => none

/-- R159's address of a lane. -/
def globalAddr (e : Ex) (f : MemFields) (j : Nat) : DWord :=
  (operand64 e false f.a.toNat j).1 + BitVec.ofInt 64 (offsetBytes e f.o (sizeOfWidth f.w))

/-- A lane's access is in order (R160): no POISON in its address, canonical, aligned, and translated for its kind. -/
def lanePlaced (s : State) (e : Ex) (code size kind : Nat) (va : DWord) (t : Target) (j : Nat) : Prop :=
  anyPoison e code j = false ∧ canonical va = true ∧ va.toNat % size = 0 ∧ translate s e.tm.core e.lch.ctx va kind = .ok t

/-- The operation in flight that a word of a split adds, with its counter (R89, R169). -/
def flightAdded (s t : State) (e : Ex) (f : Flight) (kind : FlightKind) (k : Nat) : Prop :=
  t.mem.flights = s.mem.flights ++ [f] ∧ t.nextId = s.nextId + 1 ∧ f.id = s.nextId ∧ f.kind = kind ∧ f.tid = e.x.tid ∧
  f.gi = e.x.gi ∧ f.rank = e.x.rank ∧ f.pc = e.x.pc ∧ f.counter = some k ∧ f.events = [] ∧ f.replay = false

/-- The cell of the word at a target (R43, R85): host memory is tagged HOST, and so is a page with HOSTSHARED. -/
def cellAt (s : State) (t : Target) (k : Nat) : Cell :=
  if t.tier = 2 then (BitVec.ofNat 32 (readNum s.mem.hostMem (t.pa / 4 * 4 + 4 * k) 4), 0xFF03#16)
  else
    let c := homeCell s.mem (t.pa / 4 * 4 + 4 * k)
    (c.1, if t.hostShared then 0xFF03#16 else c.2)

/-- The byte of device memory that a coherent observer reads: an owned copy's before its home's (R374). -/
def coherentByte (m : Mem) (x : Nat) : Byte := ((peekCell m (x / 4 * 4)).1 >>> (8 * (x % 4))).extractLsb' 0 8

/-- The word of device memory as a core itself reads it: its own owned copy before what every agent sees (R164, R374). -/
def coreCell (m : Mem) (core x : Nat) : Cell :=
  let q := l1Get m core (x / 4 * 4)
  if q.owned then (q.val, q.tag) else peekCell m (x / 4 * 4)
def coreByte (m : Mem) (core x : Nat) : Byte := ((coreCell m core x).1 >>> (8 * (x % 4))).extractLsb' 0 8

/-- The links after accesses of a kind have been sent to other devices in order (R286, R287). -/
def sentAll (s : State) (l : List (Nat × Nat × Nat × List Cell)) : Dev :=
  (l.foldl (fun s m => sendAccess s m.1 m.2.1 m.2.2.1 m.2.2.2) s).dev

/-- The atomics of R97. -/
def atomicFields (i : Instr) : Option (AtomOp × BitVec 8 × BitVec 7 × BitVec 1 × BitVec 8) :=
  match i with
  | .atomAdd d a w b => some (.add, d, a, w, b)
  | .atomFadd d a w b => some (.fadd, d, a, w, b)
  | .atomMin d a w b => some (.min, d, a, w, b)
  | .atomMax d a w b => some (.max, d, a, w, b)
  | .atomMinu d a w b => some (.minu, d, a, w, b)
  | .atomMaxu d a w b => some (.maxu, d, a, w, b)
  | .atomAnd d a w b => some (.and, d, a, w, b)
  | .atomOr d a w b => some (.or, d, a, w, b)
  | .atomXor d a w b => some (.xor, d, a, w, b)
  | .atomExch d a w b => some (.exch, d, a, w, b)
  | .atomCas d a w b => some (.cas, d, a, w, b)
  | .atomInc d a w b => some (.inc, d, a, w, b)
  | _ => none

/-- R97's new value at n bits; the floating-point add is one exact sum rounded to nearest (R18). -/
def atomicValue (op : AtomOp) (n : Nat) (ftz : Bool) (old b : Nat) : Nat :=
  match op with
  | .add => (old + b) % 2 ^ n
  | .min => if (BitVec.ofNat n b).toInt < (BitVec.ofNat n old).toInt then b else old
  | .max => if (BitVec.ofNat n old).toInt < (BitVec.ofNat n b).toInt then b else old
  | .minu => min old b
  | .maxu => max old b
  | .and => (BitVec.ofNat n old &&& BitVec.ofNat n b).toNat
  | .or => (BitVec.ofNat n old ||| BitVec.ofNat n b).toNat
  | .xor => (BitVec.ofNat n old ^^^ BitVec.ofNat n b).toNat
  | .exch => b
  | .cas => b
  | .inc => if old ≥ b then 0 else old + 1
  | .fadd => (atomNew .fadd n ftz old b).1

end Sys2Proof.Claims

/-- R89, R158 to R161, R169, R287, R378 and the frame of LDG, LDU and LDACQ: with every lane in order the load is counted and in flight;
no register changes before its reply. Of memory at rest, what the reply will write is the cells at the lanes' targets, extended and
tagged by R161, and no byte or tag of memory changes; lanes that all lie on another device are asked of it (a word whose
lanes lie here and there is not stated here). LDACQ's reply completes an acquire. With A empty nothing is loaded. That a load under
CARRY-B keeps the tag of the loaded word is the model's reading (log entry 14). -/
def Obligations.GlobalLoad : Prop :=
  ∀ s e i f, exOf s = some e → runs s e i = true → globalFields i = some f → f.store = false →
    ∀ T : Nat → Target,
    (∀ j ∈ f.lanes e, lanePlaced s e f.a.toNat (sizeOfWidth f.w) 1 (globalAddr e f j) (T j) j) → e.g.loads < 255 →
    (f.lanes e = [] → ∃ t e', exec i s = .next t ∧ memoryFrame s t e e' ∧ e'.g = e.g ∧ e'.tm = counted e.tm ∧
      t.mem = { s.mem with l1 := t.mem.l1 }) ∧
    (f.lanes e ≠ [] → unstaged e → stillMemory s → portFree s e → (∀ j ∈ f.lanes e, isRemote s (T j) = false) →
      ∃ t e' l, exec i s = .next t ∧ memoryFrame s t e e' ∧ e'.g = { e.g with loads := e.g.loads + 1 } ∧ e'.tm = counted e.tm ∧
        flightAdded s t e l .load 0 ∧ l.regs = (List.range (regsOfWidth f.w)).map (fun k => f.d.toNat + k) ∧
        (l.acquire = true ↔ ∃ d a w o, i = .ldacq d a w o) ∧ l.isRemote = false ∧
        t.mem = { s.mem with l1 := t.mem.l1, l2 := t.mem.l2, writeBacks := t.mem.writeBacks, flights := t.mem.flights } ∧
        (∀ x, peekCell t.mem x = peekCell s.mem x) ∧
        (∀ c, c ∈ (if f.d.toNat < 0xC0 then l.cells else l.scalars) ↔ ∃ j ∈ f.lanes e, ∃ k, k < regsOfWidth f.w ∧
          c = (if f.d.toNat < 0xC0 then (f.d.toNat + k) * 64 + j else f.d.toNat - 0xC0 + k,
            loadedCell e f.w ((T j).pa % 4) k (cellAt s (T j)) (regCell e.g (f.d.toNat + k) j).2)) ∧
        (if f.d.toNat < 0xC0 then l.scalars else l.cells) = []) ∧
    (f.lanes e ≠ [] → (∀ j ∈ f.lanes e, isRemote s (T j) = true) → (∀ x ∈ s.mem.flights, x.tid = e.x.tid → x.again = []) →
      ∃ t e' l, exec i s = .next t ∧ exOf t = some e' ∧ e'.x = retired e.x (e.x.pc + 4#64) ∧
        e'.g = { e.g with loads := e.g.loads + 1 } ∧ e'.tm = counted e.tm ∧ flightAdded s t e l .load 0 ∧ l.isRemote = true ∧
        l.cells = [] ∧ l.scalars = [] ∧ t.mem = { s.mem with flights := t.mem.flights } ∧
        t = { s with mem := t.mem, dev := t.dev, teams := t.teams, groups := t.groups, splits := t.splits, fresh := t.fresh
                     nextId := t.nextId, fx := [], devFail := none } ∧
        t.dev = sentAll s ((f.lanes e).map fun j => ((T j).dev, 0, (T j).pa, List.replicate (regsOfWidth f.w) (0#32, 0#16))))

/-- R89, R158 to R163, R169, R362, R371, R375, R379 and the frame of STG and STREL of a launch that stages nothing, with memory and the
port at rest: once a release may go, the store is counted and its acknowledgement in flight; a byte that lanes cover holds one of theirs
as its core reads it, a touched word of the device takes such a lane's tag, and all else stays. Every other agent sees the word so too,
or, where its registration awaits the acknowledgement, as it was. No L1 set is to take more than eight lines, so that every word stays
owned. With A empty nothing is stored. A store to other devices, each lane on a word of its own, is sent to them and awaited. -/
def Obligations.GlobalStore : Prop :=
  ∀ s e i f, exOf s = some e → runs s e i = true → globalFields i = some f → f.store = true →
    ∀ T : Nat → Target,
    (∀ j ∈ e.lanes, lanePlaced s e f.a.toNat (sizeOfWidth f.w) 2 (globalAddr e f j) (T j) j ∧
      ∀ k, k < regsOfWidth f.w → (f.w = 5#3 ∧ k = 1) ∨ (regCell e.g (f.d.toNat + k) j).2 ≠ 0xFF00#16) →
    ((∃ d a w o, i = .strel d a w o) → released s e (scopeOf e) = true) →
    (e.lanes = [] → ∃ t e', exec i s = .next t ∧ groupOnly s t e e' ∧ e'.g = e.g) ∧
    (e.lanes ≠ [] → e.g.stores < 255 → unstaged e → stillMemory s → portFree s e → (∀ j ∈ e.lanes, (T j).tier < 3) →
      (∀ set, (((e.lanes.filter fun j => (T j).tier < 2).map fun j => (T j).pa / 64).dedup.filter fun l => l % 256 = set).length ≤ 8) →
      let covers := fun (host : Bool) (x j : Nat) => j ∈ e.lanes ∧ ((T j).tier = 2 ↔ host = true) ∧ (T j).pa ≤ x ∧
        x < (T j).pa + sizeOfWidth f.w
      let touches := fun (w j : Nat) => ∃ b, b < 4 ∧ covers false (4 * w + b) j
      ∃ t e' l, exec i s = .next t ∧ memoryFrame s t e e' ∧ e'.g = { e.g with stores := e.g.stores + 1 } ∧
        e'.tm = counted { e.tm with sideEffect := true } ∧ flightAdded s t e l .store 1 ∧
        t.mem = { s.mem with
          l1 := t.mem.l1, l2 := t.mem.l2, writeBacks := t.mem.writeBacks, hostMem := t.mem.hostMem, flights := t.mem.flights } ∧
        (∀ x, (∀ j, ¬covers false x j) → coreByte t.mem e.tm.core x = coreByte s.mem e.tm.core x) ∧
        (∀ x, (∃ j, covers false x j) → ∃ j, covers false x j ∧
          coreByte t.mem e.tm.core x = dataByte e f.d.toNat j (x - (T j).pa)) ∧
        (∀ x, peekCell t.mem (4 * x) = coreCell t.mem e.tm.core (4 * x) ∨
          ((e.tm.core, 4 * x) ∈ l.unreg ∧ peekCell t.mem (4 * x) = peekCell s.mem (4 * x))) ∧
        (∀ x, (∀ j, ¬covers true x j) → readByte t.mem.hostMem x = readByte s.mem.hostMem x) ∧
        (∀ x, (∃ j, covers true x j) → ∃ j, covers true x j ∧ readByte t.mem.hostMem x = dataByte e f.d.toNat j (x - (T j).pa)) ∧
        (∀ w, (∀ j, ¬touches w j) → (coreCell t.mem e.tm.core (4 * w)).2 = (coreCell s.mem e.tm.core (4 * w)).2) ∧
        ∀ w, (∃ j, touches w j) → ∃ j, touches w j ∧ (coreCell t.mem e.tm.core (4 * w)).2 =
          dataTag e f.w f.d.toNat j (w - (T j).pa / 4) (peekCell s.mem (4 * w)).2) ∧
    (e.lanes ≠ [] → e.g.stores < 255 → unstaged e → (∀ j ∈ e.lanes, isRemote s (T j) = true) → f.w = 4#3 → ruleOf e ≠ 4 →
      (∀ x ∈ s.mem.flights, x.tid = e.x.tid → x.again = []) → (e.lanes.map fun j => homeKey s (T j) / 4).Nodup →
      ∃ t e' l, exec i s = .next t ∧ exOf t = some e' ∧ e'.x = retired e.x (e.x.pc + 4#64) ∧
        e'.g = { e.g with stores := e.g.stores + 1 } ∧ e'.tm = counted { e.tm with sideEffect := true } ∧
        flightAdded s t e l .store 1 ∧ l.isRemote = true ∧ t.mem = { s.mem with flights := t.mem.flights } ∧
        t = { s with mem := t.mem, dev := t.dev, teams := t.teams, groups := t.groups, splits := t.splits, fresh := t.fresh
                     nextId := t.nextId, fx := [], devFail := none } ∧
        t.dev = sentAll s (e.lanes.map fun j => ((T j).dev, 1, (T j).pa,
          [((regCell e.g f.d.toNat j).1, dataTag e f.w f.d.toNat j 0 (regCell e.g f.d.toNat j).2)])))

/-- R93 to R98, R169, R362 and the frame of the atomics on this device's memory, each active lane on words of its own, with memory and the
port at rest: every word takes R97's new value at its home, except behind a POISON word or a CAS that fails; the old words are in flight
to d with their summarised tag; FADD's events are recorded; the words take R98's tag, KEEP leaving each as it is (log entry 22), in
lines that take word tags, tag vectors being free; no other byte or tag of memory and no other register changes. -/
def Obligations.Atomic : Prop :=
  ∀ s e i op d a w b, exOf s = some e → runs s e i = true → atomicFields i = some (op, d, a, w, b) →
    let n := if w = 1#1 then 2 else 1
    let ret := d ≠ 0xF0#8
    let arg := fun j => atomArg e op (w = 1#1) b.toNat j
    ∀ T : Nat → Target,
    (∀ j ∈ e.lanes, lanePlaced s e (2 * a.toNat) (4 * n) 2 (operand64 e false (2 * a.toNat) j).1 (T j) j ∧ (T j).tier < 2 ∧
      0xFF00#16 ∉ (arg j).tags) →
    (e.lanes = [] → ∃ t e', exec i s = .next t ∧ groupOnly s t e e' ∧ e'.g = e.g) ∧
    (e.lanes ≠ [] → countOf e.g (if ret then 0 else 1) < 255 → unstaged e → stillMemory s → portFree s e →
      (∀ j ∈ e.lanes, ∀ k ∈ e.lanes, (T j).pa = (T k).pa → j = k) → (∀ j ∈ e.lanes, takesTags s.mem (T j).pa) →
      (∀ j ∈ e.lanes, mapGet 0 s.mem.poolUsed (stackOf (T j).pa) + 128 ≤ poolSize (stackOf (T j).pa)) →
      let cell := fun j k => cellAt s (T j) k
      let told := fun j => summarise ((List.range n).map fun k => (cell j k).2)
      let old := fun j => readNum s.mem.bytes (T j).pa (4 * n)
      let stays := fun j => told j = 0xFF00#16 ∨ (op = .cas ∧ old j ≠ (arg j).cmp)
      let evs := fun j => (atomNew op (32 * n) e.lch.ftz (old j) (arg j).val).2
      ∃ t e' l, exec i s = .next t ∧ memoryFrame s t e e' ∧ e'.tm = counted { e.tm with sideEffect := true } ∧
        e'.g = withCount { e.g with lstat := e'.g.lstat, dice := e'.g.dice } (if ret then 0 else 1) (countOf e.g (if ret then 0 else 1) + 1) ∧
        (∀ j, diceOf e'.g j = if j ∈ e.lanes then (arg j).dice else diceOf e.g j) ∧
        (∀ j, lstatOf e'.g j = if j ∈ e.lanes ∧ ¬stays j then lstatOf e.g j |||
          sticky ((if (evs j).inv then 0x01#32 else 0#32) ||| (if (evs j).ovf then 0x04#32 else 0#32) |||
            if (evs j).unf then 0x08#32 else 0#32) else lstatOf e.g j) ∧
        t.mem = { s.mem with
          bytes := t.mem.bytes, tags := t.mem.tags, poolUsed := t.mem.poolUsed, mixedCnt := t.mem.mixedCnt, l2 := t.mem.l2,
          writeBacks := t.mem.writeBacks, flights := s.mem.flights ++ [l] } ∧
        l.kind = (if ret then .load else .store) ∧ l.counter = some (if ret then 0 else 1) ∧ l.tid = e.x.tid ∧ l.gi = e.x.gi ∧
        l.rank = e.x.rank ∧ l.regs = (if ret then (List.range n).map fun k => d.toNat + k else []) ∧
        (∀ c, c ∈ l.cells ↔ ret ∧ ∃ j ∈ e.lanes, ∃ k, k < n ∧ c = ((d.toNat + k) * 64 + j,
          if told j = 0xFF00#16 then (0#32, 0xFF00#16) else ((cell j k).1, told j))) ∧
        (∀ j ∈ e.lanes, readNum t.mem.bytes (T j).pa (4 * n) =
          if stays j then old j else atomicValue op (32 * n) e.lch.ftz (old j) (arg j).val) ∧
        (∀ x, (∀ j ∈ e.lanes, ¬((T j).pa ≤ x ∧ x < (T j).pa + 4 * n)) → readByte t.mem.bytes x = readByte s.mem.bytes x) ∧
        (∀ x, (∀ j ∈ e.lanes, stays j ∨ ¬((T j).pa / 4 ≤ x / 4 ∧ x / 4 < (T j).pa / 4 + n)) → memTag t.mem x = memTag s.mem x) ∧
        ∀ j ∈ e.lanes, ¬stays j → ∀ k, k < n → memTag t.mem ((T j).pa + 4 * k) =
          if ruleOf e = 0 ∧ (op = .exch ∨ op = .cas) then (arg j).tag
          else ruleTag (ruleOf e) .produce (own e) (told j :: (arg j).srcs) (told j) (arg j).tag
            (homeCell s.mem ((T j).pa + 4 * k)).2)

/-- R89, R167 to R170, R375, R380 and the frame of FENCE, PREF, CCTL and WAITN: each completes once nothing holds it, the port at rest for
PREF and CCTL, and then changes no register and no word that an agent reads. An acquiring FENCE at CLU scope or wider drops every non-owned word of the core's L1; CCTL is counted
under stores, and of the lines it names CLEAN leaves no owned word, INVAL no non-owned one, FLUSH neither, and the other lines stay. -/
def Obligations.FenceAndCache : Prop :=
  (∀ s e k, exOf s = some e → runs s e (.fence k) = true →
    (k.getLsbD 1 = true → released s e (scopeOf e) = true) →
    (k.getLsbD 0 = true → ∀ f ∈ s.mem.flights, f.tid = e.x.tid → f.gi = e.x.gi → f.rank = e.x.rank → f.kind ≠ .load) →
    ∃ t e', exec (.fence k) s = .next t ∧ memoryFrame s t e e' ∧ e'.g = e.g ∧ e'.tm = counted e.tm ∧
      t.mem = { s.mem with l1 := t.mem.l1 } ∧
      (mapWf ({} : L1Word) s.mem.l1 = true → ∀ x, peekCell t.mem x = peekCell s.mem x) ∧
      t.mem.l1 = (if k.getLsbD 0 = true ∧ (modScope e = 0 ∨ 3 ≤ modScope e) then
        s.mem.l1.filter (fun x => !(x.1 / 2 ^ 48 = e.tm.core && !x.2.owned)) else s.mem.l1)) ∧
  (∀ s e l a o, exOf s = some e → runs s e (.pref l a o) = true → (∀ j ∈ e.lanes, anyPoison e a.toNat j = false) → stillMemory s →
    portFree s e → ∃ t e', exec (.pref l a o) s = .next t ∧ memoryFrame s t e e' ∧ e'.g = e.g ∧ e'.tm = counted e.tm ∧
      t.mem = { s.mem with l1 := t.mem.l1, l2 := t.mem.l2, writeBacks := t.mem.writeBacks } ∧
      ∀ x, peekCell t.mem x = peekCell s.mem x) ∧
  (∀ s e c a, exOf s = some e → runs s e (.cctl c a) = true →
    (a ≠ 0xF0#8 → ∀ j ∈ e.lanes, anyPoison e a.toNat j = false) → e.g.stores < 255 → portFree s e → s.mem.monitors = [] →
    s.mem.uncorr = [] → s.mem.soft = [] → mapWf ({} : L1Word) s.mem.l1 = true → memoryWf s.mem.bytes = true →
    (∀ x ∈ s.mem.l1, x.2.unreg = false ∧ (x.2.owned = true → x.2.valid = true)) → (∀ x, (ownersOf s.mem x).length ≤ 1) →
    let named := fun (line : Nat) => a = 0xF0#8 ∨
      ∃ T ∈ softTargets s e 0 (e.lanes.map fun j => (j, (operand64 e false a.toNat j).1)), T.tier < 2 ∧ T.pa / 64 = line
    ∃ t e' l, exec (.cctl c a) s = .next t ∧ memoryFrame s t e e' ∧ e'.g = { e.g with stores := e.g.stores + 1 } ∧
      e'.tm = counted e.tm ∧ flightAdded s t e l .store 1 ∧
      t.mem = { s.mem with
        l1 := t.mem.l1, l2 := t.mem.l2, writeBacks := t.mem.writeBacks, bytes := t.mem.bytes, tags := t.mem.tags
        poolUsed := t.mem.poolUsed, mixedCnt := t.mem.mixedCnt, flights := t.mem.flights } ∧
      (∀ x, x < 2 ^ 50 → coherentByte t.mem x = coherentByte s.mem x) ∧
      ∀ w, w < 2 ^ 48 →
        let x := l1Get t.mem e.tm.core (4 * w)
        (named (w / 16) → (c ≠ 1#4 → x.owned = false) ∧ (c ≠ 0#4 → x.owned = false → x.valid = false)) ∧
        (¬named (w / 16) → x = l1Get s.mem e.tm.core (4 * w))) ∧
  ∀ s e l t c y, exOf s = some e → runs s e (.waitn l t c y) = true →
    (l.toNat = 63 ∨ e.g.loads ≤ l.toNat) → (t.toNat = 63 ∨ e.g.stores ≤ t.toNat) → (c.toNat = 63 ∨ e.g.copies ≤ c.toNat) →
    (y.toNat = 63 ∨ e.g.typed ≤ y.toNat) →
    ∃ q e', exec (.waitn l t c y) s = .next q ∧ groupOnly s q e e' ∧ e'.g = e.g

/-- R99 to R102, R375, R396 and the frame of LOCK and UNLOCK on this device's HBM4E, with memory and the port at rest: a free lock is taken,
whatever the word holds (the unit's own state alone says that a lock is held: the model's choice, log entry 21),
its word becomes the holder's value tagged own, and the LOCK is an acquire at its scope; a LOCK of a held lock joins its waiters while a
waiter entry is free. UNLOCK by the holder, once released, clears the word or hands lock and word to the oldest waiter, whose LOCK then
completes. UNIF is recorded where the active lanes' addresses differ; with A empty and a vector address nothing happens. -/
def Obligations.LockWord : Prop :=
  ∀ s e i a, exOf s = some e → runs s e i = true → i = .lock a ∨ i = .unlock a →
    (a.toNat < 0xC0 → e.lanes = [] → ∃ t e', exec i s = .next t ∧ groupOnly s t e e' ∧ e'.g = e.g) ∧
    ∀ l T, (if 0xC0 ≤ a.toNat then some 0 else e.lanes.head?) = some l →
    lanePlaced s e a.toNat 4 2 (operand64 e false a.toNat l).1 T l → T.tier = 0 → unstaged e → stillMemory s → portFree s e →
    let differ := fun (e : Ex) (a : BitVec 8) =>
      e.lanes.any fun j => some (operand64 e false a.toNat j).1 ≠ e.lanes.head?.map fun k => (operand64 e false a.toNat k).1
    let word := fun (o g : Nat) => (o * 32 + g) % 0xFFFFFFFF + 1
    let goes := fun (p : State → Ex → Prop) (v extra : Nat) => ∃ t e', exec i s = .next t ∧ exOf t = some e' ∧ e'.lch = e.lch ∧
      e'.x = retired e.x (e.x.pc + 4#64) ∧ e'.tm = { e.tm with sideEffect := true, retWords := e.tm.retWords + 1 + extra } ∧
      e'.g = { e.g with lstat := e'.g.lstat } ∧
      (∀ j, lstatOf e'.g j = if differ e a = true ∧ j ∈ e.lanes then lstatOf e.g j ||| sticky 0x20#32 else lstatOf e.g j) ∧
      readNum t.mem.bytes T.pa 4 = v ∧ (∀ x, ¬(T.pa ≤ x ∧ x < T.pa + 4) → readByte t.mem.bytes x = readByte s.mem.bytes x) ∧
      (mapGet 0 s.mem.poolUsed (stackOf T.pa) < poolSize (stackOf T.pa) → takesTags s.mem T.pa → memTag t.mem T.pa = own e) ∧
      t.mem = { s.mem with
        bytes := t.mem.bytes, tags := t.mem.tags, poolUsed := t.mem.poolUsed, mixedCnt := t.mem.mixedCnt, l2 := t.mem.l2,
        writeBacks := t.mem.writeBacks, locks := t.mem.locks } ∧
      t = { s with mem := t.mem, teams := t.teams, groups := t.groups, splits := t.splits, fresh := t.fresh, fx := [],
                   devFail := none } ∧ p t e'
    (i = .lock a → (∀ q ∈ s.mem.locks, q.pa ≠ T.pa) →
      goes (fun t _ => t.mem.locks = s.mem.locks ++ [⟨T.pa, e.lch.ctx, e.tm.ordinal, e.g.gi, e.lch.id, [], none⟩])
        (word e.tm.ordinal e.g.gi) 0) ∧
    (i = .lock a → ∀ q, lockAt s.mem T.pa none = some q →
      ¬(q.ctx = e.lch.ctx ∧ q.ordinal = e.tm.ordinal ∧ q.gi = e.g.gi) → slotsUsed s.mem T.pa < 64 →
      ∃ t e', exec i s = .next t ∧ exOf t = some e' ∧ e'.g = e.g ∧ e'.tm = { e.tm with sideEffect := true } ∧
        e'.x = { e.x with st := .parked, prev := e.x.st, park := .lock, parkKey := a.toNat } ∧
        t.mem = { s.mem with locks := t.mem.locks } ∧ lockAt t.mem T.pa none =
          some { q with waiters := q.waiters ++ [.split e.x.tid e.x.gi e.x.rank] }) ∧
    (i = .unlock a → ∀ q, lockAt s.mem T.pa none = some q → q.ctx = e.lch.ctx → q.ordinal = e.tm.ordinal →
      q.gi = e.g.gi → released s e (scopeOf e) = true →
      (q.waiters = [] → goes (fun t _ => t.mem.locks = s.mem.locks.filter fun q => !(q.pa = T.pa && q.stage = none)) 0 0) ∧
      ∀ tid gi rank ws h, q.waiters = .split tid gi rank :: ws → exAt s tid gi rank = some h →
        ¬(tid = e.x.tid ∧ gi = e.x.gi) → h.x.parkKey < 256 → watchesOff s h.tm.core = true →
        let b := BitVec.ofNat 8 h.x.parkKey
        goes (fun t _ => lockAt t.mem T.pa none = some ⟨T.pa, h.lch.ctx, h.tm.ordinal, h.g.gi, h.lch.id, ws, none⟩ ∧
            findSplit t tid gi rank =
              some { retired h.x (h.x.pc + 4#64) with st := h.x.prev, park := .none, parkKey := 0 } ∧
            ∃ g, findGroup t tid gi = some g ∧ g = { h.g with lstat := g.lstat } ∧
              ∀ j, lstatOf g j = if differ h b = true ∧ j ∈ h.lanes then lstatOf h.g j ||| sticky 0x20#32 else lstatOf h.g j)
          (word h.tm.ordinal h.g.gi) (if tid = e.x.tid then 1 else 0))

/-- R104 to R106, R375, R396 and the frame of WAITC whose condition holds at the word's home, with memory and the port at rest: it completes as an acquire
and writes neither a register nor memory; UNIF is recorded where the active lanes' addresses or values differ. %lane and %dice count as
vector values (log entry 23). -/
def Obligations.WaitCondition : Prop :=
  ∀ s e c u a b, exOf s = some e → runs s e (.waitc c u a b) = true →
    let vec := a.toNat < 0xC0 || b.toNat < 0xC0 || b = 0xF5#8 || b = 0xF7#8
    (vec = true → e.lanes = [] → ∃ t e', exec (.waitc c u a b) s = .next t ∧ groupOnly s t e e' ∧ e'.g = e.g) ∧
    ∀ l T, (if vec then e.lanes.head? else some 0) = some l →
    lanePlaced s e a.toNat 4 1 (operand64 e false a.toNat l).1 T l → anyPoison e b.toNat l = false → T.tier = 0 → unstaged e →
    stillMemory s → portFree s e →
    let va := fun j => (operand64 e false a.toNat j).1
    let val := fun j => (operand e .int b.toNat j 0#32).1
    let w := (homeCell s.mem T.pa).1
    let differ := e.lanes.any fun j => some (va j, val j) ≠ e.lanes.head?.map fun k => (va k, val k)
    (cellAt s T 0).2 ≠ 0xFF00#16 →
    (if u = 1#1 then intCondition c w.toInt (val l).toInt else intCondition c w.toNat (val l).toNat) = true →
    ∃ t e', exec (.waitc c u a b) s = .next t ∧ memoryFrame s t e e' ∧ e'.tm = counted e.tm ∧
      e'.g = { e.g with lstat := e'.g.lstat } ∧
      (∀ j, lstatOf e'.g j = if differ = true ∧ j ∈ e.lanes then lstatOf e.g j ||| sticky 0x20#32 else lstatOf e.g j) ∧
      t.mem = { s.mem with l2 := t.mem.l2, writeBacks := t.mem.writeBacks }

/-- R48 and the frame of TCAP: a load of one word of the capture records that the tags name, 0 where a tag names none; it is
counted under loads and tagged own. Stated with memory and the port at rest and every record on this device or its host. -/
def Obligations.CaptureLoad : Prop :=
  ∀ s e d a w c, exOf s = some e → runs s e (.tcap d a w) = true → findCtx s e.lch.ctx = some c →
    let keys := if d.toNat < 0xC0 then e.lanes else [0]
    let src := fun j => if d.toNat < 0xC0 ∨ 0xC0 ≤ a.toNat then j else e.lanes.head?.getD 0
    let tag := fun j => (regCell e.g a.toNat (src j)).1.toNat % 65536
    let named := fun j => 0x8000 ≤ tag j ∧ tag j ≤ 0xFEFF ∧ c.capring ≠ 0#64 ∧ tag j - 0x8000 < c.capseq
    let va := fun j => c.capring + BitVec.ofNat 64 (64 * (tag j - 0x8000) + 4 * w.toNat)
    ((keys = [] ∨ (0xC0 ≤ d.toNat ∧ a.toNat < 0xC0 ∧ e.lanes = [])) →
      ∃ t e', exec (.tcap d a w) s = .next t ∧ groupOnly s t e e' ∧ e'.g = e.g) ∧
    (keys ≠ [] → ¬(0xC0 ≤ d.toNat ∧ a.toNat < 0xC0 ∧ e.lanes = []) → e.g.loads < 255 → unstaged e → stillMemory s → portFree s e →
      ∀ T : Nat → Target, (∀ j ∈ keys, named j → canonical (va j) = true ∧ (va j).toNat % 4 = 0 ∧
        translate s e.tm.core e.lch.ctx (va j) 1 = .ok (T j) ∧ isRemote s (T j) = false) →
      ∃ t e' l, exec (.tcap d a w) s = .next t ∧ memoryFrame s t e e' ∧ e'.g = { e.g with loads := e.g.loads + 1 } ∧
        e'.tm = counted e.tm ∧ flightAdded s t e l .load 0 ∧ l.regs = [d.toNat] ∧
        t.mem = { s.mem with l2 := t.mem.l2, writeBacks := t.mem.writeBacks, flights := t.mem.flights } ∧
        ∀ q, q ∈ (if d.toNat < 0xC0 then l.cells else l.scalars) ↔ ∃ j ∈ keys,
          (named j ∧ q = (if d.toNat < 0xC0 then d.toNat * 64 + j else d.toNat - 0xC0, ((cellAt s (T j) 0).1, own e))) ∨
          (¬named j ∧ q = (if d.toNat < 0xC0 then d.toNat * 64 + j else d.toNat - 0xC0, (0#32, own e))))

namespace Sys2Proof.Claims
open Sys2Proof.Machine

/-! ## Barriers, batches and guards (R139 to R148) -/

/-- The team of a split with barrier b as given; its other barriers stay. -/
def barrierNow (u u' : Team) (b : Nat) (q : Barrier) : Prop :=
  barOf u' b = q ∧ ∀ k, k ≠ b → barOf u' k = barOf u k

/-- R142's completion rule and what the completed phase leaves. -/
def phaseComplete (q : Barrier) : Prop := q.arr = q.exp ∧ q.bal = 0 ∧ (q.e = true → q.ann = true)
def phaseLeaves (q : Barrier) : Barrier :=
  { phase := !q.phase, err := false, lerr := q.err, e := q.e, ann := false, exp := q.exp, arr := 0, bal := q.bal }

/-- A split after a phase of parity p of barrier b of its team is complete: one that waits for it runs on. -/
def phaseWakes (tid b : Nat) (p : Bool) (y : Split) : Split :=
  if y.tid = tid ∧ y.st = .parked ∧ y.park = .bar ∧ y.parkKey = 2 * b + p.toNat then
    { y with st := y.prev, park := .none, parkKey := 0 }
  else y

/-- What an ARRIVE or ARRIVEX arrives with: barrier, bytes, ANN, whether it arrives under a FALSE guard, and the lane whose dice state a
%dice byte count draws from. -/
def arrivalOf (e : Ex) (i : Instr) : Option (Nat × Nat × Bool × Bool × Option Nat) :=
  match i with
  | .arrive b => some (b.toNat, 0, false, false, none)
  | .arrivex b a =>
    if (a.toNat < 0xC0 ∨ a = 0xF5#8 ∨ a = 0xF7#8) ∧ e.lanes = [] then some (b.toNat, 0, false, true, none)
    else
      let l := if a.toNat < 0xC0 ∨ a = 0xF5#8 ∨ a = 0xF7#8 then e.lanes.headD 0 else 0
      some (b.toNat, (operand e .int a.toNat l (diceAfter e l [a])).1.toNat, true, true, if a = 0xF7#8 then some l else none)
  | _ => none

/-- The byte count of an ARRIVEX carries POISON. -/
def arrivalPoison (e : Ex) (i : Instr) : Bool :=
  match i with
  | .arrivex _ a => if a.toNat < 0xC0 then (e.lanes.head?.map fun l => anyPoison e a.toNat l).getD false else anyPoison e a.toNat 0
  | _ => false

/-- R148's value of XSTAT. -/
def statusValue (e : Ex) (sel idx : Nat) : Word :=
  let q := barOf e.tm idx
  match sel with
  | 0 => clampI32 q.bal
  | 1 => BitVec.ofBool q.phase ++ BitVec.ofBool q.err ++ BitVec.ofBool q.lerr ++ BitVec.ofBool q.e ++ BitVec.ofBool q.ann ++
      BitVec.ofNat 6 q.exp ++ BitVec.ofNat 6 q.arr ++ (BitVec.ofInt 47 q.bal).extractLsb' 32 15
  | 2 => BitVec.ofNat 32 (16 - e.tm.queue.length)
  | 3 => BitVec.ofNat 32 e.g.bc
  | 4 => BitVec.ofNat 32 (batchesDone e.g)
  | 5 => if guardOf e.tm idx = .unresolved then 0#32 else if guardOf e.tm idx = .true_ then 1#32 else 2#32
  | 6 => e.tm.engErr
  | 7 => BitVec.ofNat 32 (min 4294967295 e.tm.zeroBlocks)
  | 8 => BitVec.ofNat 32 (min 4294967295 e.tm.spills)
  | _ => BitVec.ofNat 32 (min 4294967295 e.tm.satBlocks)

end Sys2Proof.Claims

/-- R139 to R143, R146 and the frame of BARINIT, ARRIVE and ARRIVEX: a barrier already set up stays, one with nothing arrived, announced or
queued is written whole, and who waits for parity 1 of it runs on; an arrival adds itself and its bytes and, where that completes the phase, toggles PHASE, moves ERR to LERR,
clears ARR and ANN and wakes who waits; behind a guard or an earlier held arrival it is held. No REGROUP waits on the team. That %lane and %dice as a byte count are read once, as
a vector's, is the model's choice (log entry 23). -/
def Obligations.BarrierArrival : Prop :=
  (∀ s e b m n, exOf s = some e → runs s e (.barinit b m n) = true →
    let q := barOf e.tm b.toNat
    let same := q.exp = n.toNat ∧ q.e = (m = 1#1)
    (same → ∃ t e', exec (.barinit b m n) s = .next t ∧ groupOnly s t e e' ∧ e'.g = e.g) ∧
    (¬same → q.arr = 0 → q.bal = 0 → q.ann = false → (∀ c ∈ e.tm.queue ++ e.tm.running, c.bar ≠ b.toNat) →
      ∃ t e', exec (.barinit b m n) s = .next t ∧ exOf t = some e' ∧ e'.lch = e.lch ∧ e'.g = e.g ∧
        e'.x = retired e.x (e.x.pc + 4#64) ∧ t.groups = s.groups ∧
        t = { s with teams := t.teams, groups := t.groups, splits := t.splits, fx := [], devFail := none } ∧
        (∀ tid, tid ≠ e.x.tid → findTeam t tid = findTeam s tid) ∧
        barrierNow e.tm e'.tm b.toNat { exp := n.toNat, e := m = 1#1 } ∧
        (e.tm.seqState = .parked ∧ e.tm.seqPark = .bar b.toNat true →
          e'.tm = counted { e.tm with bars := e'.tm.bars, seqState := .running, seqPark := .none }) ∧
        (¬(e.tm.seqState = .parked ∧ e.tm.seqPark = .bar b.toNat true) → e'.tm = counted { e.tm with bars := e'.tm.bars }) ∧
        ∀ tid gi r, ¬(tid = e.x.tid ∧ gi = e.x.gi ∧ r = e.x.rank) →
          findSplit t tid gi r = (findSplit s tid gi r).map (phaseWakes e.x.tid b.toNat true))) ∧
  ∀ s e i b n ann always draw, exOf s = some e → runs s e i = true → arrivalOf e i = some (b, n, ann, always, draw) →
    arrivalPoison e i = false →
    let q := barOf e.tm b
    let held := (modGuard e).isSome ∨ ∃ h ∈ e.tm.heldArr, h.gi = e.g.gi ∧ h.bar = b
    let goes := fun (p : State → Ex → Prop) => ∃ t e', exec i s = .next t ∧ exOf t = some e' ∧ e'.lch = e.lch ∧
      e'.x = retired e.x (e.x.pc + 4#64) ∧ e'.g = { e.g with dice := e'.g.dice } ∧
      (∀ j, diceOf e'.g j = if draw = some j then diceStep (diceOf e.g j) else diceOf e.g j) ∧
      t = { s with teams := t.teams, groups := t.groups, splits := t.splits, fx := [], devFail := none } ∧
      (∀ tid, tid ≠ e.x.tid → findTeam t tid = findTeam s tid) ∧
      (∀ tid gi, ¬(tid = e.x.tid ∧ gi = e.x.gi) → findGroup t tid gi = findGroup s tid gi) ∧ p t e'
    (held → goes fun t e' => e'.tm = counted { e.tm with heldArr := e.tm.heldArr ++ [⟨e.g.gi, b, modGuard e, always, n, ann⟩] } ∧
      ∀ tid gi r, ¬(tid = e.x.tid ∧ gi = e.x.gi ∧ r = e.x.rank) → findSplit t tid gi r = findSplit s tid gi r) ∧
    (¬held → q.exp ≠ 0 → q.arr < q.exp → -(2 ^ 46 : Int) ≤ q.bal + n → q.bal + n < 2 ^ 46 →
      (∀ y ∈ s.splits, y.tid = e.x.tid → y.park ≠ .regroup) →
      let q' := { q with arr := q.arr + 1, bal := q.bal + n, ann := q.ann || ann }
      (¬phaseComplete q' → goes fun t e' => e'.tm = counted { e.tm with bars := e'.tm.bars } ∧ barrierNow e.tm e'.tm b q' ∧
        ∀ tid gi r, ¬(tid = e.x.tid ∧ gi = e.x.gi ∧ r = e.x.rank) → findSplit t tid gi r = findSplit s tid gi r) ∧
      (phaseComplete q' → goes fun t e' => barrierNow e.tm e'.tm b (phaseLeaves q') ∧
        (e.tm.seqState = .parked ∧ e.tm.seqPark = .bar b q.phase →
          e'.tm = counted { e.tm with bars := e'.tm.bars, seqState := .running, seqPark := .none }) ∧
        (¬(e.tm.seqState = .parked ∧ e.tm.seqPark = .bar b q.phase) → e'.tm = counted { e.tm with bars := e'.tm.bars }) ∧
        ∀ tid gi r, ¬(tid = e.x.tid ∧ gi = e.x.gi ∧ r = e.x.rank) →
          findSplit t tid gi r = (findSplit s tid gi r).map (phaseWakes e.x.tid b q.phase)))

/-- R143, R144, R170, R380 and the frame of BARWAIT, BARTRY, BATCH, WAITB, WAITN and FENCE once they need not wait: BARWAIT writes LERR into p, BARTRY whether the
phase is complete; BATCH closes the pending commands into batch BC + 1 and writes that number; WAITB writes the sticky failure bit and
clears it; WAITN changes no register, nor does FENCE, which drops at most words that the core's L1 does not own. p0 takes no write. That %lane and %dice as WAITB's operand
are read once, as a vector's, is the model's choice (log entry 23). -/
def Obligations.BarrierWait : Prop :=
  ∀ s e i, exOf s = some e → runs s e i = true →
    let goes := fun (p : Ex → Prop) => ∃ t e', exec i s = .next t ∧ groupOnly s t e e' ∧ p e'
    let wrote := fun (e' : Ex) (p : BitVec 3) (v : Bool) => ∀ k j, j < 64 →
      predBit e'.g k j = if k = p.toNat ∧ k ≠ 0 ∧ e.x.amask.getLsbD j = true then v else predBit e.g k j
    (∀ b q p, i = .barwait b q p → (barOf e.tm b.toNat).phase ≠ (q = 1#1) →
      goes fun e' => e'.g = { e.g with preds := e'.g.preds } ∧ wrote e' p (barOf e.tm b.toNat).lerr) ∧
    (∀ b q p, i = .bartry b q p →
      goes fun e' => e'.g = { e.g with preds := e'.g.preds } ∧ wrote e' p ((barOf e.tm b.toNat).phase != (q = 1#1))) ∧
    (∀ d, i = .batch d → e.g.batches.length < 16 →
      goes fun e' => e'.g = { e.g with
          sregs := e'.g.sregs, bc := e.g.bc + 1, pending := [],
          batches := if e.g.pending = [] then e.g.batches else e.g.batches ++ [⟨e.g.bc + 1, e.g.pending⟩] } ∧
        (d ≠ 0xF0#8 → sreg e'.g (d.toNat - 0xC0) = (BitVec.ofNat 32 (e.g.bc + 1), own e)) ∧
        scalarsBut e.g e'.g (if d = 0xF0#8 then [] else [d.toNat - 0xC0])) ∧
    (∀ l t c y, i = .waitn l t c y → (l.toNat = 63 ∨ e.g.loads ≤ l.toNat) → (t.toNat = 63 ∨ e.g.stores ≤ t.toNat) →
      (c.toNat = 63 ∨ e.g.copies ≤ c.toNat) → (y.toNat = 63 ∨ e.g.typed ≤ y.toNat) → goes fun e' => e'.g = e.g) ∧
    (∀ k, i = .fence k → (k.getLsbD 1 = true → released s e (scopeOf e) = true) → (k.getLsbD 0 = true → s.mem.flights = []) →
      ∃ t e', exec i s = .next t ∧ onlySplit { s with mem := t.mem } t e e' ∧ e'.x = retired e.x (e.x.pc + 4#64) ∧ e'.g = e.g ∧
        e'.tm = counted e.tm ∧ t.mem = { s.mem with l1 := t.mem.l1 } ∧ ∀ x ∈ s.mem.l1, x.2.owned = true → x ∈ t.mem.l1) ∧
    ∀ p a, i = .waitb p a →
      let lane := if a.toNat < 0xC0 ∨ a = 0xF5#8 ∨ a = 0xF7#8 then e.lanes.head? else some 0
      (lane = none → goes fun e' => e'.g = e.g) ∧
      ∀ l, lane = some l →
        let n := (operand e .int a.toNat l (diceAfter e l [a])).1.toNat
        n ≤ e.g.bc → (∀ b ∈ e.g.batches, n < b.num) →
        goes fun e' => e'.g = { e.g with preds := e'.g.preds, dice := e'.g.dice, batchFail := false } ∧ wrote e' p e.g.batchFail ∧
          ∀ j, diceOf e'.g j = if j = l ∧ a = 0xF7#8 then diceStep (diceOf e.g j) else diceOf e.g j

/-- R145, R148 and the frame of GSET and XSTAT: GSET clears a slot or resolves an unresolved one, and a sequencer that waits on it runs on;
XSTAT reads the selected status, and reading the engine error word clears it. -/
def Obligations.GuardAndStatus : Prop :=
  (∀ s e g a p, exOf s = some e → runs s e (.gset g a p) = true →
    let goes := fun (v : Guard) => ∃ t e', exec (.gset g a p) s = .next t ∧ onlySplit s t e e' ∧ e'.g = e.g ∧
      e'.x = retired e.x (e.x.pc + 4#64) ∧
      (∀ k, guardOf e'.tm k = if k = g.toNat then v else guardOf e.tm k) ∧
      (e.tm.seqState = .parked ∧ e.tm.seqPark = .guard g.toNat →
        e'.tm = counted { e.tm with guards := e'.tm.guards, seqState := .running, seqPark := .none }) ∧
      (¬(e.tm.seqState = .parked ∧ e.tm.seqPark = .guard g.toNat) → e'.tm = counted { e.tm with guards := e'.tm.guards })
    (a = 0#2 → goes .unresolved) ∧
    (a = 1#2 → e.lanes = [] → ∃ t e', exec (.gset g a p) s = .next t ∧ groupOnly s t e e' ∧ e'.g = e.g) ∧
    (∀ l, a = 1#2 → e.lanes.head? = some l → guardOf e.tm g.toNat = .unresolved →
      goes (if predBit e.g p.toNat l then .true_ else .false_)) ∧
    (a = 2#2 → guardOf e.tm g.toNat = .unresolved → goes .true_) ∧
    (a = 3#2 → guardOf e.tm g.toNat = .unresolved → goes .false_)) ∧
  ∀ s e d k n, exOf s = some e → runs s e (.xstat d k n) = true →
    ∃ t e', exec (.xstat d k n) s = .next t ∧ onlySplit s t e e' ∧ e'.x = retired e.x (e.x.pc + 4#64) ∧
      e'.tm = counted { e.tm with engErr := if k = 6#4 then 0#32 else e.tm.engErr } ∧ e'.g = { e.g with sregs := e'.g.sregs } ∧
      sreg e'.g (d.toNat - 0xC0) = (statusValue e k.toNat n.toNat, own e) ∧ scalarsBut e.g e'.g [d.toNat - 0xC0]

/-- R322, R334, R335, R381: REGROUP and GRIDBAR of a group's only split, its stack empty, A = L outside a bracket. REGROUP arrives on its
barrier and parks; where it alone is expected the phase completes and its group migrates. GRIDBAR of a COOP launch, once released,
parks as arrived until every live group has, and then, or when the last of them arrives, completes. -/
def Obligations.GroupMeeting : Prop :=
  ∀ s e i, exOf s = some e → runs s e i = true → e.x.br = false → e.x.amask = e.x.lset → e.x.stack = [] →
    (s.splits.filter fun y => y.tid = e.x.tid && y.gi = e.x.gi).length = 1 →
    let parked := fun (p : Park) (k : Nat) => { e.x with st := .parked, prev := e.x.st, park := p, parkKey := k }
    (∀ b n o, i = .regroup b n o → (∀ h ∈ e.tm.heldArr, ¬(h.gi = e.g.gi ∧ h.bar = b.toNat)) →
      let q := barOf e.tm b.toNat
      q.exp ≠ 0 → q.e = false → q.arr < q.exp → -(2 ^ 46 : Int) ≤ q.bal → q.bal < 2 ^ 46 →
      let goes := fun (r : RegroupState) (q' : Barrier) (n : Nat) => ∃ t e', exec i s = .next t ∧ exOf t = some e' ∧ e'.lch = e.lch ∧
        e'.x = parked .regroup ((wordOf i).toNat + 2 ^ 32 * n) ∧ e'.g = { e.g with regroup := r } ∧
        e'.tm = { e.tm with bars := e'.tm.bars, seqState := e'.tm.seqState, seqPark := e'.tm.seqPark } ∧ barrierNow e.tm e'.tm b.toNat q' ∧
        t = { s with teams := t.teams, groups := t.groups, splits := t.splits, nextId := t.nextId, fx := [], devFail := none } ∧
        ∀ tid gi, ¬(tid = e.x.tid ∧ gi = e.x.gi) → findGroup t tid gi = findGroup s tid gi
      (q.arr + 1 < q.exp → goes .arrived { q with arr := q.arr + 1 } 0) ∧
      (q.exp = 1 → q.arr = 0 → q.bal = 0 → (∀ y ∈ s.splits, y.tid = e.x.tid → y.park ≠ .regroup) →
        goes .migrating (phaseLeaves { q with arr := 1 }) s.nextId)) ∧
    (i = .gridbar → e.lch.coop = true →
      (e.x.granted = true → ∃ t e', exec i s = .next t ∧ onlySplit s t e e' ∧ e'.g = e.g ∧ e'.tm = counted e.tm ∧
        e'.x = { retired e.x (e.x.pc + 4#64) with granted := false }) ∧
      (e.x.granted = false → released s e 4 = true →
        let mine := fun (g : Group) => ∃ u ∈ s.teams, u.tid = g.tid ∧ u.launch = e.lch.id
        ((∃ g ∈ s.groups, mine g ∧ g.exited = false ∧ g.gridArrived = false ∧ ¬(g.tid = e.x.tid ∧ g.gi = e.x.gi)) →
          ∃ t e', exec i s = .next t ∧ onlySplit s t e e' ∧ e'.tm = e.tm ∧ e'.g = { e.g with gridArrived := true } ∧
            e'.x = parked .grid 0) ∧
        (e.g.exited = false → e.lch.undisp = [] → e.lch.savedTeams = [] →
          (∀ g ∈ s.groups, mine g → g.exited = false → g.gridArrived = true ∨ (g.tid = e.x.tid ∧ g.gi = e.x.gi)) →
          ∃ t e', exec i s = .next t ∧ exOf t = some e' ∧ e'.x = { e.x with prev := e.x.st, granted := true, park := .none, parkKey := 0 } ∧
            e'.g = { e.g with gridArrived := false } ∧ e'.lch = { e.lch with gridGen := e.lch.gridGen + 1 } ∧
            t.mem = { s.mem with l1 := t.mem.l1 } ∧
            ∀ tid gi r y, findSplit s tid gi r = some y → y.st = .parked → y.park = .grid →
              (∃ u ∈ s.teams, u.tid = tid ∧ u.launch = e.lch.id) →
              findSplit t tid gi r = some { y with st := y.prev, park := .none, parkKey := 0, granted := true })))

namespace Sys2Proof.Claims
open Sys2Proof.Machine

/-! ## Engine commands, collectives and the matrix stream -/

/-- The copy words: kind, direction, first register, record pair, leader predicate and barrier (R131, R134, R135). -/
def copyFields (i : Instr) : Option (CmdKind × Bool × BitVec 8 × BitVec 5 × BitVec 3 × BitVec 4) :=
  match i with
  | .xcopy c r d l b => some (.copy, d = 1#1, c, r, l, b)
  | .xgather c r l b => some (.gather, false, c, r, l, b)
  | .xscatter c r l b => some (.scatter, true, c, r, l, b)
  | .xfill c r l b => some (.fill, true, c, r, l, b)
  | _ => none

/-- R293's value of COMMQ. -/
def commStatus (s : State) (c : Comm) (sel : Nat) : Word :=
  match sel with
  | 0 => BitVec.ofNat 32 c.nmem
  | 1 => BitVec.ofNat 32 c.rank
  | 2 => (BitVec.ofNat 64 c.seq).extractLsb' 0 32
  | 3 => (BitVec.ofNat 64 c.seq).extractLsb' 32 32
  | 4 => BitVec.ofNat 32 (c.seqr * 65536 + c.logc * 256 + c.cls)
  | 5 => BitVec.ofNat 32 (min 65535 c.births * 65536 + min 255 (collsOf s c.handle).length * 256 +
      (if c.failure then 4 else 0) + (if c.activeSlot then 2 else 0) + 1)
  | _ => c.errw

/-- What a stream word that completes leaves: its team as given and nothing else changed. -/
def streamGoes (s : State) (x : Sx) (i : Instr) (u : Team) : Prop :=
  ∃ t, exec i s = .next t ∧ sxOf t x.tm.tid = some ⟨x.lch, u⟩ ∧ t = { s with teams := t.teams, fx := [], devFail := none } ∧
    ∀ tid, tid ≠ x.tm.tid → findTeam t tid = findTeam s tid

/-- The sequencer's team after a word that continues at a PC. -/
def streamed (u : Team) (pc : DWord) : Team :=
  { u with seqPc := pc, seqImm := 0#32, seqMod := 0#32, seqHint := 0#32, retWords := u.retWords + 1 }

/-- The team after an operation is posted, with the logical planes it leaves (R232, R248). -/
def posts (s : State) (x : Sx) (i : Instr) (op : MatOp) (shadow active : Option Binding) : Team :=
  streamed { x.tm with
    shadow := shadow, active := active,
    posted := x.tm.posted ++ [⟨op, x.tm.seqPc, wordOf i, shadow, active, false, s.clock⟩] } (x.tm.seqPc + 4#64)

end Sys2Proof.Claims

/-- R124, R131 to R135, R144, R149 and the frame of XCOPY, XGATHER, XSCATTER and XFILL with memory at rest: without a leader nothing happens;
with one, the split's earlier accesses released, no register of the record pending (R209), room in the team queue and the checks of R132
passed, the command is queued under the team's next number, with the record, the registers
and the guard that it read, pending in its group's next batch and counted under copies. -/
def Obligations.CopyWord : Prop :=
  ∀ s e i k st c r lp b, exOf s = some e → runs s e i = true → copyFields i = some (k, st, c, r, lp, b) →
    ((∀ j ∈ e.lanes, predBit e.g lp.toNat j = false) → ∃ t e', exec i s = .next t ∧ groupOnly s t e e' ∧ e'.g = e.g) ∧
    ∀ lead T, e.lanes.find? (fun j => predBit e.g lp.toNat j) = some lead →
      let rc := 0xC0 + 2 * r.toNat
      lanePlaced s e rc 256 1 (operand64 e false rc 0).1 T 0 → isRemote s T = false → unstaged e → stillMemory s →
      released s e 4 = true →
      let bs := (List.range 64).flatMap fun n => bytesOf 4 (cellAt s T n).1.toNat
      let n := copyRegs k bs
      let vals := (List.range n).map fun m => (regCell e.g (c.toNat + m) lead).1
      let cmd := makeCmd e k st bs vals b.toNat
      e.tm.queue.length < 16 → e.g.copies < 255 → (∀ m, m < 3 → (cellAt s T m).2 ≠ 0xFF00#16) →
      (∀ m, m < n → (regCell e.g (c.toNat + m) lead).2 ≠ 0xFF00#16) → regsIn e.lch.hdr c.toNat n = true →
      (∀ q ∈ s.mem.flights, q.tid = e.x.tid → q.gi = e.x.gi → q.rank = e.x.rank → ∀ m, m < n → c.toNat + m ∉ q.regs) →
      copyMalformed cmd = false → (barOf e.tm b.toNat).exp ≠ 0 → cmd.idxBase % 4 = 0 → copyBoundsCheck e.lch.hdr cmd = none →
      ∃ t e', exec i s = .next t ∧ memoryFrame s t e e' ∧
        e'.g = { e.g with copies := e.g.copies + 1, pending := e.g.pending ++ [e.tm.csn] } ∧
        e'.tm = counted { e.tm with csn := e.tm.csn + 1, queue := e.tm.queue ++ [cmd] } ∧
        t.mem = { s.mem with l2 := t.mem.l2, writeBacks := t.mem.writeBacks } ∧
        cmd.csn = e.tm.csn ∧ cmd.gi = e.g.gi ∧ cmd.kind = k ∧ cmd.store = st ∧ cmd.record = bs ∧ cmd.bar = b.toNat ∧
        cmd.guard = modGuard e ∧ cmd.tag = own e ∧ cmd.pc = e.x.pc ∧ cmd.done = [] ∧ cmd.total = cmd.units * cmd.unitBytes

/-- R291, R293 to R296, R302 and the frame of COMMQ and COLL. COMMQ reads the selected status of the context's communicator, 0 where there is
none; a read of ERRW clears it and the failure bit. COLL that passes R295's checks marks its group in its gather while a live group of
the team is missing from it; where its group is the last, the gather is submitted under the communicator's next SEQ and, with nothing
ahead of it and a slot held, its signature goes to every other member. -/
def Obligations.CollectiveWords : Prop :=
  (∀ s e d a sel, exOf s = some e → runs s e (.commq d a sel) = true →
    let h := sreg e.g (a.toNat - 0xC0)
    h.2 ≠ 0xFF00#16 → h.1 &&& 0xFC00F000#32 = 0#32 →
    let c := commIn s e.lch.ctx (h.1.toNat % 4096)
    ∃ t e', exec (.commq d a sel) s = .next t ∧ onlySplit { s with comms := t.comms } t e e' ∧
      e'.x = retired e.x (e.x.pc + 4#64) ∧ e'.tm = counted e.tm ∧ e'.g = { e.g with sregs := e'.g.sregs } ∧
      sreg e'.g (d.toNat - 0xC0) = ((c.map fun q => commStatus s q sel.toNat).getD 0#32, own e) ∧
      scalarsBut e.g e'.g [d.toNat - 0xC0] ∧
      t.comms = s.comms.map fun q => if sel = 6#4 ∧ (c.map fun p => p.handle) = some q.handle then
        { q with errw := 0#32, failure := false } else q) ∧
  (∀ s e o b m h r y z, exOf s = some e →
    let i := Instr.coll o b m h r y z
    runs s e i = true → notAlone s e = false → (sreg e.g h.toNat).2 ≠ 0xFF00#16 →
    collCheck s e (wordOf i) b.toNat m.toNat (sreg e.g h.toNat).1 = none → released s e (if z = 1#1 then 5 else 4) = true →
    let v := (sreg e.g h.toNat).1
    let n := e.g.collOrd + 1
    let old := e.tm.gathers.find? fun g => g.num = n
    let marked := (old.map fun g => g.marked).getD [] ++ [e.g.gi]
    (∀ g, old = some g → g.word = wordOf i ∧ g.handle.1 = v) → (old = none → e.tm.gathers.length < 4) →
    (∀ c ∈ s.colls, c.st ≠ .queued) →
    ((∃ g ∈ s.groups, g.tid = e.x.tid ∧ g.exited = false ∧ g.gi ∉ marked) →
      (∀ u ∈ s.teams ++ s.images.map (fun m => m.team), ∀ g ∈ u.gathers,
        ¬(u.tid = e.x.tid ∧ g.num = n) → gatherFull s u.tid g = false) → (∀ m ∈ s.images, m.team.tid ≠ e.x.tid) →
      ∃ t e' g, exec i s = .next t ∧ onlySplit s t e e' ∧ e'.x = retired e.x (e.x.pc + 4#64) ∧
        e'.g = { e.g with collOrd := n } ∧
        e'.tm = counted { e.tm with gathers := (e.tm.gathers.filter fun q => q.num ≠ n) ++ [g] } ∧
        g.num = n ∧ g.word = wordOf i ∧ g.handle.1 = v ∧ g.marked = marked) ∧
    ∀ q, commIn s e.lch.ctx (v.toNat % 4096) = some q → findComm s (v.toNat % 4096) = some q →
      (∀ g ∈ s.groups, g.tid = e.x.tid → g.exited = false → g.gi ∈ marked) →
      (∀ u ∈ s.teams, ∀ g ∈ u.gathers, u.tid = e.x.tid ∧ g.num = n) →
      (∀ m ∈ s.images, m.team.tid ≠ e.x.tid ∧ m.team.gathers = []) → collsOf s q.handle = [] → q.activeSlot = true →
      2 ≤ q.nmem → unstaged e → (s.teams.filter fun u => u.tid = e.x.tid).length = 1 → (∀ c ∈ s.colls, c.id ≠ s.nextId) →
      ∃ t e' c, exec i s = .next t ∧ exOf t = some e' ∧ e'.x = retired e.x (e.x.pc + 4#64) ∧ e'.g = { e.g with collOrd := n } ∧
        e'.tm = counted { e.tm with gathers := [], sideEffect := true } ∧ t.colls = s.colls ++ [c] ∧
        c.st = .handshake ∧ c.handle = q.handle ∧ c.seq = q.seq ∧ c.word = wordOf i ∧ c.bar = b.toNat ∧ c.tid = e.x.tid ∧
        c.root = v.toNat / 65536 % 1024 ∧ c.sigs = [(q.rank, collSignature c)] ∧ c.got = [] ∧ c.steps = 0 ∧
        findComm t q.handle = some { q with seq := q.seq + 1, used := s.clock } ∧ t.mem = s.mem ∧
        t.dev = ((others q).foldl (fun s d => sendColl s d q.cls (.signature d q.key q.seq (collSignature c))) s).dev)

/-- R156, R157, R251 and the frame of TDESC and MSTART: a descriptor that keeps R156 and lies in bounds goes into the tile register; an idle or
faulted sequencer starts at the pair's address with its latch empty and m0 from b. -/
def Obligations.MatrixStart : Prop :=
  (∀ s e m a, exOf s = some e → runs s e (.tdesc m a) = true →
    let v := (operand64 e false a.toNat 0).1
    tileOk v = true → anyPoison e a.toNat 0 = false → anyPoison e (a.toNat + 1) 0 = false → tileBounds e.lch.hdr v = none →
    ∃ t e', exec (.tdesc m a) s = .next t ∧ onlySplit s t e e' ∧ e'.g = e.g ∧ e'.x = retired e.x (e.x.pc + 4#64) ∧
      e'.tm = counted { e.tm with tiles := e'.tm.tiles } ∧ ∀ k, tileOf e'.tm k = if k = m.toNat then v else tileOf e.tm k) ∧
  ∀ s e a b, exOf s = some e → runs s e (.mstart a b) = true →
    let pc := (operand64 e false a.toNat 0).1
    anyPoison e a.toNat 0 = false → anyPoison e b.toNat 0 = false → pc.toNat % 4 = 0 →
    e.tm.seqState = .idle ∨ e.tm.seqState = .faulted →
    ∃ t e', exec (.mstart a b) s = .next t ∧ onlySplit s t e e' ∧ e'.g = e.g ∧ e'.x = retired e.x (e.x.pc + 4#64) ∧
      e'.tm = counted { e.tm with
        seqState := .running, seqPark := .none, seqPc := pc, seqSkip := false, seqImm := 0#32, seqMod := 0#32, seqHint := 0#32,
        mregs := e'.tm.mregs } ∧
      ∀ k, mreg e'.tm k = if k = 0 then (operand e .int b.toNat 0 0#32).1 else mreg e.tm k

/-- R232, R248, R252 to R255, R264, R265 and the frame of the posting words with a reservation entry free: MLDW, MSWAP, the MMAs, MZERO and
MDRAIN whose checks pass are posted with what they read, MLDW and MSWAP binding the logical planes at posting. -/
def Obligations.MatrixPost : Prop :=
  ∀ s x i, s.cur = .stream x.tm.tid → sxOf s x.tm.tid = some x → streamRuns s x i = true → x.tm.posted.length < 4 → x.tm.repost = [] →
    postedOn s (quadOf x.tm.core) < 16 →
    let goes := fun (op : MatOp) (sh ac : Option Binding) => streamGoes s x i (posts s x i op sh ac)
    (∀ w f q, i = .mldw w f → mldwCheck x w.toNat f.toNat = .ok q → goes (.mldw q) (some q) x.tm.active) ∧
    (∀ q, i = .mswap → x.tm.shadow = some q → goes .mswap x.tm.active (some q)) ∧
    (∀ a c f u z m n op rows, (rows = 32 ∧ i = .mmaM32 a c f u z m n) ∨ (rows = 64 ∧ i = .mmaM64 a c f u z m n) ∨
        (rows = 128 ∧ i = .mmaM128 a c f u z m n) ∨ (rows = 256 ∧ i = .mmaM256 a c f u z m n) →
      mmaCheck x rows a.toNat c.toNat f.toNat u.toNat (z = 1#1) m.toNat n.toNat = .ok op →
      (∃ fb act, x.tm.active = some act ∧ op = .mma rows (tileOf x.tm a.toNat) (tileOf x.tm c.toNat) fb act u.toNat (z = 1#1)
        (mreg x.tm m.toNat).toNat (mreg x.tm n.toNat).toNat) ∧ goes op x.tm.shadow x.tm.active) ∧
    (∀ k, i = .mzero k → tileOf x.tm k.toNat ≠ 0#64 → tileSpace (tileOf x.tm k.toNat) = 3 →
      goes (.mzero (tileOf x.tm k.toNat)) x.tm.shadow x.tm.active) ∧
    ∀ d c f r z m n op, i = .mdrain d c f r z m n →
      mdrainCheck x d.toNat c.toNat f.toNat (32 * 2 ^ r.toNat) (z = 1#1) m.toNat n.toNat = .ok op →
      (∃ fb, op = .mdrain (32 * 2 ^ r.toNat) (tileOf x.tm d.toNat) (tileOf x.tm c.toNat) fb (z = 1#1)
        (mreg x.tm m.toNat).toNat (mreg x.tm n.toNat).toNat) ∧ goes op x.tm.shadow x.tm.active

/-- R256 to R260 and the frame of the words that order the stream, once they need not wait: MARRIVE arrives, MWAIT passes, MSETT sets a tile
register, MADDI and MLOOP change a matrix scalar, MGUARD lets the next word run or skips it, and MEND stops the sequencer with both
logical planes empty while a group of the team lives. -/
def Obligations.StreamControl : Prop :=
  ∀ s x i, s.cur = .stream x.tm.tid → sxOf s x.tm.tid = some x → streamRuns s x i = true →
    let next := x.tm.seqPc + 4#64
    (∀ b, i = .marrive b → x.tm.posted = [] → x.tm.repost = [] →
      let q := barOf x.tm b.toNat
      q.exp ≠ 0 → q.arr < q.exp → -(2 ^ 46 : Int) ≤ q.bal → q.bal < 2 ^ 46 →
      (∀ y ∈ s.splits, y.tid = x.tm.tid → y.park ≠ .regroup) →
      let q' := { q with arr := q.arr + 1 }
      (¬phaseComplete q' → ∃ u, streamGoes s x i (streamed u next) ∧ u = { x.tm with bars := u.bars } ∧ barrierNow x.tm u b.toNat q') ∧
      (phaseComplete q' → ∃ t u, exec i s = .next t ∧ findTeam t x.tm.tid = some (streamed u next) ∧
        u = { x.tm with bars := u.bars } ∧ barrierNow x.tm u b.toNat (phaseLeaves q') ∧
        t = { s with teams := t.teams, splits := t.splits, fx := [], devFail := none } ∧
        ∀ tid gi r, findSplit t tid gi r = (findSplit s tid gi r).map (phaseWakes x.tm.tid b.toNat q.phase))) ∧
    (∀ b q m p, i = .mwait b q m p →
      (barOf x.tm b.toNat).phase ≠ (if m = 1#1 then (mreg x.tm p.toNat).getLsbD 0 else q = 1#1) →
      streamGoes s x i (streamed x.tm next)) ∧
    (∀ k m, i = .msett k m →
      let v := mreg x.tm (m.toNat + 1) ++ mreg x.tm m.toNat
      tileOk v = true → tileBounds x.lch.hdr v = none →
      ∃ u, streamGoes s x i (streamed u next) ∧ u = { x.tm with tiles := u.tiles } ∧
        ∀ j, tileOf u j = if j = k.toNat then v else tileOf x.tm j) ∧
    (∀ m z n, i = .maddi m z n →
      let v : Word := if x.tm.seqImm = 0#32 then n.signExtend 32 else BitVec.ofNat 32 (x.tm.seqImm.toNat % 65536 * 65536 + n.toNat)
      ∃ u, streamGoes s x i (streamed u next) ∧ u = { x.tm with mregs := u.mregs } ∧
        ∀ j, mreg u j = if j = m.toNat then (if z = 1#1 then v else mreg x.tm j + v) else mreg x.tm j) ∧
    (∀ m o, i = .mloop m o →
      let v := mreg x.tm m.toNat - 1#32
      ∃ u, streamGoes s x i (streamed u (if v = 0#32 then next else x.tm.seqPc + BitVec.ofInt 64 (4 * o.toInt))) ∧
        u = { x.tm with mregs := u.mregs } ∧ ∀ j, mreg u j = if j = m.toNat then v else mreg x.tm j) ∧
    (∀ g n, i = .mguard g n → guardOf x.tm g.toNat ≠ .unresolved →
      streamGoes s x i (streamed { x.tm with seqSkip := (guardOf x.tm g.toNat = .true_) = (n = 1#1) } next)) ∧
    (i = .mend → (∃ g ∈ s.groups, g.tid = x.tm.tid ∧ g.exited = false) →
      streamGoes s x i { streamed x.tm next with seqState := .idle, shadow := none, active := none })

namespace Sys2Proof.Claims
open Sys2Proof.Machine

/-! ## Traps (R399 to R404) -/

/-- The trap registers' new values. -/
structure Cause_ where
  cause : BitVec 8
  pc : DWord
  mask : DWord
  info0 : Word
  info1 : Word := 0#32
  info2 : Word
  info3 : Word := 0#32

/-- R400's entry of a group's handler at CODE + off by a split that stands as x: from s to t nothing changes but the split, its group and
its team u. -/
def entered (s t : State) (e : Ex) (x : Split) (u : Team) (off : Nat) (c : Cause_) : Prop :=
  ∃ e', onlySplit s t e e' ∧ e'.tm = u ∧
    e'.x = { x with
      imm := 0#32, mod := 0#32, hint := 0#32, amask := x.lset, br := false, pc := e.lch.code + BitVec.ofNat 64 off,
      st := .ready, park := .none, parkKey := 0 } ∧
    e'.g = { e.g with
      hs := some ⟨x.rank, x.amask, x.br, x.ba, x.imm, x.mod, x.hint, c.pc⟩,
      tcause := c.cause.setWidth 32, tpc := c.pc, tmask := c.mask, tinfo0 := c.info0, tinfo1 := c.info1, tinfo2 := c.info2,
      tinfo3 := c.info3 }

/-- A split may issue word i, and neither a trace nor a watchpoint looks on. -/
def issues (s : State) (e : Ex) (i : Instr) : Bool :=
  mayIssue s e && !mustWait s e i && traceOff s e.lch.ctx && e.x.brBits.length < 64

end Sys2Proof.Claims

/-- R403: RFE in the group's handler, no trap held: A comes back within L, the bracket and, where %tpc is what the entry wrote, the latch;
the split continues at %tpc and no handler runs. -/
def Obligations.ReturnFromException : Prop :=
  ∀ s e h, exOf s = some e → runs s e .rfe = true → e.g.hs = some h → h.rank = e.x.rank → e.g.tpc.toNat % 4 = 0 → e.g.held = [] →
    let same := e.g.tpc = h.entryPc
    ∃ t e', exec .rfe s = .next t ∧ onlySplit s t e e' ∧ e'.tm = counted e.tm ∧ e'.g = { e.g with hs := none } ∧
      e'.x = { e.x with
        amask := h.amask &&& e.x.lset, br := h.br, ba := h.ba, pc := e.g.tpc,
        imm := if same then h.imm else 0#32, mod := if same then h.mod else 0#32, hint := if same then h.hint else 0#32 }

/-- R72, R394, R399 to R401, R404, R410: TRAP with a lane whose predicate holds, after the word, and BKPT, before it, enter the group's
handler: HS keeps rank, A, bracket, latch and %tpc, the trap registers are filled, A becomes L outside a bracket, and the split
continues at CODE + TRAP. TRAP with no such lane changes nothing. A word with a reserved opcode raises ILL_OPCODE before anything
changes, with the word in %tinfo0 and %tinfo2. Without a trap entry a cause is a context fault: the context is frozen with the cause, and
no register, store or byte of memory changes. -/
def Obligations.TrapsEnterTheHandler : Prop :=
  (∀ s e i, exOf s = some e → runs s e i = true →
    (∀ n p c, i = .trap n p c →
      let ls := e.lanes.filter fun j => predBit e.g p.toNat j != (n = 1#1)
      (ls = [] → ∃ t e', exec i s = .next t ∧ groupOnly s t e e' ∧ e'.g = e.g) ∧
      ∀ off, ls ≠ [] → e.lch.hdr.trap = some off → e.g.hs = none →
        ∃ t, exec i s = .next t ∧ entered s t e (retired e.x (e.x.pc + 4#64)) (counted e.tm) off
          { cause := 0x08#8, pc := e.x.pc + 4#64, mask := maskOf ls, info0 := c.setWidth 32, info2 := wordOf i }) ∧
    ∀ c off, i = .bkpt c → e.lch.hdr.trap = some off → e.g.hs = none →
      ∃ t, exec i s = .next t ∧ entered s t e e.x e.tm off
        { cause := 0x09#8, pc := e.x.pc, mask := e.x.amask, info0 := c.setWidth 32, info2 := wordOf i }) ∧
  (∀ s e w off, exOf s = some e → (Instr.reservedOpcode w).wellFormed = true → issues s e (.reservedOpcode w) = true →
    e.lch.hdr.trap = some off → e.g.hs = none →
    ∃ t, exec (.reservedOpcode w) s = .next t ∧ entered s t e e.x e.tm off
      { cause := 0x01#8, pc := e.x.pc, mask := e.x.amask, info0 := w, info2 := w }) ∧
  (∀ s e c q, exOf s = some e → runs s e (.bkpt c) = true → e.lch.hdr.trap = none → findCtx s e.lch.ctx = some q → q.fault = none →
    ∃ t f, exec (.bkpt c) s = .next t ∧ t = { s with ctxs := t.ctxs, fx := [], devFail := none } ∧
      findCtx t e.lch.ctx = some { q with fault := some f } ∧ f.cause = 0x09#8 ∧ f.noEntry = true ∧ f.trap.pc = e.x.pc ∧
      ∀ y : Ex, y.lch.ctx = e.lch.ctx → mayIssue t y = false)

namespace Sys2Proof.Claims
open Sys2Proof.Machine

/-! ## Events (spec/95): replies, packets, translations and accesses from outside -/

/-- The event i, supplied with a, takes s to t. -/
def happens (i : Instr) (a : EvArg) (s t : State) : Prop :=
  exec i { s with cur := .nobody, arg := a } = .next { t with cur := .nobody, arg := a }

/-- A split that leaves its wait (R322). -/
def ready (y : Split) : Split := { y with st := y.prev, park := .none, parkKey := 0 }

/-- The group of a flight, when its counter falls (R169): a split parked on a full counter runs on. -/
def counterWakes (f : Flight) (y : Split) : Split :=
  if f.counter.isSome ∧ y.tid = f.tid ∧ y.gi = f.gi ∧ y.st = .parked ∧ y.park = .counters then ready y else y

/-- A group after a flight of its own has landed: registers and status as g' has them, the flight's counter lower by one. -/
def lowered (f : Flight) (g g' : Group) : Prop :=
  let h := { g with vregs := g'.vregs, sregs := g'.sregs, lstat := g'.lstat }
  g' = f.counter.elim h fun k => withCount h k (countOf g k - 1)

/-- What a list of cells gives a register map: its entries where it has them, else what stood there. -/
def overlay (old new : List (Nat × Cell)) (cs : List (Nat × Cell)) : Prop :=
  ∀ k, mapGet (0#32, 0#16) new k = ((cs.find? fun c => c.1 = k).map fun c => c.2).getD (mapGet (0#32, 0#16) old k)

/-- A context's trace ring lies in host memory at H, with 2^size slots, WCOUNT n and room for a packet of a type (R434, R435). -/
def tracePlace (s : State) (c : Ctx) (H size n type : Nat) : Prop :=
  c.trace ≠ 0#64 ∧ c.trace.toNat % 4 = 0 ∧ H % 4 = 0 ∧ n + 1 < 2 ^ 64 ∧
  (∀ k kind, k < 64 + 32 * 2 ^ size → k % 4 = 0 → kind = 1 ∨ kind = 2 →
    ∃ T, translateNow s 0 c.num (c.trace + BitVec.ofNat 64 k) kind = .ok T ∧ T.tier = 2 ∧ T.pa = H + k) ∧
  readNum s.mem.hostMem (H + 4) 1 = size ∧ (readNum s.mem.hostMem (H + 6) 2).testBit type = true ∧
  readNum s.mem.hostMem (H + 8) 8 = n ∧ (readNum s.mem.hostMem H 4 % 2 = 1 ∨ n < 2 ^ size)

/-- R436's packet: a header word and 28 bytes of payload. -/
def packetBytes (type split group team : Nat) (payload : List Byte) : List Byte :=
  bytesOf 4 (type * 2 ^ 28 + split % 64 * 2 ^ 22 + group % 32 * 2 ^ 17 + team % 65536) ++
    payload ++ List.replicate (28 - payload.length) 0#8

/-- Host memory after a packet: the packet in slot n mod 2^size, WCOUNT n + 1, all else as before. -/
def packetWritten (m m' : Memory) (H size n : Nat) (p : List Byte) : Prop :=
  let a := H + 64 + 32 * (n % 2 ^ size)
  (∀ k, k < 32 → readByte m' (a + k) = p.getD k 0#8) ∧ readNum m' (H + 8) 8 = n + 1 ∧
  ∀ x, ¬(a ≤ x ∧ x < a + 32) → ¬(H + 8 ≤ x ∧ x < H + 16) → readByte m' x = readByte m x

/-- A requester that has left the walks, records and requests of memory m waits on nothing else there (R115). -/
def waitsNoMore (s : State) (m : Mem) (who : Requester) : Prop := stillWaits { s with mem := m } who = false

/-- A split that waited on a walk, a fault record or the host tries again (R115). -/
def resumes (tid gi rank : Nat) (y : Split) : Split :=
  if y.tid = tid ∧ y.gi = gi ∧ y.rank = rank ∧ y.st = .parked ∧ (y.park = .walk ∨ y.park = .fault ∨ y.park = .ats) then ready y else y

/-- A split that waited on a walk or the host waits on a fault record (R115). -/
def awaitsRecord (tid gi rank : Nat) (y : Split) : Split :=
  if y.tid = tid ∧ y.gi = gi ∧ y.rank = rank ∧ y.st = .parked ∧ (y.park = .walk ∨ y.park = .ats) then { y with park := .fault } else y

/-- Room for ws words' tags in the vector pools, and lines that take word tags (R42). -/
def roomy (m : Mem) (ws : List (Nat × Cell)) : Prop :=
  ∀ w ∈ ws, takesTags m w.1 ∧ mapGet 0 m.poolUsed (stackOf w.1) + ws.length ≤ poolSize (stackOf w.1)

/-- Words of this device's memory take given cells at their homes, and every other byte and tag stays. -/
def wordsPut (m m' : Mem) (ws : List (Nat × Cell)) : Prop :=
  m' = { m with
    bytes := m'.bytes, tags := m'.tags, poolUsed := m'.poolUsed, mixedCnt := m'.mixedCnt, l2 := m'.l2, writeBacks := m'.writeBacks } ∧
  (∀ w ∈ ws, homeCell m' w.1 = w.2) ∧
  ∀ x, (∀ w ∈ ws, x / 4 * 4 ≠ w.1) → readByte m'.bytes x = readByte m.bytes x ∧ memTag m' x = memTag m x

/-- The ATOM of an opcode, with R97's new value at n bits. -/
def remoteOp (k : Nat) : Option AtomOp :=
  (([.add, .fadd, .min, .max, .minu, .maxu, .and, .or, .xor, .exch, .cas, .inc] : List AtomOp).zipIdx.find? fun o => 0xB0 + o.2 = k).map
    fun o => o.1

/-- The number that words hold, the lowest first. -/
def wordsNum (l : List Cell) : Nat := l.foldr (fun c n => c.1.toNat + 2 ^ 32 * n) 0

end Sys2Proof.Claims

/-- R89, R90, R210, R288, R375, R437 and the frame of the replies and of a group's packets. An operation in flight of a live group comes
back: its cells and events are written, its counter falls and it is forgotten; an acquire at CLU scope or wider drops the core's
non-owned words, and words that a store left unregistered are seen by every agent from then on. A remote load that times out gives 0
tagged POISON, a remote store that does is a context fault with its word, lanes and split. No watchpoint has waited for the operation. A SYNC packet after 256 packets and a BRANCH packet of 64 branch bits are
stated for a trace ring in host memory. -/
def Obligations.RepliesAndPackets : Prop :=
  (∀ s a f u g, (s.mem.flights.find? fun q => q.id = a.a) = some f → findTeam s f.tid = some u → findGroup s f.tid f.gi = some g →
    g.exited = false → f.replay = false → f.fx = [] → (f.acquire = true → lsSettled s = true) →
    (f.kind = .store → s.mem.monitors = [] → mapWf ({} : L1Word) s.mem.l1 = true →
      (∀ w ∈ f.unreg, w.1 = u.core ∧ w.2 % 4 = 0 ∧ w.2 < 2 ^ 50 ∧ (l1Get s.mem w.1 w.2).owned = true) →
      ∃ t, happens .storeAcknowledgement a s t ∧ ∀ w ∈ f.unreg, peekCell t.mem w.2 = coreCell s.mem w.1 w.2) ∧
    (f.unreg = [] →
    let gone := { s.mem with
      flights := s.mem.flights.filter fun q => q.id ≠ f.id
      l1 := if f.inval then s.mem.l1.filter fun x => !(x.1 / 2 ^ 48 = u.core && !x.2.owned) else s.mem.l1 }
    let lands := fun (t : State) (g' : Group) =>
      findGroup t f.tid f.gi = some g' ∧ (∀ tid gi, ¬(tid = f.tid ∧ gi = f.gi) → findGroup t tid gi = findGroup s tid gi) ∧
      t.splits = s.splits.map (counterWakes f) ∧ lowered f g g'
    (∀ i, (i = .loadReply ∧ f.kind = .load) ∨ (i = .storeAcknowledgement ∧ f.kind = .store ∧ (f.isRemote && a.yes) = false) ∨
        (i = .transformPipeReply ∧ f.kind = .xform) ∨ (i = .fabricTimeout ∧ f.kind = .load ∧ f.isRemote = true) →
      f.fills = [] → (f.cells.map fun c => c.1).Nodup → (f.scalars.map fun c => c.1).Nodup → (f.events.map fun c => c.1).Nodup →
      ∃ t g', happens i a s t ∧ t = { s with mem := gone, groups := t.groups, splits := t.splits, fx := [], devFail := none } ∧
        lands t g' ∧ overlay g.vregs g'.vregs f.cells ∧ overlay g.sregs g'.sregs f.scalars ∧
        ∀ j, lstatOf g' j = ((f.events.find? fun c => c.1 = j).map fun c => lstatOf g j ||| sticky c.2).getD (lstatOf g j)) ∧
    (f.isRemote = true → f.kind = .load → f.cells = [] → f.scalars = [] → f.events = [] →
      (∀ x ∈ f.fills, x.reg + x.words ≤ 0xC0 ∧ x.lane < 64 ∧ (x.w ≤ 3 → x.words ≤ 1) ∧ x.owned = false) →
      ∃ t g', happens .fabricTimeout a s t ∧
        t = { s with mem := gone, groups := t.groups, splits := t.splits, fx := [], devFail := none } ∧ lands t g' ∧ g'.sregs = g.sregs ∧ g'.lstat = g.lstat ∧
        ∀ r j, j < 64 → vreg g' r j =
          if f.fills.any fun x => x.lane = j && x.reg ≤ r && r < x.reg + x.words then (0#32, 0xFF00#16) else vreg g r j) ∧
    ∀ l c, f.isRemote = true → f.kind ≠ .load → findLaunch s u.launch = some l → findCtx s l.ctx = some c → c.fault = none →
      let lost : CtxFault :=
        { cause := 0xA8#8, launch := l.id, team := some u.ordinal, gi := some f.gi
          splitId := (findSplit s f.tid f.gi f.rank).map fun y => y.id.toNat
          trap := { cause := 0xA8#8, pc := f.pc, mask := maskOf (f.fills.map fun k => k.lane), info2 := f.word } }
      ∃ t, happens .fabricTimeout a s t ∧
        t = { s with mem := gone, groups := t.groups, splits := t.splits, ctxs := t.ctxs, fx := [], devFail := none } ∧
        (∀ n, n ≠ l.ctx → findCtx t n = findCtx s n) ∧ findCtx t l.ctx = some { c with fault := some lost })) ∧
  (∀ s a x e c H size n, splitsOf s a.a a.b = [x] → exAt s x.tid x.gi x.rank = some e → findCtx s e.lch.ctx = some c →
    256 ≤ e.g.packets → x.brBits = [] → stillMemory s → tracePlace s c H size n 7 →
    ∃ t, happens .syncPeriodic a s t ∧
      t = { s with
        mem := { s.mem with hostMem := t.mem.hostMem, l2 := t.mem.l2, writeBacks := t.mem.writeBacks }
        ctxs := t.ctxs, groups := t.groups, fresh := t.fresh, fx := [], devFail := none } ∧
      findCtx t c.num = some { c with gseq := c.gseq + 1 } ∧ (∀ k, k ≠ c.num → findCtx t k = findCtx s k) ∧
      findGroup t x.tid x.gi = some { e.g with packets := 0, syncDue := none } ∧
      (∀ tid gi, ¬(tid = x.tid ∧ gi = x.gi) → findGroup t tid gi = findGroup s tid gi) ∧
      packetWritten s.mem.hostMem t.mem.hostMem H size n (packetBytes 7 x.id.toNat x.gi e.tm.ordinal
        (bytesOf 8 (Config.cycle e.tm.core s.clock).toNat ++ bytesOf 8 c.gseq ++ bytesOf 4 (x.pc - e.lch.code).toNat ++ [0#8, 0#8] ++
          bytesOf 2 e.tm.core))) ∧
  ∀ s a e c H size n, exAt s a.a a.b a.c = some e → findCtx s e.lch.ctx = some c → e.x.brBits.length = 64 →
    stillMemory s → tracePlace s c H size n 1 →
    ∃ t, happens .branchFlush a s t ∧
      t = { s with
        mem := { s.mem with hostMem := t.mem.hostMem, l2 := t.mem.l2, writeBacks := t.mem.writeBacks }
        groups := t.groups, splits := t.splits, fresh := t.fresh, fx := [], devFail := none } ∧
      findGroup t a.a a.b = some { e.g with packets := e.g.packets + 1 } ∧
      (∀ tid gi, ¬(tid = a.a ∧ gi = a.b) → findGroup t tid gi = findGroup s tid gi) ∧
      findSplit t a.a a.b a.c = some { e.x with brBits := [] } ∧
      (∀ tid gi r, ¬(tid = a.a ∧ gi = a.b ∧ r = a.c) → findSplit t tid gi r = findSplit s tid gi r) ∧
      packetWritten s.mem.hostMem t.mem.hostMem H size n (packetBytes 1 e.x.id.toNat a.b e.tm.ordinal
        (bytesOf 8 ((upTo 64).foldl (fun v b => v + if e.x.brBits.getD b false then 2 ^ b else 0) 0) ++ [64#8]))

/-- R106, R109 to R117 and the frame of what answers a split's wait for a translation, with memory at rest: a walk that finds a leaf fills
the caches of its core and its die, and the split tries again once nothing else keeps it; one that fails writes a fault record in its
die's ring. Keeper's service writes its page-table entry and the waiting split tries again, or, unserviceable, faults the ring that
asked; what it serviced is read anew, the page's leaf leaving the caches of the record's die (the model's reading, log entry 41), and its
words are tagged UNMARKED (the model's choice, log entry 11). The host's grants and refusals on a die and an ATS invalidation act alike; a waiter without a monitor reads its word again and goes
on where its condition holds. -/
def Obligations.Translations : Prop :=
  (∀ s a w c tid gi rank, (s.mem.walks.find? fun q => q.id = a.a && walking s.mem q) = some w → findCtx s w.ctx = some c →
    w.who = .split tid gi rank → stillMemory s →
    let same := fun (q : Walk) => q.ctx = w.ctx && q.page = w.page && dieOf q.core = dieOf w.core
    s.mem.walks.filter same = [w] →
    let rest := s.mem.walks.filter fun q => !same q
    (∀ leaf level, walkVa s c.root w.va = .leaf leaf level → waitsNoMore s { s.mem with walks := rest } w.who →
      (s.mem.tlb.filter fun q => q.core = some w.core && q.die = dieOf w.core).length < 128 →
      (s.mem.tlb.filter fun q => q.core = none && q.die = dieOf w.core).length < 8192 →
      ∃ t, happens .walkCompletion a s t ∧
        t = { s with
          mem := { s.mem with walks := rest, tlb := t.mem.tlb, l2 := t.mem.l2, writeBacks := t.mem.writeBacks }
          fresh := t.fresh, splits := s.splits.map (resumes tid gi rank) } ∧
        ∀ q, q ∈ t.mem.tlb ↔ q = ⟨some w.core, dieOf w.core, w.ctx, w.page, leaf, level⟩ ∨
          q = ⟨none, dieOf w.core, w.ctx, w.page, leaf, level⟩ ∨
          (q ∈ s.mem.tlb ∧ ¬(q.ctx = w.ctx ∧ q.page = w.page ∧ q.die = dieOf w.core ∧ (q.core = some w.core ∨ q.core = none)))) ∧
    ∀ cause level, walkVa s c.root w.va = .fail cause level →
      let kind := if w.kind = 5 then 5 else if cause = 0x21#8 then 0 else if cause = 0x23#8 then 4 else w.kind
      let die := dieOf w.core
      (∀ f ∈ s.mem.faults, ¬(f.die = die ∧ f.ctx = w.ctx ∧ f.va.toNat / 65536 = w.va.toNat / 65536 ∧ f.cause = cause ∧ f.kind = kind)) →
      let seq := mapGet 0 s.mem.faultSeq die
      ∃ t, happens .walkCompletion a s t ∧ t = { s with
        nextId := s.nextId + 1, fresh := t.fresh
        mem := { s.mem with
          l2 := t.mem.l2, writeBacks := t.mem.writeBacks, walks := rest, faultSeq := mapSet 0 s.mem.faultSeq die (seq + 1)
          faults := s.mem.faults ++
            [⟨s.nextId, die, seq, w.ctx, w.va, kind, level, w.lanes, w.core, 0, cause, [⟨w.who, w.lanes, w.va⟩]⟩] }
        splits := s.splits.map (awaitsRecord tid gi rank) }) ∧
  (∀ s a f k, (s.mem.faults.find? fun q => q.id = a.a) = some f → f.asks = [k] →
    let rest := s.mem.faults.filter fun q => q.id ≠ f.id
    let fresh := s.mem.tlb.filter fun q => !(q.die = f.die && q.ctx = f.ctx && q.page = f.va.toNat / 65536)
    (∀ tid gi rank, a.yes = true → k.who = .split tid gi rank → a.entries = [] →
      (waitsNoMore s { s.mem with faults := rest } k.who →
        happens .faultService a s
          { s with mem := { s.mem with faults := rest, tlb := fresh }, splits := s.splits.map (resumes tid gi rank) }) ∧
      (¬waitsNoMore s { s.mem with faults := rest } k.who →
        happens .faultService a s { s with mem := { s.mem with faults := rest, tlb := fresh } })) ∧
    (∀ tid gi rank pa v, a.yes = true → k.who = .split tid gi rank → a.entries = [(pa, v)] → pa % 8 = 0 → inRegion s pa = true →
      let ws := [(pa, (v.extractLsb' 0 32, 0x0000#16)), (pa + 4, (v.extractLsb' 32 32, 0x0000#16))]
      waitsNoMore s { s.mem with faults := rest } k.who → stillMemory s → roomy s.mem ws →
      ∃ t, happens .faultService a s t ∧
        t = { s with mem := t.mem, splits := s.splits.map (resumes tid gi rank), fresh := t.fresh } ∧
        wordsPut { s.mem with faults := rest, tlb := fresh } t.mem ws) ∧
    ∀ r, a.yes = false → k.who = .ring r →
      happens .faultService a s { s with
        mem := { s.mem with faults := rest }
        rings := s.rings.map fun q =>
          if q.idx = r then { q with faulted := true, slot := if q.pinned then q.slot else none, blocked := false } else q }) ∧
  (∀ s a, happens .atsInvalidation a s { s with
    mem := { s.mem with ats := s.mem.ats.filter fun p => !(p.2 * 65536 < a.a + a.b && a.a < (p.2 + 1) * 65536) } }) ∧
  (∀ s a q tid gi rank,
    let here := fun (k : AtsReq) => k.page = a.a && dieOf k.core = a.b
    let rest := s.mem.atsReqs.filter fun k => !here k
    (s.mem.atsReqs.filter fun k => here k && k.pri = false) = [q] → q.who = .split tid gi rank →
    (a.yes = true → waitsNoMore s { s.mem with atsReqs := rest } q.who → happens .atsTranslationReply a s { s with
      mem := { s.mem with
        ats := if s.mem.ats.contains (a.b, a.a) then s.mem.ats else s.mem.ats ++ [(a.b, a.a)], atsReqs := rest }
      splits := s.splits.map (resumes tid gi rank) }) ∧
    (a.yes = false → happens .atsTranslationReply a s { s with
      mem := { s.mem with atsReqs := s.mem.atsReqs.map fun k => if here k then { k with pri := true } else k }
      dev := { s.dev with outbox := s.dev.outbox ++ [.ats a.a true] } })) ∧
  (∀ s a q tid gi rank,
    let here := fun (k : AtsReq) => k.page = a.a && dieOf k.core = a.b
    let rest := s.mem.atsReqs.filter fun k => !here k
    (s.mem.atsReqs.filter fun k => here k && k.pri = true) = [q] → q.who = .split tid gi rank →
    (a.yes = true → waitsNoMore s { s.mem with atsReqs := rest } q.who → happens .priResponse a s { s with
      mem := { s.mem with atsReqs := rest }, splits := s.splits.map (resumes tid gi rank) }) ∧
    (a.yes = false →
      let die := dieOf q.core
      (∀ f ∈ s.mem.faults, ¬(f.die = die ∧ f.ctx = q.ctx ∧ f.va.toNat / 65536 = q.va.toNat / 65536 ∧ f.cause = 0x21#8 ∧ f.kind = 5)) →
      let seq := mapGet 0 s.mem.faultSeq die
      ∃ level, happens .priResponse a s { s with
        nextId := s.nextId + 1
        mem := { s.mem with
          atsReqs := rest, faultSeq := mapSet 0 s.mem.faultSeq die (seq + 1)
          faults := s.mem.faults ++
            [⟨s.nextId, die, seq, q.ctx, q.va, 5, level, q.lanes, q.core, 0, 0x21#8, [⟨q.who, q.lanes, q.va⟩]⟩] }
        splits := s.splits.map (awaitsRecord tid gi rank) })) ∧
  ∀ s a q, (s.mem.rechecks.find? fun k => k.waiter = if a.yes then .ring a.a else .split a.a a.b a.c) = some q →
    let rest := s.mem.rechecks.filter fun k => k.waiter ≠ if a.yes then .ring a.a else .split a.a a.b a.c
    (a.yes = true → happens .monitorRecheck a s { s with
      mem := { s.mem with rechecks := rest }
      rings := s.rings.map fun q => if q.idx = a.a then { q with blocked := false } else q }) ∧
    (a.yes = false → stillMemory s → (∀ u, findTeam s a.a = some u → stagedLine s.mem u.launch (q.pa / 64) = none) → q.cond < 8 →
      let w := (homeCell s.mem q.pa).1
      let holds := (if q.isSigned then intCondition (BitVec.ofNat 3 q.cond) w.toInt q.value.toInt
        else intCondition (BitVec.ofNat 3 q.cond) w.toNat q.value.toNat) = true
      ∃ t, happens .monitorRecheck a s t ∧
        (holds → t = { s with
          mem := { s.mem with l2 := t.mem.l2, writeBacks := t.mem.writeBacks, rechecks := rest }, fresh := t.fresh
          splits := s.splits.map fun y => if y.tid = a.a ∧ y.gi = a.b ∧ y.rank = a.c then ready y else y }) ∧
        (¬holds → t = { s with
          mem := { s.mem with l2 := t.mem.l2, writeBacks := t.mem.writeBacks }, fresh := t.fresh }))

/-- R43, R93 to R98, R287 and the frame of accesses from outside to this device's memory at rest: a host write puts its bytes and tags the
words HOST; a host read returns bytes and changes no byte or tag; a peer's load, store and ATOM act at the home with the tags they
carry and are answered, and one outside the regions of R85 is reported. Bring-up has not failed (R446). That a peer's 64-bit ATOM under
KEEP leaves each of its two words its own tag is the model's choice (log entry 22). -/
def Obligations.OutsideAccess : Prop :=
  (∀ s a, stillMemory s → s.dev.err = false → (∀ x, a.a ≤ x → x < a.a + a.bytes.length → inRegion s (x / 4 * 4) = true ∧ takesTags s.mem x ∧
      mapGet 0 s.mem.poolUsed (stackOf (x / 4 * 4)) + a.bytes.length ≤ poolSize (stackOf (x / 4 * 4))) →
    let put := fun x => decide (a.a ≤ x) && decide (x < a.a + a.bytes.length)
    ∃ t, happens .hostWrite a s t ∧ t = { s with mem := t.mem, fresh := t.fresh } ∧
      t.mem = { s.mem with
        bytes := t.mem.bytes, tags := t.mem.tags, poolUsed := t.mem.poolUsed, mixedCnt := t.mem.mixedCnt, l2 := t.mem.l2
        writeBacks := t.mem.writeBacks } ∧
      (∀ x, readByte t.mem.bytes x = if put x then a.bytes.getD (x - a.a) 0#8 else readByte s.mem.bytes x) ∧
      ∀ x, memTag t.mem x = if (upTo 4).any fun k => put (x / 4 * 4 + k) then 0xFF03#16 else memTag s.mem x) ∧
  (∀ s a, stillMemory s → s.dev.err = false → (∀ k, k < a.b → inRegion s (a.a + k) = true ∧ inRegion s ((a.a + k) / 4 * 4) = true) →
    ∃ t, happens .hostRead a s t ∧
      t = { s with
        mem := { s.mem with l2 := t.mem.l2, writeBacks := t.mem.writeBacks }, fresh := t.fresh,
        dev := { s.dev with outbox := s.dev.outbox ++ [.hostData ((upTo a.b).map fun k => readByte s.mem.bytes (a.a + k))] } }) ∧
  ∀ s a, stillMemory s → s.dev.err = false →
    let from_ := a.b / 4 * 4
    let reply := fun (t : State) (cs : List Cell) => t.dev = (sendAccess s a.c 8 a.b cs).dev
    let goes := fun (p : State → Prop) => ∃ t, happens .florixRemoteRequest a s t ∧
      t = { s with mem := t.mem, dev := t.dev, fresh := t.fresh } ∧ p t
    (a.a = 0 → (∀ k, k < 4 * a.words.length → inRegion s (from_ + k) = true) → a.words ≠ [] →
      goes fun t => t.mem = { s.mem with l2 := t.mem.l2, writeBacks := t.mem.writeBacks } ∧
        reply t ((upTo a.words.length).map fun k => homeCell s.mem (from_ + 4 * k))) ∧
    (a.a = 1 ∨ a.a = 5 → (∀ k, k < 4 * a.words.length → inRegion s (from_ + k) = true) → a.words ≠ [] →
      let ws := a.words.zipIdx.map fun c =>
        (from_ + 4 * c.2, (c.1.1, if a.a = 5 then memTag s.mem (from_ + 4 * c.2) else c.1.2))
      roomy s.mem ws → goes fun t => wordsPut s.mem t.mem ws ∧ reply t []) ∧
    (∀ n c cs, (n = 1 ∧ (a.a = 2 ∨ a.a = 6)) ∨ (n = 2 ∧ (a.a = 3 ∨ a.a = 7)) → a.words = c :: cs → a.b % n = 0 →
      inRegion s from_ = true → inRegion s a.b = true → inRegion s (a.b + n - 1) = true →
      takesTags s.mem from_ → mapGet 0 s.mem.poolUsed (stackOf from_) < poolSize (stackOf from_) →
      goes fun t => reply t [] ∧ t.mem = { s.mem with
          bytes := t.mem.bytes, tags := t.mem.tags, poolUsed := t.mem.poolUsed, mixedCnt := t.mem.mixedCnt, l2 := t.mem.l2
          writeBacks := t.mem.writeBacks } ∧
        (∀ x, readByte t.mem.bytes x = if a.b ≤ x ∧ x < a.b + n then BitVec.ofNat 8 (c.1.toNat / 2 ^ (8 * (x - a.b))) else
          readByte s.mem.bytes x) ∧
        ∀ x, memTag t.mem x = if x / 4 * 4 = from_ ∧ a.a < 4 then c.2 else memTag s.mem x) ∧
    (∀ op, remoteOp a.a = some op →
      let n := if a.yes then 2 else 1
      let k := if op = .cas then 2 * n else n
      a.b % (4 * n) = 0 → inRegion s a.b = true → inRegion s (a.b + 4 * n - 1) = true → k < a.words.length →
      takesTags s.mem a.b → mapGet 0 s.mem.poolUsed (stackOf a.b) + n ≤ poolSize (stackOf a.b) →
      let val := wordsNum ((a.words.drop (k - n)).take n)
      let old := readNum s.mem.bytes a.b (4 * n)
      let ctl := a.words.getD k (0#32, 0#16)
      let told := summarise ((upTo n).map fun j => memTag s.mem (a.b + 4 * j))
      let stays := told = 0xFF00#16 ∨ (op = .cas ∧ old ≠ wordsNum (a.words.take n))
      let tag := (a.words.getD (k - n) (0#32, 0#16)).2
      goes fun t => t.mem = { s.mem with
          bytes := t.mem.bytes, tags := t.mem.tags, poolUsed := t.mem.poolUsed, mixedCnt := t.mem.mixedCnt, l2 := t.mem.l2
          writeBacks := t.mem.writeBacks } ∧
        readNum t.mem.bytes a.b (4 * n) = (if stays then old else atomicValue op (32 * n) (ctl.1.getLsbD 3) old val) ∧
        (∀ x, ¬(a.b ≤ x ∧ x < a.b + 4 * n) → readByte t.mem.bytes x = readByte s.mem.bytes x ∧ memTag t.mem x = memTag s.mem x) ∧
        (∀ j, j < n → memTag t.mem (a.b + 4 * j) = if stays then memTag s.mem (a.b + 4 * j) else
          if ctl.1.toNat % 8 = 0 ∧ (op = .exch ∨ op = .cas) then tag else
            ruleTag (ctl.1.toNat % 8) .produce ctl.2 (told :: if ctl.1.getLsbD 4 then [tag] else []) told tag
              (memTag s.mem (a.b + 4 * j))) ∧
        ∃ ev, reply t (((upTo n).map fun j => if told = 0xFF00#16 then (0#32, 0xFF00#16) else
            ((homeCell s.mem (a.b + 4 * j)).1, told)) ++ if op = .fadd then [(ev, 0x0000#16)] else [])) ∧
    (a.a = 0 → inRegion s from_ = false →
      happens .florixRemoteRequest a s { s with dev := (sendAccess s a.c 9 a.b []).dev })

namespace Sys2Proof.Claims
open Sys2Proof.Machine

/-! ## Events: rings, launches, contracts, pre-emption and faults -/

/-- A state in which homes have been read since s, while this device's memory is at rest: at most the sectors that lie in L2, the
count of lines written back and the count of free choices differ (R88). -/
def readsOf (s u : State) : Prop :=
  u = { s with mem := { s.mem with l2 := u.mem.l2, writeBacks := u.mem.writeBacks }, fresh := u.fresh }

/-- A ring past a command (R346, R349): HEAD is one more, and an emptied ring that is not pinned leaves its slot. -/
def headPast (q : Ring) : Ring :=
  { q with head := q.head + 1#32, slot := if q.head + 1#32 = q.tail ∧ q.pinned = false then none else q.slot }

/-- A machine whose ring r is past its command. -/
def ringPast (s : State) (r : Nat) : State := { s with rings := s.rings.map fun k => if k.idx = r then headPast k else k }

/-- The launch that LAUNCH begins on a ring without a contract (R348), from the fields of its descriptor. -/
def begunLaunch (s : State) (q : Ring) (a : LaunchArgs) (l : Launch) : Launch :=
  { l with
    id := s.nextId, ctx := q.ctx, ring := some q.idx, cls := q.cls, rt := false, contract := none, released := false, age := q.mapped,
    crec := a.crec, cword := a.cword, cval := a.cval, undisp := upTo (l.gx * l.gy * l.gz), status := 0, begun := false }

/-- The machine once a launch of a ring has begun: it is listed, it is the ring's latest, and HEAD is past its command. -/
def launchListed (s : State) (q : Ring) (l : Launch) : State :=
  { s with
    nextId := s.nextId + 1, launches := s.launches ++ [l]
    rings := s.rings.map fun k =>
      if k.idx = q.idx then { headPast k with begun := k.begun ++ [l.id], last := some l.id } else k }

/-- A launch may begin after its ring's earlier commands, and no contract holds the ring (R348, R354). -/
def begins (s : State) (q : Ring) (a : LaunchArgs) (l : Launch) : Prop :=
  mayBegin s q a.ovl = true ∧ (∀ k ∈ s.contracts, k.ring ≠ q.idx) ∧ l.coop = false ∧
  ∀ u, readsOf s u → earlyStatus u (begunLaunch s q a l) = 0

/-- A span of a context's virtual memory lies in the host's memory from H upward. -/
def inHost (s : State) (ctx : Nat) (va : DWord) (n H : Nat) : Prop :=
  H % 4 = 0 ∧ ∀ k, k < n → k % 4 = 0 → ∃ T, translateNow s 0 ctx (va + BitVec.ofNat 64 k) 2 = .ok T ∧ T.tier = 2 ∧ T.pa = H + k

/-- A context on which a fault is raised (R410, R412). -/
def faulted (c : Ctx) (f : CtxFault) : Ctx :=
  if c.fault = none then { c with fault := some f } else { c with secondary := c.secondary ++ [f] }

/-- What is left without some teams: a sequencer of their quads that waited for a reservation entry looks again (R248). -/
def withoutTeams (s t : State) (gone : Team → Bool) : Prop :=
  let has := fun (tid : Nat) => s.teams.any fun u => gone u && u.tid = tid
  let near := fun (u : Team) => s.teams.any fun k => has k.tid && quadOf k.core = quadOf u.core
  t.teams = (s.teams.filter fun u => !has u.tid).map (fun u =>
    if u.seqState = .parked ∧ (u.seqPark = .entry ∨ u.seqPark = .drain) ∧ near u = true then
      { u with seqState := .running, seqPark := .none }
    else u) ∧ t.groups = s.groups.filter (fun g => !has g.tid) ∧
  t.splits = s.splits.filter (fun x => !has x.tid) ∧
  t.mem = { s.mem with
    flights := s.mem.flights.filter fun f => !has f.tid
    walks := t.mem.walks, atsReqs := t.mem.atsReqs, faults := t.mem.faults, locks := t.mem.locks, monitors := t.mem.monitors
    portWait := s.mem.portWait.filter fun w => !has w.2.1, rechecks := t.mem.rechecks, staged := t.mem.staged }

/-- Nothing of the memory system waits for anyone: no walk, record, request, lock, monitor or re-read. -/
def nobodyWaits (m : Mem) : Prop :=
  m.walks = [] ∧ m.atsReqs = [] ∧ m.faults = [] ∧ m.locks = [] ∧ m.monitors = [] ∧ m.portWait = [] ∧ m.rechecks = []

/-- No team but those that go has operations to post again. -/
def nothingToRepost (s : State) (gone : Team → Bool) : Prop := ∀ u ∈ s.teams, gone u = false → u.repost = []

/-- Every write that the device has sent to other devices for a context has been acknowledged (R287, R375). -/
def acknowledged (s : State) (ctx : Nat) : Prop := ∀ p ∈ s.mem.posts, p.read = true ∨ p.who ≠ .device ctx

/-- The order in which rings that want a slot get one (R349): a pinned ring, then a higher class, then the least recently mapped. -/
def mapsFirst (q k : Ring) : Prop :=
  (q.pinned = true ∧ k.pinned = false) ∨
  (q.pinned = k.pinned ∧ ((q.pinned = false ∧ q.cls < k.cls) ∨ ((q.pinned = true ∨ q.cls = k.cls) ∧ q.mapped < k.mapped)))

/-- What pinning ring r for a release comes to (R349), as the next identifier and the rings after it: the ring keeps its slot or takes a
free one; where there is none, it waits, pinned, for the mapping that gives it another ring's. -/
def pins (s : State) (r : Nat) (after : Nat → List Ring → Prop) : Prop :=
  let pinned := fun (f : Ring → Ring) => s.rings.map fun q => if q.idx = r then { f q with pinned := true } else f q
  let slotted := fun (i : Nat) (q : Ring) => if q.idx = r then { q with slot := some i, mapped := s.nextId + 1 } else q
  let held := fun (j : Nat) => ∃ k ∈ s.rings, k.slot = some j
  ((∃ k ∈ s.rings, k.idx = r ∧ k.slot.isSome) → after s.nextId (pinned id)) ∧
  ((∀ k ∈ s.rings, k.idx = r → k.slot = none) → (∃ j, j < 32 ∧ ¬held j) →
    ∃ i, i < 32 ∧ ¬held i ∧ after (s.nextId + 1) (pinned (slotted i))) ∧
  ((∀ k ∈ s.rings, k.idx = r → k.slot = none) → (∀ j, j < 32 → held j) → after s.nextId (pinned id))

/-- The cores that a fencing names (R432). -/
def fencedBy (a : EvArg) : List Nat :=
  if a.yes then (upTo 192).filter fun c => quadOf c = a.a else if a.a < 192 then [a.a] else []

end Sys2Proof.Claims

/-- R346 to R349 and the frame of the ring commands at HEAD and of the queue mapper, for this device's memory at rest: FENCE and SIGNAL
after every earlier command, SIGNAL writing its word tagged UNMARKED; WAIT whose condition holds, and one whose condition does not,
which blocks the ring on a monitor of an HBM4E word or on a word that is read again; LAUNCH and NODE, which list their launch with every
team undispatched; and a slot, free or that of the lowest-class, least recently mapped unpinned ring at a command boundary, taken by the
first ring that wants one. -/
def Obligations.RingCommands : Prop :=
  (∀ s a q c, ringAt s a.a = .cmd q c .fence → q.begun = [] → stillMemory s →
    ∃ t, happens .ringFence a s t ∧ readsOf (ringPast s q.idx) t) ∧
  (∀ s a q c v va T, ringAt s a.a = .cmd q c (.signal v va) → q.begun = [] → acknowledged s q.ctx → translateNow s 0 q.ctx va 2 = .ok T →
    T.tier < 2 → T.pa % 4 = 0 → stillMemory s → roomy s.mem [(T.pa, (v, 0x0000#16))] →
    ∃ t, happens .ringSignal a s t ∧ wordsPut s.mem t.mem [(T.pa, (v, 0x0000#16))] ∧
      t = { ringPast s q.idx with mem := t.mem, fresh := t.fresh }) ∧
  (∀ s a q c cond sg v va T w, ringAt s a.a = .cmd q c (.wait cond sg v va) → ringWord s q.ctx va = .ok (T, w) → w.2 ≠ 0xFF00#16 →
    isRemote s T = false → stillMemory s →
    (condHolds cond sg w.1 v = true → ∃ t, happens .ringWait a s t ∧ readsOf (ringPast s q.idx) t) ∧
    (condHolds cond sg w.1 v = false →
      let m : Monitor := ⟨T.pa / 4 * 4, cond, sg, v, .ring q.idx⟩
      let others := s.mem.rechecks.filter fun k => k.waiter ≠ .ring q.idx
      ∃ t, happens .ringWait a s t ∧ readsOf { s with
        mem := { s.mem with
          monitors := if T.tier = 0 then [m] else []
          rechecks := if T.tier = 0 then others else others ++ [m] }
        rings := s.rings.map fun k =>
          if k.idx = q.idx then { k with blocked := true, slot := if k.pinned then k.slot else none } else k } t)) ∧
  (∀ s a q c la l, ringAt s a.a = .cmd q c (.launch la) → readLaunch s q.ctx la.ldesc = .ok (some l) → begins s q la l →
    stillMemory s → ∃ t, happens .ringLaunch a s t ∧ readsOf (launchListed s q (begunLaunch s q la l)) t) ∧
  (∀ s a q c la n l outs, ringAt s a.a = .cmd q c (.node la n) → begins s q la l → stillMemory s →
    (∀ u, readsOf s u → readLaunch u q.ctx la.ldesc = .ok (some l) ∧ readOuts u q.ctx n = .ok (some outs)) →
    (∀ p ∈ n.preds, ∃ T w, ringWord s q.ctx p.1 = .ok (T, w) ∧ isRemote s T = false ∧ w.2 ≠ 0xFF00#16 ∧ p.2.toNat ≤ w.1.toNat) →
    ∃ t, happens .ringNode a s t ∧ readsOf (launchListed s q
      { begunLaunch s q la l with node := true, replayable := true, budget := n.budget, outs := outs }) t) ∧
  ∀ s a q, findRing s a.a = some q → q.slot = none → mapEligible s q = true ∨ q.pinned = true →
    (∀ k ∈ s.rings, k.slot = none → mapEligible s k = true ∨ k.pinned = true → k.idx ≠ q.idx → mapsFirst q k) →
    (∀ k ∈ s.rings, k.cls ≤ 2 ∧ k.mapped < 2 ^ 64) →
    (∀ j, j < 32 → (∀ k ∈ s.rings, k.slot ≠ some j) →
      ∃ i, i < 32 ∧ (∀ k ∈ s.rings, k.slot ≠ some i) ∧
        happens .ringMapping a s { s with
          nextId := s.nextId + 1
          rings := s.rings.map fun k => if k.idx = q.idx then { k with slot := some i, mapped := s.nextId + 1 } else k }) ∧
    ∀ v i, (∀ j, j < 32 → ∃ k ∈ s.rings, k.slot = some j) → (s.rings.map fun k => k.idx).Nodup → v ∈ s.rings → v.slot = some i →
      v.pinned = false → (∀ k ∈ s.rings, k.slot.isSome → k.pinned = false → k.idx ≠ v.idx →
        k.cls < v.cls ∨ (k.cls = v.cls ∧ v.mapped < k.mapped)) → q.pinned = true ∨ q.cls < v.cls →
      (atBoundary s v = true → happens .ringMapping a s { s with
        nextId := s.nextId + 1
        rings := s.rings.map fun k =>
          if k.idx = q.idx then { k with slot := some i, mapped := s.nextId + 1 }
          else if k.idx = v.idx then { k with slot := none } else k }) ∧
      (atBoundary s v = false → happens .ringMapping a s s)

/-- R119, R349, R352 to R359, R422, R423, R443 and the frame of a launch's events: a team of a cluster of one placed with R357's state on a
core that the teams over there leave and whose L1 drops its non-owned words, a starved launch, the grid rule's save of the team parked
longest, the completion record and word (stated for host memory), a node's commit of one staged line and its rollback within and beyond
its budget, and a contract's release, whose ring is pinned, in its slot or a free one where there is one, and overrun. -/
def Obligations.LaunchesAndContracts : Prop :=
  (∀ s a l o os ps s1, findLaunch s a.a = some l → l.undisp = o :: os → l.coop = false → l.cw = 1 → l.ch = 1 →
    dispatchable s l = true → itsTurn s l = true → fitsOn s l a.b = some (ps, s1) →
    let gone := fun (tid : Nat) => s.teams.any fun u => u.core = a.b && teamOver s u && u.tid = tid
    ∃ t, happens .teamDispatch a s t ∧ t = { s with
      nextId := s.nextId + 1, fresh := s.fresh + l.hdr.groups
      mem := { s.mem with l1 := s.mem.l1.filter fun e => !(e.1 / 2 ^ 48 = a.b && !e.2.owned) }
      ctxs := t.ctxs
      teams := s.teams.filter (fun u => !gone u.tid) ++ [newTeam l s.nextId o a.b]
      groups := s.groups.filter (fun g => !gone g.tid) ++ ps.zipIdx.map fun p => newGroup l s.nextId o p.2 p.1
      splits := s.splits.filter (fun x => !gone x.tid) ++ ps.zipIdx.map fun p => newSplit l s.nextId p.2 p.1.1
      shadows := s.shadows ++ (t.groups.filter fun g => g.tid = s.nextId && g.twin.isSome && !g.exited).map fun g =>
        { tid := s.nextId, gi := g.gi, g := g, masks := masksOf t s.nextId g.gi }
      launches := s.launches.map fun k =>
        if k.id = l.id then
          { k with undisp := k.undisp.filter fun n => n ≠ o, begun := true, starved := false, gridRule := false }
        else k } ∧
    (t.ctxs.map fun c => { c with unchecked := 0 }) = (s.ctxs.map fun c => { c with unchecked := 0 }) ∧
    newTeam l s.nextId o a.b =
      { tid := s.nextId, launch := l.id, ordinal := o, core := a.b, cluster := o, cbDice := (newTeam l s.nextId o a.b).cbDice } ∧
    ∀ k p, let g := newGroup l s.nextId o k p
      let x := newSplit l s.nextId k p.1
      g.vregs = [] ∧ g.sregs = [] ∧ g.preds = [] ∧ g.lstat = [] ∧ g.rule = l.hdr.rule ∧ g.exited = false ∧
      x.pc = l.code + BitVec.ofNat 64 l.hdr.entry ∧ x.lset = fullMask l.hdr.width ∧ x.amask = x.lset ∧ x.st = .ready ∧ x.stack = []) ∧
  (∀ s a l, findLaunch s a.a = some l → wantsCore s l = true → nextFits s l = false →
    happens .dispatchStarvation a s { s with launches := s.launches.map fun k => if k.id = l.id then { k with starved := true } else k }) ∧
  (∀ s a l, findLaunch s a.a = some l → l.coop = false → l.undisp ≠ [] → canPlace s l = false →
    let parked := fun (u : Team) => u ∈ s.teams ∧ u.launch = l.id ∧ u.stopping = false ∧ u.retired = false ∧ gridParked s u = true
    (∃ u, parked u) → ∃ u, parked u ∧ (∀ k, parked k → u.parkedAt.getD s.clock ≤ k.parkedAt.getD s.clock) ∧
    happens .gridRuleSave a s { s with
      teams := s.teams.map fun k => if k.tid = u.tid then { k with stopping := true, drain := false } else k
      launches := s.launches.map fun k => if k.id = l.id then { k with gridRule := true } else k }) ∧
  (∀ s a l H W T, findLaunch s a.a = some l → l.complete = false → l.rollback = none → teamsOver s l = true →
    ¬(l.node = true ∧ l.replayable = true ∧ l.status = 0) → ctxLive s l.ctx = true → l.status ≠ 4 → l.contract = none →
    l.recDone = false → acknowledged s l.ctx → l.crec ≠ 0#64 → l.cword ≠ 0#64 → inHost s l.ctx l.crec 64 H → translateNow s 0 l.ctx l.cword 2 = .ok T → T.tier = 2 → T.pa = W →
    stillMemory s → W % 4 = 0 → W + 4 ≤ H ∨ H + 64 ≤ W →
    ∃ t, happens .launchCompletion a s t ∧
      t = { s with
        mem := { s.mem with hostMem := t.mem.hostMem, l2 := t.mem.l2, writeBacks := t.mem.writeBacks }, fresh := t.fresh
        launches := s.launches.map fun k => if k.id = l.id then { k with complete := true } else k
        rings := s.rings.map fun k => if l.ring = some k.idx then { k with begun := k.begun.filter fun n => n ≠ l.id } else k } ∧
      readNum t.mem.hostMem H 4 = (l.status + 256 * l.cause + 65536 * l.tcause) % 2 ^ 32 ∧ readNum t.mem.hostMem (H + 4) 4 = 0 ∧
      readNum t.mem.hostMem (H + 8) 8 = l.teamsDone % 2 ^ 64 ∧ readNum t.mem.hostMem (H + 16) 8 = l.replays % 2 ^ 64 ∧
      readNum t.mem.hostMem (H + 24) 8 = l.saves % 2 ^ 64 ∧
      readNum t.mem.hostMem (H + 32) 4 / 2 = (if l.released then 1 else 0) ∧
      (readNum t.mem.hostMem (H + 32) 4 % 2 = 1 → ∃ k, k < 5 ∧ readNum t.mem.hostMem (H + 44 + 4 * k) 4 = 0xFFFFFFFF) ∧ readNum t.mem.hostMem W 4 = l.cval.toNat ∧
      ∀ x, ¬(H ≤ x ∧ x < H + 36) → ¬(H + 44 ≤ x ∧ x < H + 64) → ¬(W ≤ x ∧ x < W + 4) →
        readByte t.mem.hostMem x = readByte s.mem.hostMem x) ∧
  (∀ s a l g, findLaunch s a.a = some l → l.complete = false → l.node = true → l.replayable = true → l.status = 0 → l.rollback = none →
    teamsOver s l = true → ctxLive s l.ctx = true → (s.mem.staged.filter fun g => g.launch = l.id) = [g] → g.words.length = 16 →
    stillMemory s → (∀ q ∈ s.mem.locks, q.stage ≠ some l.id) →
    let ws := (upTo 16).map fun k => (64 * g.line + 4 * k, g.words.getD k (0#32, 0#16))
    roomy s.mem ws →
    ∃ t, happens .nodeCommit a s t ∧
      wordsPut { s.mem with staged := s.mem.staged.filter fun g => g.launch ≠ l.id } t.mem ws ∧
      t = { s with
        mem := t.mem, fresh := t.fresh
        launches := s.launches.map fun k => if k.id = l.id then { k with replayable := false } else k }) ∧
  (∀ s a l r, findLaunch s a.a = some l → l.rollback = some r → ctxLive s l.ctx = true →
    nothingToRepost s (fun u => u.launch = l.id) → ∃ t, happens .nodeRollback a s t ∧
      t = { s with
        mem := t.mem, teams := t.teams, groups := t.groups, splits := t.splits, ctxs := t.ctxs
        images := s.images.filter fun m => m.team.launch ≠ l.id
        dev := { s.dev with outbox := s.dev.outbox ++ [.rollback l.ctx r.info0.toNat r.pc.toNat] }
        launches := s.launches.map fun k =>
          if k.id = l.id then
            if l.replays < l.budget then
              { k with replays := k.replays + 1, rollback := none, undisp := upTo (k.gx * k.gy * k.gz), savedTeams := [], teamsDone := 0,
                       gridGen := 0 }
            else { k with rollback := none, undisp := [], savedTeams := [], status := 4, cause := 0xB5, tcause := r.cause.toNat }
          else k } ∧
      withoutTeams s t (fun u => u.launch = l.id) ∧ t.mem.staged = s.mem.staged.filter fun g => g.launch ≠ l.id) ∧
  (∀ s a c, findContract s a.a = some c → (s.contracts.filter fun k => k.num = c.num) = [c] → c.gone = false →
    (∀ n, c.running = some n → happens .contractRelease a s { s with
      contracts := s.contracts.map fun k =>
        if k.num = c.num then { k with pending := true, releaseAt := s.clock, overlap := min 0xFFFFFFFF (k.overlap + 1) } else k
      launches := s.launches.map fun l => if l.id = n then { l with rt := true } else l }) ∧
    (c.running = none → c.released = false → (∀ k ∈ s.contracts, k.num ≠ c.num → k.pending = false) →
      (s.rings.filter fun q => q.pinned).length < 24 → pins s c.ring fun n rs => happens .contractRelease a s { s with
        nextId := n, rings := rs
        contracts := s.contracts.map fun k =>
          if k.num = c.num then { k with released := true, pending := false, releaseAt := s.clock } else k })) ∧
  ∀ s a c n l, findContract s a.a = some c → c.running = some n → findLaunch s n = some l → l.rt = true →
    happens .contractOverrun a s { s with
      contracts := s.contracts.map fun k => if k.num = c.num then { k with overrun := min 0xFFFFFFFF (k.overrun + 1) } else k
      launches := s.launches.map fun k => if k.id = l.id then { k with rt := false, cls := 1 } else k }

/-- R286, R361 to R366, R410 to R412, R419, R420, R432, R461 and the frame of pre-emption and of what Keeper does about errors: the cost
estimator's choice (a team that has retired nothing is not drained: the model's choice, log entry 33), a missed drain, a save into host
memory and a restore from a drive's image, a context fault without teams dumped into host memory, SRAM errors with what a second one at a location or in a quad's engines begins, link errors, fencing before
and after the teams have left, Florix ports, whose change of state steps the GEN of FEATURES (the model's reading, log entry 45), and the
health window of a core. The contents of image sections are not stated. -/
def Obligations.SavesAndFaults : Prop :=
  (∀ s a u l, findTeam s a.a = some u → findLaunch s u.launch = some l → l.coop = false → u.retired = false → u.stopping = false →
    nothingToRepost s (fun k => k.tid = u.tid) →
    let d := (u.deadline.map fun k => min k a.b).getD a.b
    let q := (l.hint - u.retWords) * a.c / u.retWords
    let put := fun (f : Team → Team) => { s with teams := s.teams.map fun k => if k.tid = u.tid then f k else k }
    if l.hint ≠ 0 ∧ u.retWords ≠ 0 ∧ u.retWords ≤ l.hint ∧ q ≤ d ∧ 256 * q < 2 * imageLen l.hdr then
      happens .preemptionRequest a s (put fun k => { k with deadline := some d, drain := true })
    else if u.sideEffect = false ∧ 256 * a.c < 2 * imageLen l.hdr then
      ∃ t l', happens .preemptionRequest a s t ∧ withoutTeams s t (fun k => k.tid = u.tid) ∧ t.mem.staged = s.mem.staged ∧
        t = { s with mem := t.mem, teams := t.teams, groups := t.groups, splits := t.splits, ctxs := t.ctxs, launches := t.launches } ∧
        findLaunch t l.id = some l' ∧ l' = { l with undisp := l'.undisp } ∧
        (∀ o, o ∈ l'.undisp ↔ o = u.ordinal ∨ o ∈ l.undisp) ∧ ∀ n, n ≠ l.id → findLaunch t n = findLaunch s n
    else happens .preemptionRequest a s (put fun k => { k with deadline := some d, stopping := true, drain := false })) ∧
  (∀ s a u, findTeam s a.a = some u → u.drain = true → u.retired = false →
    happens .drainDeadline a s { s with
      teams := s.teams.map fun k => if k.tid = u.tid then { k with stopping := true, drain := false, missed := true } else k }) ∧
  (∀ s a u l c base H, findTeam s a.a = some u → findLaunch s u.launch = some l → findCtx s l.ctx = some c → u.stopping = true →
    u.retired = false → c.fault = none → l.rollback = none → (∀ f ∈ s.mem.flights, f.tid ≠ u.tid) → (∀ p ∈ u.posted, p.granted = false) →
    (∀ k ∈ u.running, k.begun = [] ∧ k.out = [] ∧ k.sent = []) → u.seqFault = none →
    (∀ g ∈ s.groups, g.tid = u.tid → g.regroup ≠ .migrating) → (∀ x ∈ s.splits, x.tid = u.tid → x.brBits = []) →
    stillMemory s → nobodyWaits s.mem → nothingToRepost s (fun k => k.tid = u.tid) → saveSpot s c (imageLen l.hdr) = some base → inHost s c.num base (imageLen l.hdr) H →
    let missed := a.yes || u.missed
    let kept := fun (x : Split) =>
      let y := { x with record := none }
      if y.st = .parked ∧ y.park ≠ .trap ∧ y.park ≠ .regroup ∧ y.park ≠ .grid then ready y else y
    ∃ t m, happens .save a s t ∧ m.id = s.nextId ∧ m.ctx = c.num ∧ m.gen = c.gen ∧
      m.flags = (if c.checkpointing then 1 else 0) + (if missed then 4 else 0) ∧ m.base = some base ∧ m.team = u ∧
      m.groups = s.groups.filter (fun g => g.tid = u.tid) ∧ m.splits = (s.splits.filter fun x => x.tid = u.tid).map kept ∧ m.flights = [] ∧
      withoutTeams { s with mem := { s.mem with hostMem := t.mem.hostMem, l2 := t.mem.l2, writeBacks := t.mem.writeBacks } } t
        (fun k => k.tid = u.tid) ∧
      t = { s with
        mem := { s.mem with hostMem := t.mem.hostMem, l2 := t.mem.l2, writeBacks := t.mem.writeBacks }, fresh := t.fresh
        teams := t.teams, groups := t.groups, splits := t.splits
        images := s.images ++ [m], nextId := s.nextId + 1, fx := [], devFail := none
        launches := s.launches.map fun k =>
          if k.id = l.id then { k with savedTeams := k.savedTeams ++ [m.id], saves := k.saves + 1 } else k
        ctxs := s.ctxs.map fun k => if k.num = c.num ∧ missed = true then { k with misses := k.misses + 1 } else k } ∧
      readNum t.mem.hostMem H 4 = 0x474D4953 ∧ readNum t.mem.hostMem (H + 8) 8 = c.gen % 2 ^ 64 ∧
      readNum t.mem.hostMem (H + 16) 4 = l.id % 2 ^ 32 ∧ readNum t.mem.hostMem (H + 20) 4 = u.ordinal % 2 ^ 32 ∧
      ∀ x, ¬(H ≤ x ∧ x < H + imageLen l.hdr) → readByte t.mem.hostMem x = readByte s.mem.hostMem x) ∧
  (∀ s a m l ps s1, (s.images.find? fun m => m.id = a.a) = some m → findLaunch s m.team.launch = some l → l.coop = false →
    mayRestore s l = true → nextImage s l m = true → m.base = none → fitsOn s l a.b = some (ps, s1) → m.flights = [] → m.groups.length = l.hdr.groups →
    (∀ k (g : Group), m.groups[k]? = some g → g.gi = k ∧ g.held = [] ∧ g.gridArrived = false ∧ g.exited = false ∧ g.tid = m.team.tid) →
    m.groups ≠ [] → (∀ g ∈ s.groups, g.gridArrived = false ∧ g.tid ≠ m.team.tid) →
    m.team.retired = false → m.team.running = [] → m.team.posted = [] → m.team.repost = [] → m.team.seqState = .idle → m.team.seqPark = .none →
    m.team.gathers = [] → (∀ u ∈ s.teams, u.gathers = [] ∧ u.repost = [] ∧ u.tid ≠ m.team.tid) →
    (∀ k ∈ s.images, k.team.gathers = []) → s.colls = [] → s.mem.l1 = [] →
    let gone := fun (tid : Nat) => s.teams.any fun u => u.core = a.b && teamOver s u && u.tid = tid
    ∃ t gs xs, happens .teamRestore a s t ∧
      t = { s with
        ctxs := t.ctxs
        teams := s.teams.filter (fun u => !gone u.tid) ++ [{ m.team with
          core := a.b, stopping := false, deadline := none, drain := false, missed := false, parkedAt := none, lsOld := [] }]
        groups := s.groups.filter (fun g => !gone g.tid) ++ gs, splits := s.splits.filter (fun x => !gone x.tid) ++ xs
        shadows := s.shadows ++ (gs.filter fun g => g.twin.isSome).map fun g =>
          { tid := m.team.tid, gi := g.gi, g := g, masks := masksOf t m.team.tid g.gi }
        images := s.images.filter fun k => k.id ≠ m.id, fresh := t.fresh
        fx := [], devFail := none
        launches := s.launches.map fun k =>
          if k.id = l.id then { k with savedTeams := k.savedTeams.filter fun n => n ≠ m.id, begun := true, starved := false } else k } ∧
      (t.ctxs.map fun c => { c with unchecked := 0 }) = (s.ctxs.map fun c => { c with unchecked := 0 }) ∧
      gs.length = m.groups.length ∧ xs.length = m.splits.length ∧
      (∀ (k : Nat) (g g' : Group), m.groups[k]? = some g → gs[k]? = some g' → g' = { g with
        scheduler := g'.scheduler, slot := g'.slot, pos := g'.pos, entries := g'.entries, twin := g'.twin, syncDue := g'.syncDue }) ∧
      ∀ (k : Nat) (x x' : Split), m.splits[k]? = some x → xs[k]? = some x' → x' = { x with id := x'.id }) ∧
  (∀ s a c f l H, findCtx s a.a = some c → c.fault = some f → f.served = false → (∀ k ∈ s.ctxs, k.num = c.num → k = c) →
    (∀ q ∈ s.rings, ∀ k ∈ s.rings, q.idx = k.idx → q.ctx = k.ctx) →
    s.teams = [] → s.groups = [] → s.splits = [] → s.colls = [] → s.images = [] → s.mem.faults = [] → s.mem.staged = [] →
    s.launches.filter (fun k => k.ctx = c.num) = [l] → (∀ k ∈ s.launches, k.id = l.id → k = l) → l.complete = false →
    acknowledged s c.num → l.crec = 0#64 → l.cword = 0#64 → l.contract = none → c.capring = 0#64 → c.trace = 0#64 → c.secondary = [] →
    c.dumpFull = false → stillMemory s → c.dumpPos = 0 → 124 ≤ c.dumpLen → inHost s c.num c.dump 124 H →
    ∃ t, happens .contextFault a s t ∧
      t = { s with
        mem := { s.mem with hostMem := t.mem.hostMem, l2 := t.mem.l2, writeBacks := t.mem.writeBacks }, fresh := t.fresh
        fx := [], devFail := none
        ctxs := s.ctxs.map fun k =>
          if k.num = c.num then
            { k with fault := some { f with served := true }, dumped := true, checkpointing := false, dumpPos := 124,
                     dumpSeq := k.dumpSeq + 1 }
          else k
        launches := s.launches.map fun k =>
          if k.id = l.id then
            { k with status := 1, cause := f.cause.toNat, undisp := [], savedTeams := [], rollback := none, begun := true, complete := true }
          else k
        rings := s.rings.map fun q =>
          let q' := if l.ring = some q.idx then { q with begun := q.begun.filter fun n => n ≠ l.id } else q
          if q.ctx = c.num then { q' with faulted := true, slot := if q.pinned then q.slot else none, blocked := false } else q' } ∧
      readNum t.mem.hostMem H 4 = 0x4B444D50 ∧ readNum t.mem.hostMem (H + 4) 2 = c.dumpSeq % 2 ^ 16 ∧
      readByte t.mem.hostMem (H + 8) = f.cause ∧ readByte t.mem.hostMem (H + 9) = f.cause2 ∧
      readNum t.mem.hostMem (H + 16) 8 = 124 ∧ readNum t.mem.hostMem (H + 24) 8 = (f.trap.wordPc.getD f.trap.pc).toNat ∧
      readNum t.mem.hostMem (H + 32) 8 = f.trap.mask.toNat ∧
      ∀ x, ¬(H ≤ x ∧ x < H + 124) → readByte t.mem.hostMem x = readByte s.mem.hostMem x) ∧
  (∀ s a u l, findTeam s a.d = some u → findLaunch s u.launch = some l → l.ctx = a.a → a.b ≠ 6 →
    let struck := { s.dev with
      strikes := if (a.c, a.b, a.v.toNat) ∈ s.dev.strikes then s.dev.strikes else s.dev.strikes ++ [(a.c, a.b, a.v.toNat)]
      fencing := if (a.c, a.b, a.v.toNat) ∈ s.dev.strikes ∧ a.c < 192 ∧ a.c ∉ s.dev.fencedCores ∧ (a.c, false) ∉ s.dev.fencing then
        s.dev.fencing ++ [(a.c, false)] else s.dev.fencing }
    let r : Trap := { cause := 0xB4#8, info0 := BitVec.ofNat 32 a.b, info1 := BitVec.ofNat 32 a.c }
    (l.node = true → l.replayable = true → happens .sramUncorr a s { s with
      dev := struck
      launches := s.launches.map fun k => if k.id = l.id then { k with rollback := some (k.rollback.getD r) } else k }) ∧
    (¬(l.node = true ∧ l.replayable = true) → happens .sramUncorr a s { s with
      dev := struck
      ctxs := s.ctxs.map fun c =>
        if c.num = a.a then faulted c { cause := 0xB4#8, trap := r, launch := l.id, team := some u.ordinal } else c })) ∧
  (∀ s a, a.b = 6 → a.c < 192 → quadOf a.c ∈ s.dev.quadStrikes → isFenced s.dev (quadOf a.c, true) = false →
    ∃ t, happens .sramUncorr a s t ∧ t.dev = { s.dev with
      strikes := t.dev.strikes
      fencing := if (quadOf a.c, true) ∈ s.dev.fencing then s.dev.fencing else s.dev.fencing ++ [(quadOf a.c, true)] }) ∧
  (∀ s a l, a.nums = [l.ctx] → a.nums2 = [l.id] → findLaunch s l.id = some l → l.complete = false → l.node = true → l.replayable = true →
    happens .onPackageLinkFailure a s { s with
      launches := s.launches.map fun k => if k.id = l.id then { k with rollback := some (k.rollback.getD { cause := 0xB4#8 }) } else k }) ∧
  (∀ s a, a.nums.Nodup → a.nums2 = [] → happens .onPackageLinkFailure a s { s with
    ctxs := s.ctxs.map fun c => if a.nums.contains c.num then faulted c { cause := 0xB4#8, trap := { cause := 0xB4#8 } } else c }) ∧
  (∀ s a, ¬((∀ c ∈ fencedBy a, c ∈ s.dev.fencedCores) ∧ (a.yes = true → fencedBy a ≠ [] → a.a ∈ s.dev.fencedQuads)) →
    (a.a, a.yes) ∈ s.dev.fencing ∨ a.c = 1 →
    let here := fun (u : Team) => u.retired = false ∧ u.core ∈ fencedBy a
    let noted := { s.dev with
      fencing := if (a.a, a.yes) ∈ s.dev.fencing then s.dev.fencing else s.dev.fencing ++ [(a.a, a.yes)] }
    ((∀ u ∈ s.teams, ¬here u) → happens .unitFencing a s { s with
      dev := { s.dev with
        fencedCores := s.dev.fencedCores ++ (fencedBy a).filter fun c => !s.dev.fencedCores.contains c
        fencedQuads := s.dev.fencedQuads ++
          (if a.yes ∧ fencedBy a ≠ [] then [a.a] else []).filter fun c => !s.dev.fencedQuads.contains c
        fencing := s.dev.fencing.filter fun k => k ≠ (a.a, a.yes)
        featGen := s.dev.featGen + 1, replace := true } }) ∧
    (∀ u, (∃ k ∈ s.teams, here k) → a.b ≠ 1 → (s.teams.map fun k => k.tid).Nodup → u ∈ s.teams →
      ∃ t, happens .unitFencing a s t ∧ t = { s with dev := noted, teams := t.teams } ∧
        let coop := ∃ l, findLaunch s u.launch = some l ∧ l.coop = true ∧ ∃ k ∈ s.teams, here k ∧ k.launch = u.launch
        (u.retired = false → u.core ∈ fencedBy a ∨ coop → findTeam t u.tid = some
          { u with stopping := true, drain := false, deadline := some (min (u.deadline.getD (2 ^ 20)) (2 ^ 20)) }) ∧
        (¬(u.retired = false ∧ (u.core ∈ fencedBy a ∨ coop)) → findTeam t u.tid = some u)) ∧
    (∀ u l, s.teams.filter (fun k => !k.retired && (fencedBy a).contains k.core) = [u] → a.b = 1 → findLaunch s u.launch = some l →
      happens .unitFencing a s { s with
        dev := noted
        ctxs := s.ctxs.map fun c => if c.num = l.ctx then
          faulted c { cause := 0xB4#8, launch := l.id, team := some u.ordinal
                      trap := { cause := 0xB4#8, info1 := BitVec.ofNat 32 u.core } } else c })) ∧
  (∀ s a, a.a < 36 →
    let out := fun (l : List Nat) => l.filter fun k => k ≠ a.a
    happens .florixPortFailure a s { s with
      dev := { s.dev with
        portsDown := if a.yes then out s.dev.portsDown else out s.dev.portsDown ++ [a.a]
        retraining := if a.yes then out s.dev.retraining ++ [a.a] else out s.dev.retraining
        retries := mapSet 0 s.dev.retries a.a (min 255 (mapGet 0 s.dev.retries a.a + a.b))
        routes := (s.dev.routes.map fun r => (r.1, out r.2)).filter fun r => r.2 ≠ []
        featGen := if s.dev.ready = true ∧ a.a ∉ s.dev.portsDown ∧ a.a ∉ s.dev.retraining then s.dev.featGen + 1 else s.dev.featGen } } ∧
    ∃ t, happens .florixPortUp a s t ∧
      t = { s with
        dev := { s.dev with
          portsDown := out s.dev.portsDown, retraining := out s.dev.retraining, routes := t.dev.routes
          featGen := if s.dev.ready = true ∧ (a.a ∈ s.dev.portsDown ∨ a.a ∈ s.dev.retraining) then s.dev.featGen + 1
            else s.dev.featGen } } ∧
      ∀ n p, p ∈ mapGet [] t.dev.routes n ↔ p ∈ mapGet [] s.dev.routes n ∨ (p = a.a ∧ n ∈ a.nums ∧ n < 1024)) ∧
  ∀ s a k v, a.entries = [(k, v)] → k < 192 → mapWf (0 : Nat) s.dev.sramCorr = true → (∀ e ∈ s.dev.sramCorr, e.1 ≠ k → e.2 ≤ 1024) →
    happens .healthCorrWindow a s { s with
      dev := { s.dev with
        corr := min 0xFFFFFFFF (s.dev.corrRun + (a.a + v.toNat)), corrRun := 0, sramCorr := []
        fencing := if 1024 < mapGet 0 s.dev.sramCorr k + v.toNat ∧ k ∉ s.dev.fencedCores ∧ (k, false) ∉ s.dev.fencing then
          s.dev.fencing ++ [(k, false)] else s.dev.fencing } }

namespace Sys2Proof.Claims
open Sys2Proof.Machine

/-! ## Events: the host's registers and the Keeper mailbox -/

/-- A number in n bytes of a request, from byte lo (R453). -/
def field (r : List Byte) (lo n : Nat) : Nat := numOf ((r.drop lo).take n)

/-- A 64-bit word of a request. -/
def wide (r : List Byte) (lo : Nat) : DWord := BitVec.ofNat 64 (field r lo 8)

/-- R453: 256 bytes that name a command and are 0 outside what the command names, each range as its first byte and length. -/
def formed (r : List Byte) (cmd : Nat) (named : List (Nat × Nat)) : Prop :=
  r.length = 256 ∧ r.getD 0 0#8 = BitVec.ofNat 8 cmd ∧
  ∀ k, k < 256 → k = 0 ∨ (4 ≤ k ∧ k < 8) ∨ (∃ p ∈ named, p.1 ≤ k ∧ k < p.1 + p.2) ∨ r.getD k 0#8 = 0#8

/-- The request that the mailbox holds. -/
def heldRequest (d : Dev) : List Byte := (upTo 256).map fun k => mapGet 0#8 d.request k

/-- Keeper takes up the request that the mailbox holds, once DOORBELL has set busy; the host has not changed it since (R452). -/
def asked (s : State) (cmd : Nat) (named : List (Nat × Nat)) : Prop :=
  s.dev.ready = true ∧ s.dev.busy = true ∧ s.dev.going = false ∧ s.dev.spoiled = false ∧ formed (heldRequest s.dev) cmd named

/-- The mailbox after a command that answers (R452, R453). -/
def answered (d : Dev) (result : Nat) (data : List Byte) (d' : Dev) : Prop :=
  let r := heldRequest d
  d' = { d with
    response := d'.response, busy := false, done := true, result := result, spoiled := false, going := false
    outbox := d.outbox ++ [.msix 0] } ∧
  ∀ k, k < 256 → mapGet 0#8 d'.response k =
    (r.take 1 ++ [BitVec.ofNat 8 result, 0#8, 0#8] ++ (r.drop 4).take 4 ++ data).getD k 0#8

/-- Host memory with n bytes from H as given, and all else as before. -/
def hostPut (m m' : Memory) (H : Nat) (bs : List Byte) : Prop :=
  ∀ x, readByte m' x = if H ≤ x ∧ x < H + bs.length then bs.getD (x - H) 0#8 else readByte m x

/-- The header that Keeper writes to a trace ring (R434, R454). -/
def ringHeader (r : List Byte) : List Byte :=
  bytesOf 4 (field r 89 1) ++ bytesOf 4 (field r 88 1 + field r 90 2 * 65536) ++ List.replicate 56 0#8

/-- R365, R366: bytes that read as an image. -/
def imageReads (b : List Byte) : Prop :=
  field b 0 4 = 0x474D4953 ∧ field b 4 4 = 1 ∧ field b 60 4 = crc32c (b.take 60 ++ b.drop 64)

/-- R431: bytes that read as the manifest of a context's checkpoint under a GEN, with so many images. -/
def manifestReads (m : List Byte) (gen n : Nat) : Prop :=
  field m 0 4 = 0x4B435043 ∧ field m 4 2 = 1 ∧ field m 8 4 = gen ∧ field m 12 4 = n ∧ field m 4092 4 = crc32c (m.take 4092)

/-- R431: a checkpoint that passes its checks as the drive returns it. -/
def checkpointReads (m : List Byte) (blobs : List (List Byte)) : Prop :=
  manifestReads m (field m 8 4) blobs.length ∧ ∀ b ∈ blobs, imageReads b ∧ field b 8 8 = field m 8 4

/-- R448: an image that verifies under an unrevoked key of the fuses. -/
def signed (d : Dev) (f : Firmware) : Prop :=
  ∃ k, k < 4 ∧ d.revoked.getLsbD k = false ∧ d.keyHashes.getD k 0#256 = sha256 f.key ∧
    Config.rsaSigned f.key (sha256 f.body) f.sig = true

/-- The images that bring-up loads (R448; when the boot partition fails is the model's choice, log entry 35). -/
def loaded (d : Dev) : List Firmware := d.bootPart.getD d.romSlot

/-- Only host memory is written for a context, while this device's memory is at rest. -/
def hostWritten (s t : State) : Mem := { s.mem with hostMem := t.mem.hostMem, l2 := t.mem.l2, writeBacks := t.mem.writeBacks }

/-- The contexts with one of them changed. -/
def ctxsWith (s : State) (n : Nat) (f : Ctx → Ctx) : List Ctx := s.ctxs.map fun c => if c.num = n then f c else c

/-- The words of READ_COUNTERS (R92, R459, R461), where no team is resident or saved. -/
def countersOf (s : State) (sel i core w : Nat) : Option (List Nat) :=
  let stack := fun k => [mapGet 0 s.mem.mixedCnt k, mapGet 0 s.mem.poolUsed k, mapGet 0 s.mem.eccCorr k, mapGet 0 s.mem.eccUncorr k]
  let down := s.dev.portsDown.contains i || s.dev.retraining.contains i
  if sel = 0 ∧ i < 16 then some (stack i ++ [mapGet 0 s.mem.stageExhaust i])
  else if sel = 1 ∧ i < 36 then
    some [(if down then 0 else 1) + (if s.dev.retraining.contains i then 2 else 0) + 256 * mapGet 0 s.dev.retries i]
  else if sel = 2 ∧ i < 64 then (findContract s i).map fun c => [c.overrun, c.miss, c.overlap]
  else if sel = 3 ∧ i < 64 then (findCtx s i).map fun c => [c.lostcap, c.misses, c.nonReplay, c.unchecked, 0]
  else if sel = 4 ∧ core < 192 ∧ w < 8 then some [(mapGet ({} : Watch) s.dev.watches (core * 8 + w)).ctl.toNat % 2 ^ 32]
  else if sel = 5 then some (stack 16)
  else none

end Sys2Proof.Claims

/-- R122, R346, R446 to R452, R460 and the frame of the host's registers: each step of power-good, with the verification of the firmware
images, to READY or to a failed step, a bring-up restart, ENABLE, a write to the request area or to an inert register, TAIL and its
faults, a regulator's window, and the SPDM requests from step 2 on. The model's choices in it: the ROM's slot is taken where no boot
partition is marked, and an image that does not verify stops bring-up (log entry 35); DOORBELL clears done and the result (log entry
47). -/
def Obligations.HostRegisters : Prop :=
  (∀ s a, s.dev.ready = false → s.dev.err = false →
    let fails := fun (code : Nat) => happens .powerGood a s { s with dev := { s.dev with err := true, ecode := code } }
    (s.dev.step = 1 → happens .powerGood a s { s with dev := { s.dev with step := 2 } }) ∧
    (s.dev.step = 2 → (∀ f ∈ loaded s.dev, signed s.dev f) →
      happens .powerGood a s { s with dev := { s.dev with firmware := loaded s.dev, step := 3 } }) ∧
    (s.dev.step = 2 → (∃ f ∈ loaded s.dev, ¬signed s.dev f) → fails 1) ∧
    (s.dev.step = 3 → a.v.toNat = 2 ∨ a.v.toNat = 3 ∨ a.v.toNat = 5 → fails a.v.toNat) ∧
    (s.dev.step = 3 → a.v = 0#64 → (a.entries.map fun e => e.1).Nodup →
      ∃ t, happens .powerGood a s t ∧
        t = { s with dev := { s.dev with
          portsDown := t.dev.portsDown, devNum := a.b % 1024, routes := t.dev.routes, step := 4 } } ∧
        (∀ p, p ∈ t.dev.portsDown ↔ p < 36 ∧ p ∈ a.nums) ∧
        ∀ n p, p ∈ mapGet [] t.dev.routes n ↔ n < 1024 ∧ p < 36 ∧ ∃ m : DWord, (n, m) ∈ a.entries ∧ m.getLsbD p = true) ∧
    (s.dev.step = 4 → a.v.toNat = 4 → fails 4) ∧
    (s.dev.step = 4 → a.v = 0#64 →
      ∃ t, happens .powerGood a s t ∧ t = { s with
        mem := { hostMem := s.mem.hostMem }
        dev := { s.dev with
          stage := if a.a ≤ 4096 ∧ a.a % 64 = 0 then a.a else 1024, fencedCores := t.dev.fencedCores, fencedQuads := t.dev.fencedQuads
          replace := decide (t.dev.fencedCores ≠ []), step := 5 } } ∧
        (∀ c, c ∈ t.dev.fencedCores ↔ c < 192 ∧ (c ∈ a.nums2 ∨ quadOf c ∈ a.nums3)) ∧
        ∀ q, q ∈ t.dev.fencedQuads ↔ q < 48 ∧ q ∈ a.nums3) ∧
    (s.dev.step = 5 → happens .powerGood a s { s with dev := { s.dev with step := 6 } }) ∧
    (s.dev.step = 6 → happens .powerGood a s { s with dev := { s.dev with ready := true } })) ∧
  (∀ s a,
    (a.v = 0xDEAD0001#64 → happens .bringupRestart a s {
      dev := { checkpoints := s.dev.checkpoints, outbox := s.dev.outbox, keyHashes := s.dev.keyHashes, revoked := s.dev.revoked
               bootPart := s.dev.bootPart, romSlot := s.dev.romSlot }
      mem := { bytes := s.mem.bytes, tags := s.mem.tags, hostMem := s.mem.hostMem, uncorr := s.mem.uncorr, soft := s.mem.soft
               poolUsed := s.mem.poolUsed }
      agenda := s.agenda, clock := s.clock, fresh := s.fresh, nextId := s.nextId }) ∧
    (a.v ≠ 0xDEAD0001#64 → happens .bringupRestart a s s)) ∧
  (∀ s a,
    (s.dev.ready = true → happens .enableWrite a s
      { s with dev := { s.dev with enable := a.v.setWidth 5 &&& s.dev.caps, enableWritten := true } }) ∧
    (s.dev.ready = false → happens .enableWrite a s s)) ∧
  (∀ s a,
    let put := fun (x : Nat) =>
      if a.a ≤ 0x1000 + x ∧ 0x1000 + x < a.a + a.bytes.length then a.bytes.getD (0x1000 + x - a.a) 0#8 else mapGet 0#8 s.dev.request x
    let bell := 0 < a.bytes.length ∧ a.a < 0x1204 ∧ 0x1200 < a.a + a.bytes.length
    let changes := ∃ x, x < 256 ∧ put x ≠ mapGet 0#8 s.dev.request x
    (s.dev.ready = false → happens .registerWrite a s s) ∧
    (s.dev.ready = true → s.dev.busy = true → changes →
      happens .registerWrite a s { s with dev := { s.dev with spoiled := true } }) ∧
    (s.dev.ready = true → s.dev.busy = true → ¬changes → happens .registerWrite a s s) ∧
    (s.dev.ready = true → s.dev.busy = false →
      ∃ t, happens .registerWrite a s t ∧
        t = { s with
          dev := if bell then
              { s.dev with request := t.dev.request, busy := true, done := false, result := 0, spoiled := false, going := false }
            else { s.dev with request := t.dev.request } } ∧
        ∀ x, x < 256 → mapGet 0#8 t.dev.request x = put x)) ∧
  (∀ s a q, findRing s a.a = some q →
    let v : Word := a.v.setWidth 32
    (v = q.tail → happens .tailWrite a s s) ∧
    (v ≠ q.tail → happens .tailWrite a s { s with
      rings := s.rings.map fun k =>
        if k.idx = q.idx then
          if 2 ^ q.logn < (v - q.tail).toNat ∨ 2 ^ q.logn < (v - q.head).toNat then
            { k with faulted := true, slot := if k.pinned then k.slot else none, blocked := false }
          else { k with tail := v }
        else k })) ∧
  (∀ s a, (s.ctxs.map fun c => c.num).Nodup → (∀ c ∈ s.ctxs, c.num < 64) →
    ∃ t, happens .regulatorWindow a s t ∧ t = { s with
      dev := { s.dev with buckets := t.dev.buckets, used := s.dev.used.filter fun e => e.1 / 130 ≠ a.a }
      ctxs := s.ctxs.map fun c => { c with oldRegs := c.oldRegs.filter fun e => e.1 ≠ a.a } } ∧
      (∀ c ∈ s.ctxs, ∀ k, k < 2 →
        let key := a.a * 130 + c.num * 2 + k
        mapGet 0 t.dev.buckets key =
          min 0 (mapGet 0 s.dev.buckets key + ((regWord c a.a k).toNat / 65536 % 65536 : Nat))) ∧
      ∀ key, (∀ c ∈ s.ctxs, ∀ k, k < 2 → key ≠ a.a * 130 + c.num * 2 + k) →
        mapGet 0 t.dev.buckets key = mapGet 0 s.dev.buckets key) ∧
  ∀ s a k i, ([.getVersion, .getCapabilities, .negotiateAlgorithms, .getCertificate, .challenge, .getMeasurements] : List Instr)[k]? =
      some i →
    (s.dev.step < 2 → happens i a s s) ∧
    (2 ≤ s.dev.step → happens i a s
      { s with
        fresh := s.fresh + 1
        dev := { s.dev with outbox := s.dev.outbox ++ [.spdm k
          (if i = .getVersion then [.version 1 3] else if i = .negotiateAlgorithms then [.hashSha256, .signRsassa3072] else [])
          (Config.spdmAnswer s.fresh) (if i = .getMeasurements then (loaded s.dev).map fun f => sha256 f.body else [])] } })

/-- R345, R346, R412, R434, R453 to R455 and the frame of the mailbox commands about contexts, rings and releases: each carries out its
work and answers 0x00. A trace ring's header and counters are stated for host memory, a removed context with no team, collective or
contract, and a released communicator with no collective anywhere. -/
def Obligations.MailboxContexts : Prop :=
  (∀ s a j H,
    let r := heldRequest s.dev
    asked s 1 [(8, 17), (32, 60)] → createForm s r = true → s.dev.enableWritten = true → stillMemory s →
    j < 64 → (∀ c ∈ s.ctxs, c.num ≠ j) → sharesOk s none (wide r 64) (wide r 72) = true →
    let made : Nat → Ctx := fun n =>
      { num := n, root := wide r 8, capring := wide r 16, wrap := decide (field r 24 1 = 1), save := wide r 32,
        saveLen := field r 40 8, dump := wide r 48, dumpLen := field r 56 8, regl := wide r 64, regd := wide r 72,
        trace := wide r 80 }
    (wide r 80 ≠ 0#64 → ∀ n, n < 64 → (∀ c ∈ s.ctxs, c.num ≠ n) →
      inHost { s with ctxs := s.ctxs ++ [made n] } n (wide r 80) 64 H) →
    ∃ t n, n < 64 ∧ (∀ c ∈ s.ctxs, c.num ≠ n) ∧ happens .createContext a s t ∧ answered s.dev 0 (bytesOf 1 n) t.dev ∧
      t = { s with
        dev := t.dev, mem := hostWritten s t, fresh := t.fresh, ctxs := s.ctxs ++ [made n] } ∧
      hostPut s.mem.hostMem t.mem.hostMem H (if wide r 80 = 0#64 then [] else ringHeader r)) ∧
  (∀ s a c,
    let r := heldRequest s.dev
    asked s 2 [(8, 1)] → findCtx s (field r 8 1) = some c → c.checkpointing = false →
    (∀ u ∈ s.teams, ∀ l ∈ s.launches, l.ctx = c.num → u.launch ≠ l.id) → (∀ p ∈ s.mem.posts, p.ctx ≠ c.num) →
    s.colls = [] → (∀ u ∈ s.teams, u.gathers = []) → (∀ m ∈ s.images, m.team.gathers = []) → s.contracts = [] →
    ∃ t, happens .destroyContext a s t ∧
      answered { s.dev with
        buckets := s.dev.buckets.filter fun b => b.1 % 130 / 2 ≠ c.num
        used := s.dev.used.filter fun b => b.1 % 130 / 2 ≠ c.num } 0 [] t.dev ∧
      t = { s with
        dev := t.dev, mem := t.mem, ctxs := s.ctxs.filter fun k => k.num ≠ c.num, rings := s.rings.filter fun q => q.ctx ≠ c.num
        launches := s.launches.filter fun l => l.ctx ≠ c.num, comms := s.comms.filter fun k => k.ctx ≠ c.num
        images := s.images.filter fun m => m.ctx ≠ c.num } ∧
      t.mem = { s.mem with
        tlb := s.mem.tlb.filter fun q => q.ctx ≠ c.num, walks := s.mem.walks.filter fun w => w.ctx ≠ c.num
        atsReqs := s.mem.atsReqs.filter fun q => q.ctx ≠ c.num, faults := s.mem.faults.filter fun f => f.ctx ≠ c.num
        locks := s.mem.locks.filter fun q => q.ctx ≠ c.num || q.waiters ≠ []
        monitors := s.mem.monitors.filter fun q => !s.rings.any fun k => k.ctx = c.num && q.waiter = .ring k.idx
        rechecks := s.mem.rechecks.filter fun q => !s.rings.any fun k => k.ctx = c.num && q.waiter = .ring k.idx
        staged := s.mem.staged.filter fun g => !s.launches.any fun l => l.ctx = c.num && l.id = g.launch }) ∧
  (∀ s a c H,
    let r := heldRequest s.dev
    let on := fun (k : Nat) => (field r 9 1).testBit k
    asked s 0xB ([(8, 2)] ++ (if on 0 then [(64, 8)] else []) ++ (if on 1 then [(72, 8)] else []) ++
      (if on 2 then [(80, 12)] else []) ++ if on 3 then [(24, 1)] else []) →
    field r 9 1 < 16 → field r 24 1 ≤ 1 → field r 64 8 < 2 ^ 48 → field r 72 8 < 2 ^ 48 → (on 2 = true → traceForm r = true) →
    findCtx s (field r 8 1) = some c → stillMemory s →
    sharesOk s (some c.num) (if on 0 then wide r 64 else c.regl) (if on 1 then wide r 72 else c.regd) = true →
    (on 2 = true → wide r 80 ≠ 0#64 → inHost s c.num (wide r 80) 64 H) →
    ∃ t, happens .updateContext a s t ∧ answered s.dev 0 [] t.dev ∧
      t = { s with
        dev := t.dev, mem := hostWritten s t, fresh := t.fresh
        ctxs := ctxsWith s c.num fun k =>
          { k with
            regl := if on 0 then wide r 64 else c.regl, regd := if on 1 then wide r 72 else c.regd
            oldRegs := if on 0 ∨ on 1 then (upTo 104).map fun u => (u, regWord k u 0, regWord k u 1) else k.oldRegs
            trace := if on 2 then wide r 80 else k.trace, wrap := if on 3 then decide (field r 24 1 = 1) else k.wrap } } ∧
      hostPut s.mem.hostMem t.mem.hostMem H (if on 2 ∧ wide r 80 ≠ 0#64 then ringHeader r else [])) ∧
  (∀ s a j,
    let r := heldRequest s.dev
    asked s 3 [(8, 3), (16, 8)] → field r 16 8 % 64 = 0 → 4 ≤ field r 10 1 → field r 10 1 ≤ 16 →
    field r 9 1 ≤ 2 → findCtx s (field r 8 1) ≠ none → j < 1024 → (∀ q ∈ s.rings, q.idx ≠ j) →
    ∃ t i, i < 1024 ∧ (∀ q ∈ s.rings, q.idx ≠ i) ∧ happens .createRing a s t ∧ answered s.dev 0 (bytesOf 2 i) t.dev ∧
      t = { s with
        dev := t.dev, fresh := s.fresh + 1
        rings := s.rings ++ [{ idx := i, ctx := field r 8 1, cls := field r 9 1, logn := field r 10 1,
                               base := wide r 16 }] }) ∧
  (∀ s a c f,
    let r := heldRequest s.dev
    asked s 7 [(8, 2)] → field r 8 1 = 0 → findCtx s (field r 9 1) = some c → c.fault = some f →
    f.served = true →
    ∃ t, happens .resetContext a s t ∧ answered s.dev 0 [] t.dev ∧
      t = { s with
        dev := t.dev
        ctxs := ctxsWith s c.num fun k => { k with fault := none, secondary := [], dumped := false, dumpStop := false }
        rings := s.rings.map fun q =>
          if q.ctx = c.num then
            { q with
              faulted := false, blocked := false, slot := if q.pinned then q.slot else none, head := 0#32, tail := 0#32, begun := []
              last := none }
          else q }) ∧
  (∀ s a q,
    let r := heldRequest s.dev
    asked s 7 [(8, 4)] → field r 8 1 = 1 → findRing s (field r 10 2) = some q → q.ctx = field r 9 1 →
    ∃ t, happens .resetRing a s t ∧ answered s.dev 0 [] t.dev ∧
      t = { s with
        dev := t.dev
        rings := s.rings.map fun k =>
          if k.idx = q.idx then
            { k with faulted := false, blocked := false, slot := if k.pinned then k.slot else none, head := 0#32, tail := 0#32 }
          else k }) ∧
  (∀ s a c,
    let r := heldRequest s.dev
    asked s 7 [(8, 2)] → field r 8 1 = 2 → findCtx s (field r 9 1) = some c →
    ∃ t, happens .resetDumpArea a s t ∧ answered s.dev 0 [] t.dev ∧
      t = { s with
        dev := t.dev
        ctxs := ctxsWith s c.num fun k => { k with dumpPos := 0, dumpSeq := 0, dumpFull := false, dumpStop := false } }) ∧
  (∀ s a c H,
    let r := heldRequest s.dev
    asked s 7 [(8, 2)] → field r 8 1 = 3 → findCtx s (field r 9 1) = some c →
    stillMemory s → (c.trace ≠ 0#64 → inHost s c.num (c.trace + 8#64) 16 H) →
    ∃ t, happens .resetTraceRing a s t ∧ answered s.dev 0 [] t.dev ∧
      t = { s with dev := t.dev, mem := hostWritten s t, fresh := t.fresh } ∧
      hostPut s.mem.hostMem t.mem.hostMem H (if c.trace = 0#64 then [] else List.replicate 16 0#8)) ∧
  (∀ s a q,
    let r := heldRequest s.dev
    asked s 0xD [(8, 4)] → field r 8 1 = 0 → findRing s (field r 10 2) = some q → q.ctx = field r 9 1 →
    q.tail = q.head → q.begun = [] → (∀ c ∈ s.contracts, c.ring ≠ q.idx) →
    ∃ t, happens .releaseRing a s t ∧ answered s.dev 0 [] t.dev ∧
      t = { s with dev := t.dev, rings := s.rings.filter fun k => k.idx ≠ q.idx }) ∧
  (∀ s a c,
    let r := heldRequest s.dev
    asked s 0xD [(8, 4)] → field r 8 1 = 1 → commIn s (field r 9 1) (field r 10 2) = some c →
    s.colls = [] → (∀ u ∈ s.teams, u.gathers = []) → (∀ m ∈ s.images, m.team.gathers = []) →
    ∃ t, happens .releaseComm a s t ∧ answered s.dev 0 [] t.dev ∧
      t = { s with dev := t.dev, comms := s.comms.filter fun k => k.handle ≠ c.handle }) ∧
  ∀ s a c q,
    let r := heldRequest s.dev
    asked s 0xD [(8, 4)] → field r 8 1 = 2 → findContract s (field r 10 2) = some c →
    findRing s c.ring = some q → q.ctx = field r 9 1 →
    (c.running ≠ none →
      ∃ t, happens .releaseContract a s t ∧ answered s.dev 0 [] t.dev ∧
        t = { s with
          dev := t.dev, contracts := s.contracts.map fun k => if k.num = c.num then { k with gone := true, pending := false } else k }) ∧
    (c.running = none → (∀ k ∈ s.contracts, k.num ≠ c.num → k.pending = false) →
      ∃ t, happens .releaseContract a s t ∧ answered s.dev 0 [] t.dev ∧
        t = { s with
          dev := t.dev, rings := s.rings.map fun k =>
            if k.idx = q.idx then
              { k with pinned := false, slot := if k.head = k.tail ∨ k.blocked ∨ k.faulted then none else k.slot }
            else k
          contracts := s.contracts.filter fun k => k.num ≠ c.num })

/-- R113, R290, R355, R430, R431, R439, R446, R452, R453, R456 to R459 and the frame of the other mailbox commands. Before READY no command
starts. A malformed request answers 0x02 and an unknown command 0x01, changing nothing else. CHECKPOINT stops the context's teams and,
once they are saved, writes their images; RESTORE asks the drive and adopts what it holds (both stated without address ranges). The
model's choices in it: the number of a created object is any free one (log entry 2); an adopted launch keeps its identifier, of which a
completed launch of the context is dropped, and a descriptor that cannot be read ends its launch with STATUS 2 (log entry 34); what an
image's bytes do not lay out is put back as it was saved (log entry 13). -/
def Obligations.MailboxWork : Prop :=
  (∀ s a i, i ∈ ([.createContext, .destroyContext, .createRing, .createComm, .invalidate, .checkpoint, .resetContext, .resetRing,
      .resetDumpArea, .resetTraceRing, .admitContract, .readCounters, .definePartition, .updateContext, .writeWatchpoint, .releaseRing,
      .releaseComm, .releaseContract, .restore, .mailboxUnknownCommand] : List Instr) →
    s.dev.ready = false ∨ s.dev.busy = false → happens i a s s) ∧
  (∀ s a i cmd named, (i, cmd, named) ∈ ([(.createContext, 1, [(8, 17), (32, 60)]), (.destroyContext, 2, [(8, 1)]),
      (.createRing, 3, [(8, 3), (16, 8)]), (.createComm, 4, [(8, 24)]), (.invalidate, 5, [(8, 1), (16, 16)]),
      (.checkpoint, 6, [(8, 2), (12, 13), (32, 8)]), (.admitContract, 8, [(8, 3), (16, 24)]), (.definePartition, 10, [(8, 1), (16, 24)]),
      (.writeWatchpoint, 12, [(8, 3), (16, 24)]), (.restore, 14, [(8, 2), (12, 12), (25, 1), (40, 8)])] :
        List (Instr × Nat × List (Nat × Nat))) →
    let r := heldRequest s.dev
    s.dev.ready = true → s.dev.busy = true → s.dev.spoiled = false → r.getD 0 0#8 = BitVec.ofNat 8 cmd → ¬formed r cmd named →
    ∃ t, happens i a s t ∧ answered s.dev 2 [] t.dev ∧ t = { s with dev := t.dev }) ∧
  (∀ s a,
    let r := heldRequest s.dev
    s.dev.ready = true → s.dev.busy = true → (field r 0 1 = 0 ∨ 14 < field r 0 1) →
    (s.dev.spoiled = false →
      ∃ t, happens .mailboxUnknownCommand a s t ∧ answered s.dev 1 [] t.dev ∧ t = { s with dev := t.dev }) ∧
    (s.dev.spoiled = true →
      ∃ t, happens .mailboxUnknownCommand a s t ∧ t = { s with
        fresh := t.fresh
        dev := { s.dev with
          response := t.dev.response, busy := false, done := true, result := 1, spoiled := false, going := false
          outbox := s.dev.outbox ++ [.msix 0] } })) ∧
  (∀ s a j,
    let r := heldRequest s.dev
    let n := field r 12 2
    let members := (upTo n).map fun k => readNum s.mem.hostMem (field r 24 8 + 2 * k) 2
    asked s 4 [(8, 24)] → field r 9 1 ≤ 3 → 12 ≤ field r 10 1 → field r 10 1 ≤ 16 → (field r 11 1 < 8 ∨ field r 11 1 = 0xFF) →
    1 ≤ n → n ≤ 1024 → field r 14 2 < n → members.getD (field r 14 2) 1024 = s.dev.devNum → members.Nodup →
    (∀ d ∈ members, d < 1024 ∧ (d ≠ s.dev.devNum → mapGet [] s.dev.routes d ≠ [])) →
    (1 < n → s.dev.enable.getLsbD 4 = true) → findCtx s (field r 8 1) ≠ none → j < 4096 → (∀ c ∈ s.comms, c.handle ≠ j) →
    ∃ t h k, h < 4096 ∧ (∀ c ∈ s.comms, c.handle ≠ h) ∧ k < 8 ∧ (field r 11 1 ≠ 0xFF → k = field r 11 1) ∧
      happens .createComm a s t ∧ answered s.dev 0 (bytesOf 2 h ++ bytesOf 1 k) t.dev ∧
      t = { s with
        dev := t.dev, fresh := t.fresh
        comms := s.comms ++ [{ handle := h, ctx := field r 8 1, nmem := n, rank := field r 14 2, cls := field r 9 1, logc := field r 10 1,
                               seqr := k, key := wide r 16, members := members }] }) ∧
  (∀ s a,
    let r := heldRequest s.dev
    asked s 5 [(8, 1), (16, 16)] → field r 16 8 % 65536 = 0 → field r 24 8 % 65536 = 0 →
    findCtx s (field r 8 1) ≠ none → (∀ f ∈ s.mem.flights, f.isRemote = false ∧ f.unreg = []) →
    (∀ p ∈ s.mem.posts, p.ctx ≠ field r 8 1) →
    let lo := field r 16 8
    let len := field r 24 8
    ∃ t, happens .invalidate a s t ∧ answered s.dev 0 [] t.dev ∧
      t = { s with
        dev := t.dev
        mem := { s.mem with
          tlb := s.mem.tlb.filter fun q =>
            !(q.ctx = field r 8 1 && (len = 0 || (lo ≤ q.page * 65536 && q.page * 65536 < lo + len))) } }) ∧
  (∀ s a c,
    let r := heldRequest s.dev
    asked s 6 [(8, 2), (12, 13), (32, 8)] → field r 9 1 ≤ 1 → field r 24 1 ≤ 64 →
    findCtx s (field r 8 1) = some c → c.fault = none → c.checkpointing = false → (s.teams.map fun u => u.tid).Nodup →
    ∃ t, happens .checkpoint a s t ∧
      t = { s with
        dev := { s.dev with going := true }, ctxs := ctxsWith s c.num fun k => { k with gen := (k.gen + 1) % 2 ^ 32, checkpointing := true }
        teams := s.teams.map fun u =>
          if u.retired = false ∧ ((findLaunch s u.launch).map fun l => l.ctx) = some c.num then
            { u with stopping := true, drain := false } else u }) ∧
  (∀ s a c,
    let r := heldRequest s.dev
    s.dev.ready = true → s.dev.busy = true → s.dev.going = true → formed r 6 [(8, 2), (12, 13), (32, 8)] → field r 9 1 ≤ 1 → field r 24 1 = 0 →
    findCtx s (field r 8 1) = some c → c.fault = none → c.checkpointing = true → s.dev.nvme = none → ctxTeams s c.num = [] →
    (∀ k ∈ s.colls, k.ctx = c.num → k.st = .done ∨ k.st = .failed) → commitDue s c.num = false →
    let ls := s.launches.filter fun l => l.ctx = c.num && !l.complete
    ∃ t k, happens .checkpoint a s t ∧ t = { s with dev := { s.dev with nvme := some ⟨false, k, none⟩ } } ∧
      k = {
        drive := field r 9 1, nsid := field r 12 4, lba := field r 16 8, ctx := c.num, gen := c.gen
        manifest := k.manifest, blobs := k.blobs
        images := (s.images.filter fun m => m.ctx = c.num).map fun m => { m with gen := c.gen, flags := m.flags ||| 1, base := none }
        ranges := [], data := [], undisp := ls.map fun l => (l.id, l.undisp), launches := ls } ∧
      k.manifest.length = 4096 ∧ manifestReads k.manifest (c.gen % 2 ^ 32) (k.images.length % 2 ^ 32) ∧
      field k.manifest 6 1 = c.num % 256 ∧ k.blobs.length = k.images.length ∧
      ∀ b ∈ k.blobs, imageReads b ∧ field b 8 8 = c.gen % 2 ^ 64) ∧
  (∀ s a c,
    let r := heldRequest s.dev
    asked s 14 [(8, 2), (12, 12), (25, 1), (40, 8)] → field r 9 1 ≤ 1 → findCtx s (field r 8 1) = some c →
    ctxTeams s c.num = [] → (∀ m ∈ s.images, m.ctx ≠ c.num) → (∀ l ∈ s.launches, l.ctx = c.num → l.undisp = []) →
    ∃ t k, happens .restore a s t ∧ t = { s with dev := { s.dev with going := true, nvme := some ⟨true, k, none⟩ } } ∧
      let here := fun (q : Checkpoint) =>
        q.drive = field r 9 1 && q.nsid = field r 12 4 && q.lba = field r 16 8
      (∀ q, s.dev.checkpoints.find? here = some q → k = q) ∧ (s.dev.checkpoints.find? here = none → k.manifest = [] ∧ k.blobs = [])) ∧
  (∀ s a k b, s.dev.nvme = some ⟨false, k, b⟩ → s.dev.spoiled = false →
    let others := s.dev.checkpoints.filter fun q => !(q.drive = k.drive && q.nsid = k.nsid && q.lba = k.lba)
    (a.yes = true →
      ∃ t m, happens .nvmeCompletion a s t ∧ 4096 + (k.images.map fun i => i.len).sum ≤ m ∧
        answered { s.dev with nvme := none, checkpoints := others ++ [k] } 0 (bytesOf 4 k.gen ++ bytesOf 4 0 ++ bytesOf 8 m) t.dev ∧
        t = { s with dev := t.dev, fresh := s.fresh + 1, ctxs := ctxsWith s k.ctx fun c => { c with checkpointing := false } }) ∧
    (a.yes = false →
      ∃ t, happens .nvmeCompletion a s t ∧ answered { s.dev with nvme := none, checkpoints := others } 6 [] t.dev ∧
        t = { s with dev := t.dev, ctxs := ctxsWith s k.ctx fun c => { c with checkpointing := false } })) ∧
  (∀ s a k cm, s.dev.nvme = some ⟨true, k, cm⟩ → s.dev.spoiled = false →
    let r := heldRequest s.dev
    let bs := cm.getD (patched a.entries (k.manifest ++ k.blobs.flatten))
    let manifest := bs.take 4096
    let blobs := cutLike k.blobs (bs.drop 4096)
    (a.yes = false → ∃ t, happens .nvmeCompletion a s t ∧ answered { s.dev with nvme := none } 6 [] t.dev ∧ t = { s with dev := t.dev }) ∧
    (a.yes = true → s.dev.ready = true → s.dev.busy = true → field r 0 1 = 14 →
      (¬checkpointReads manifest blobs →
        ∃ t, happens .nvmeCompletion a s t ∧ answered { s.dev with nvme := none } 7 [] t.dev ∧ t = { s with dev := t.dev }) ∧
      ∀ old l m b,
        let n := field r 8 1
        let at_ := field r 40 8
        let host := fun (o w : Nat) => readNum s.mem.hostMem (at_ + o) w
        let kept := s.launches.filter fun q => !(q.id = old.id && q.ctx = n && q.complete)
        let top := max s.nextId (old.id + 1)
        let ctxs := ctxsWith s n fun c => { c with gen := field manifest 8 4 }
        let back : Launch :=
          { l with
            id := old.id, ctx := n, ring := none, cls := old.cls, crec := BitVec.ofNat 64 (host 16 8), cword := BitVec.ofNat 64 (host 24 8)
            cval := BitVec.ofNat 32 (host 4 4), saves := old.saves, teamsDone := old.teamsDone, gridGen := old.gridGen
            age := s.clock, begun := true }
        let i := readBack old.hdr b m
        checkpointReads manifest blobs → blobs = [b] → k.images = [m] → k.launches = [old] → m.team.launch = old.id → k.data = [] →
        field r 25 1 = 1 → host 0 4 = old.id → readLaunch s n (BitVec.ofNat 64 (host 8 8)) = .ok (some l) → l.savedTeams = [] →
        (∀ q ∈ kept, q.id ≠ old.id) →
        earlyStatus { s with
          dev := { s.dev with nvme := some ⟨true, k, some bs⟩ }, launches := kept, nextId := top, ctxs := ctxs }
          { back with undisp := upTo (back.gx * back.gy * back.gz) } = 0 →
        ∃ t, happens .nvmeCompletion a s t ∧ answered { s.dev with nvme := none } 0 [] t.dev ∧
          t = { s with
            dev := t.dev, nextId := top + 2, ctxs := ctxs
            launches := kept ++ [{ back with status := 0, undisp := mapGet [] k.undisp old.id, savedTeams := [top] }]
            images := s.images ++ [{ i with
              id := top, ctx := n, base := none, team := { m.team with tid := top + 1 }
              groups := i.groups.map fun g => { g with tid := top + 1 }
              splits := i.splits.map fun x => { x with tid := top + 1 }
              flights := i.flights.map fun f => { f with tid := top + 1 } }] })) ∧
  (∀ s a q j,
    let r := heldRequest s.dev
    let cores := ((upTo 192).filter fun c => (mapGet 0#192 s.dev.partitions (field r 10 1)).getLsbD c).length
    asked s 8 [(8, 3), (16, 24)] → field r 10 1 < 16 → field r 32 8 ≤ field r 16 8 → 0 < field r 24 8 →
    findRing s (field r 8 2) = some q → (∀ k ∈ s.contracts, k.ring ≠ q.idx) → s.dev.enable.getLsbD 1 = true →
    loadOk cores ((field r 24 8, field r 16 8) ::
      (s.contracts.filter fun k => k.part = field r 10 1).map fun k => (k.c, k.p)) = true →
    deadlineOk cores (field r 24 8) (field r 32 8) (field r 10 1) = true → j < 64 → (∀ k ∈ s.contracts, k.num ≠ j) →
    (∀ k ∈ s.contracts, k.pending = false) → (s.rings.filter fun k => k.pinned).length < 24 →
    pins s q.idx fun n rs =>
    ∃ t i, i < 64 ∧ (∀ k ∈ s.contracts, k.num ≠ i) ∧ happens .admitContract a s t ∧ answered s.dev 0 (bytesOf 1 i) t.dev ∧
      t = { s with
        dev := t.dev, fresh := s.fresh + 1, nextId := n, rings := rs
        contracts := s.contracts ++ [{ num := i, ring := q.idx, part := field r 10 1, p := field r 16 8, c := field r 24 8,
                                       d := field r 32 8, releaseAt := s.clock, released := true }] }) ∧
  (∀ s a,
    let r := heldRequest s.dev
    asked s 10 [(8, 1), (16, 24)] → field r 8 1 < 16 →
    let mask : BitVec 192 := BitVec.ofNat 192 (field r 16 24)
    (∀ k ∈ s.contracts, k.part ≠ field r 8 1 ∧ mapGet 0#192 s.dev.partitions k.part &&& mask = 0#192) →
    ∃ t, happens .definePartition a s t ∧ answered { s.dev with partitions := t.dev.partitions } 0 [] t.dev ∧
      t = { s with dev := t.dev } ∧
      ∀ p, mapGet 0#192 t.dev.partitions p = if p = field r 8 1 then mask else mapGet 0#192 s.dev.partitions p) ∧
  (∀ s a ws,
    let r := heldRequest s.dev
    let sel := field r 8 1
    asked s 9 (if sel = 4 then [(8, 1), (10, 3)] else [(8, 2)]) → (sel = 3 → s.teams = [] ∧ s.images = []) →
    countersOf s sel (field r 9 1) (field r 10 2) (field r 12 1) = some ws →
    ∃ t, happens .readCounters a s t ∧ answered s.dev 0 (ws.flatMap (bytesOf 4)) t.dev ∧ t = { s with dev := t.dev }) ∧
  ∀ s a,
    let r := heldRequest s.dev
    let w : Watch := { ctl := wide r 16, lo := wide r 24, hi := wide r 32 }
    asked s 12 [(8, 3), (16, 24)] → field r 8 2 < 192 → field r 10 1 < 8 → field r 16 8 / 2 ^ 32 % 2 ^ 18 = 0 →
    findCtx s (field r 16 8 / 2 ^ 58) ≠ none → field r 8 2 ∉ s.dev.fencedCores →
    ∃ t, happens .writeWatchpoint a s t ∧ answered { s.dev with watches := t.dev.watches } 0 [] t.dev ∧ t = { s with dev := t.dev } ∧
      ∀ k, mapGet ({} : Watch) t.dev.watches k =
        if k = field r 8 2 * 8 + field r 10 1 then w else mapGet {} s.dev.watches k

namespace Sys2Proof.Claims
open Sys2Proof.Machine

/-! ## Events: engines, the matrix unit, collectives and meetings -/

/-- A group after a command of its own is over (R144, R169). -/
def commandOver (csn : Nat) (failed : Bool) (g : Group) : Group :=
  { g with
    copies := g.copies - 1, pending := g.pending.filter fun n => n ≠ csn, batchFail := g.batchFail || failed
    batches := (g.batches.map fun b => { b with open_ := b.open_.filter fun n => n ≠ csn }).filter fun b => b.open_ ≠ [] }

/-- The groups with one of them changed. -/
def groupsWith (s : State) (tid gi : Nat) (f : Group → Group) : List Group :=
  s.groups.map fun g => if g.tid = tid ∧ g.gi = gi then f g else g

/-- A split of the group that waited for a counter or a batch runs on; one of its team that waited for room in the queue does where
room is so. -/
def copyWakes (tid gi : Nat) (room : Bool) (y : Split) : Split :=
  if y.tid = tid ∧ y.st = .parked ∧ ((room = true ∧ y.park = .engine) ∨ (y.gi = gi ∧ (y.park = .counters ∨ y.park = .batch))) then ready y
  else y

/-- A group of the team lives, so that the team does not retire (R153). -/
def teamLives (s : State) (tid : Nat) : Prop := ∃ g ∈ s.groups, g.tid = tid ∧ g.exited = false

/-- No split of the team waits in a REGROUP. -/
def noRegroup (s : State) (tid : Nat) : Prop := ∀ y ∈ s.splits, y.tid = tid → y.park ≠ .regroup

/-- The teams of a quad once a posted operation is over: a sequencer that waited for an entry or for its own operations runs on (R245). -/
def freed (quad : Nat) (u : Team) : Team :=
  if quadOf u.core = quad ∧ u.seqState = .parked ∧ (u.seqPark = .entry ∨ u.seqPark = .drain) then
    { u with seqState := .running, seqPark := .none } else u

/-- The oldest posted operation of team u is over, and the team stands otherwise as v (R248). -/
def operationOver (s t : State) (u v : Team) : Prop :=
  findTeam t u.tid = some (freed (quadOf u.core) { v with posted := u.posted.drop 1 }) ∧
  ∀ tid, tid ≠ u.tid → findTeam t tid = (findTeam s tid).map (freed (quadOf u.core))

/-- Team u's oldest posted operation is p, and the arbiter has granted it; no restored team has operations yet to post again (R366). -/
def granted (s : State) (n : Nat) (l : Launch) (u : Team) (p : Posted) (ps : List Posted) : Prop :=
  findTeam s n = some u ∧ findLaunch s u.launch = some l ∧ u.posted = p :: ps ∧ p.granted = true ∧ teamLives s u.tid ∧
  ∀ v ∈ s.teams, v.repost = []

/-- A byte of CB or AB. -/
def bufferByte (u : Team) (k : Store) (x : Nat) : Byte := byteAt (storeWord u k (x / 4)).1.toNat (x % 4)

/-- A trap's entry into a group's handler by a split (R399, R400): the split, its group, and nothing else. -/
def handlerEntered (s t : State) (e : Ex) (off : Nat) (f : Trap) : Prop :=
  t.splits = s.splits.map (fun y =>
    if y.tid = e.x.tid ∧ y.gi = e.x.gi ∧ y.rank = e.x.rank then
      { y with
        imm := 0#32, mod := 0#32, hint := 0#32, amask := y.lset, br := false, pc := e.lch.code + BitVec.ofNat 64 off,
        st := .ready, park := .none, parkKey := 0 }
    else y) ∧
  t.groups = groupsWith s e.x.tid e.x.gi fun g =>
    { g with
      hs := some ⟨e.x.rank, e.x.amask, e.x.br, e.x.ba, e.x.imm, e.x.mod, e.x.hint, f.pc⟩
      tcause := f.cause.setWidth 32, tpc := f.pc, tmask := f.mask, tinfo0 := f.info0, tinfo1 := f.info1, tinfo2 := f.info2
      tinfo3 := f.info3 }

/-- A collective of a resident team leaves HANDSHAKE or RUNNING (R299, R302): it arrives on its barrier, with ERR and an entry in
ERRW where it failed. -/
def collEnds (s t : State) (c : Coll) (q : Comm) (u : Team) (fail : Option (BitVec 8)) : Prop :=
  let b := barOf u c.bar
  let n := q.errw.toNat % 65536
  let word := fun (k : BitVec 8) => BitVec.ofNat 32 ((if n = 0 then k.toNat * 2 ^ 24 else q.errw.toNat / 65536 * 65536) + min 65535 (n + 1))
  t = { s with
    mem := { s.mem with
      l1 := if collSync c.word then s.mem.l1.filter fun e => !(e.1 / 2 ^ 48 = u.core && !e.2.owned) else s.mem.l1 }
    colls := [{ c with st := if fail = none then .done else .failed, got := [], heard := [], edge := [] }]
    comms := s.comms.map fun k => fail.elim k fun f => if k.handle = q.handle then { k with errw := word f, failure := true } else k
    teams := t.teams
    splits := s.splits.map fun y =>
      if (s.teams.any fun v => v.tid = y.tid && (findLaunch s v.launch).any fun l => l.ctx = c.ctx) ∧ y.st = .parked ∧ y.park = .coll then
        ready y else y } ∧
  (∃ v, findTeam t u.tid = some v ∧ v = { u with bars := v.bars } ∧
    barrierNow u v c.bar { b with arr := b.arr + 1, err := b.err || fail.isSome }) ∧
  ∀ tid, tid ≠ u.tid → findTeam t tid = findTeam s tid

/-- A collective that is its device's only one, with its communicator and its resident team, whose barrier takes one more arrival
without completing its phase. -/
def onlyColl (s : State) (c : Coll) (q : Comm) (u : Team) : Prop :=
  s.colls = [c] ∧ findComm s c.handle = some q ∧ q.handle = c.handle ∧ (∀ k ∈ s.comms, k.handle = q.handle → k = q) ∧
  findTeam s c.tid = some u ∧ teamLives s u.tid ∧ (∀ v ∈ s.teams, v.gathers = []) ∧
  (∀ m ∈ s.images, m.team.gathers = []) ∧ (barOf u c.bar).arr + 1 < (barOf u c.bar).exp ∧ -(2 ^ 46 : Int) ≤ (barOf u c.bar).bal ∧ (barOf u c.bar).bal < 2 ^ 46

/-- The machine once flits of a collective have gone to their devices, in order (R286, R304). -/
def collSent (s : State) (cls : Nat) (l : List (Nat × Flit)) : State := l.foldl (fun s m => sendColl s m.1 cls m.2) s

/-- The requests of a collective's step that have not issued before, and what issuing them comes to (R122, R304): how many issue, and the
sequencer has served the communicator last in its class. -/
def stepRequests (s : State) (x : CollCtx) (secs : List Nat) : List LineReq :=
  (lineReqs s secs).drop ((x.c.now.map fun n => n.2).getD 0)
def stepIssues (s : State) (x : CollCtx) (secs : List Nat) : Nat × State :=
  let r := issueLines (fun _ => true) x.c.ctx (96 + x.comm.seqr) (stepRequests s x secs) s
  (r.1, { r.2 with dev := { r.2.dev with served := mapSet 0 r.2.dev.served (x.comm.seqr * 4 + x.comm.cls) x.comm.handle } })

/-- The machine in which an event happens. -/
def eventOf (s : State) (a : EvArg) : State := { s with cur := .nobody, arg := a }

/-- What chunk a.c of a command moves once nothing is left to ask another device for: its pieces, and what is so when they are
written. -/
def chunkMoves (s : State) (a : EvArg) (w : Who) (ps : List Piece) (g : Eng) : Prop :=
  ∃ ws h, chunkRun (eventOf s a) w a.c = .ok (ws, ps, h) ∧ h.asks = [] ∧ writeChunk w ws h = .ok g

/-- A command once chunk k has been delivered (R136). -/
def chunkOver (k : Nat) (c : Cmd) : Cmd :=
  { c with
    done := c.done ++ [k], out := c.out.filter fun j => j ≠ k, sent := c.sent.filter fun j => j ≠ k
    heard := c.heard.filter fun h => h.part ≠ k }

/-- The participants of a REGROUP (R335, R336) in ascending group order. -/
def participants (s : State) (tid : Nat) : List Split := sortBy (fun x => x.gi) (s.splits.filter fun x => x.tid = tid && x.park = .regroup)

/-- The lanes that a REGROUP renumbers, in order: group and lane (R336). -/
def renumbered (s : State) (tid width : Nat) : List (Nat × Nat) :=
  (participants s tid).flatMap fun x => ((upTo width).filter fun i => x.lset.getLsbD i).map fun i => (x.gi, i)

end Sys2Proof.Claims

/-- R122, R124, R127, R129, R130, R133, R135 to R137, R144, R146, R147 and the frame of the transfer engines: the head of a team's queue
moves to the engine with more free entries, waits on an unresolved guard or is discarded on a FALSE one; of the command that an engine
serves next, as many requests of a chunk issue as the regulators allow; a chunk whose requests are out moves and leaves the balance, and
the last one ends the command, while one that wrote to another device waits for the acknowledgement; what it moves is stated for 4-byte
elements of one dimension, filled into LS or copied to LS. A held arrival arrives once its guard is resolved, and a stalemate traps. The
model's choices in it: a context is below its GUAR where either word says so, a write-back is charged to the request that evicts it (log
entry 46), and a chunk's writes are seen as soon as it moves (log entry 38). -/
def Obligations.TransferEngines : Prop :=
  (∀ s a u l c cs, findTeam s a.a = some u → u.queue = c :: cs → u.stopping = false → findLaunch s u.launch = some l →
    ctxLive s l.ctx = true → l.rollback = none → teamLives s u.tid →
    let v := c.guard.elim Guard.true_ (guardOf u)
    let n0 := onEngineCount s (quadOf u.core) 0
    let n1 := onEngineCount s (quadOf u.core) 1
    (v = .unresolved → happens .commandToEngine a s s) ∧
    (v = .true_ → min n0 n1 < 64 → happens .commandToEngine a s { s with
      nextId := s.nextId + 1
      teams := s.teams.map fun k =>
        if k.tid = u.tid then
          { k with queue := cs, running := k.running ++ [{ c with onEngine := some (if n0 ≤ n1 then 0 else 1), seat := s.nextId }] }
        else k
      splits := s.splits.map fun y => if y.tid = u.tid ∧ y.st = .parked ∧ y.park = .engine then ready y else y }) ∧
    (v = .false_ → happens .commandToEngine a s { s with
      teams := s.teams.map fun k =>
        if k.tid = u.tid then
          { k with queue := k.queue.filter fun q => q.csn ≠ c.csn, running := k.running.filter fun q => q.csn ≠ c.csn } else k
      groups := groupsWith s u.tid c.gi (commandOver c.csn false), splits := s.splits.map (copyWakes u.tid c.gi true) })) ∧
  (∀ s a u l c secs, findTeam s a.a = some u → (u.running.find? fun k => k.csn = a.b) = some c → findLaunch s u.launch = some l →
    ctxLive s l.ctx = true → l.rollback = none → a.c ∉ c.out → a.c ∉ c.done → a.c ∉ c.sent → a.c < c.chunks →
    servedNext (eventOf s a) (quadOf u.core) (c.onEngine.getD 0) = some ⟨l, u, c⟩ → (c.begun = [] ∨ ∃ b ∈ c.begun, b.1 = a.c) →
    chunkReach (eventOf s a) ⟨l, u, c⟩ a.c = .ok (secs, []) →
    let had := mapGet 0 c.begun a.c
    let qs := (lineReqs (eventOf s a) secs).drop had
    let r := issueLines (engineTurn ⟨l, u, c⟩) l.ctx (engineOf u c) qs (eventOf s a)
    let put := fun (f : Cmd → Cmd) => { s with
      dev := { s.dev with buckets := r.2.dev.buckets, used := r.2.dev.used }
      teams := s.teams.map fun k =>
        if k.tid = u.tid then { k with running := k.running.map fun q => if q.csn = c.csn then f q else q } else k }
    (r.1 = qs.length → happens .chunkDelivery a s (put fun q => { q with begun := mapDel q.begun a.c, out := q.out ++ [a.c] })) ∧
    (r.1 ≠ qs.length → happens .chunkDelivery a s (put fun q => { q with begun := mapPut q.begun a.c (had + r.1) }))) ∧
  (∀ s a u l c ps g v, findTeam s a.a = some u → (u.running.find? fun k => k.csn = a.b) = some c → findLaunch s u.launch = some l →
    a.c ∈ c.out → (∀ p ∈ s.mem.posts, p.read = true → ¬(p.who = .engine u.tid c.csn ∧ p.part = a.c)) →
    ctxLive s l.ctx = true → l.rollback = none → chunkMoves s a ⟨l, u, c⟩ ps g → g.st.devFail = none → watchesOff g.st u.core = true →
    findTeam g.st u.tid = some v →
    v.running = u.running → teamLives g.st u.tid → noRegroup g.st u.tid →
    let q := barOf v c.bar
    let q' := { q with bal := q.bal - chunkBytes c a.c }
    let sat := fun (m n : Nat) => min 0xFFFFFFFF (m + n)
    let v1 := { v with zeroBlocks := sat v.zeroBlocks g.zeros, spills := sat v.spills g.spills, satBlocks := sat v.satBlocks g.sats }
    let moved := fun (f : Cmd → Cmd) => v.running.map fun k =>
      if k.csn = c.csn then f { k with capNsat := g.nsat, capBsat := g.bsat, edge := edgePieces ⟨l, u, c⟩ ps } else k
    let unheard := ∃ p ∈ g.st.mem.posts, p.read = false ∧ p.who = .engine u.tid c.csn ∧ p.part = a.c
    let then_ := fun (t : State) => { g.st with
      dev := { g.st.dev with buckets := t.dev.buckets, used := t.dev.used }, teams := t.teams, fx := [], devFail := none }
    let others := fun (t : State) => ∀ tid, tid ≠ u.tid → findTeam t tid = findTeam g.st tid
    (unheard → ∃ t, happens .chunkDelivery a s t ∧ t = then_ t ∧ others t ∧ findTeam t u.tid = some { v1 with
      running := moved fun k => { k with out := k.out.filter fun j => j ≠ a.c, sent := k.sent ++ [a.c] } }) ∧
    (q.exp ≠ 0 → ¬unheard → c.done.length + 1 < c.chunks → ¬phaseComplete q' →
      ∃ t u', happens .chunkDelivery a s t ∧ findTeam t u.tid = some u' ∧ barrierNow v1 u' c.bar q' ∧
        u' = { v1 with bars := u'.bars, running := moved (chunkOver a.c) } ∧ t = then_ t ∧ others t) ∧
    (q.exp ≠ 0 → ¬unheard → c.done.length + 1 = c.chunks → phaseComplete q' →
      ∃ t u', happens .chunkDelivery a s t ∧ findTeam t u.tid = some u' ∧ barrierNow v1 u' c.bar (phaseLeaves q') ∧
        u' = { v1 with
          bars := u'.bars, seqState := u'.seqState, seqPark := u'.seqPark
          queue := v1.queue.filter fun k => k.csn ≠ c.csn, running := v1.running.filter fun k => k.csn ≠ c.csn } ∧
        t = { then_ t with
          groups := groupsWith g.st u.tid c.gi (commandOver c.csn false)
          splits := g.st.splits.map fun y => copyWakes u.tid c.gi false (phaseWakes u.tid c.bar q.phase y) } ∧
        others t)) ∧
  (∀ s a l u c d, findTeam s u.tid = some u → c.rec_.dims = [d] → c.rec_.tf = 2 ∨ c.rec_.tf = 4 → c.edge = [] →
    let s0 := { eventOf s a with fx := [], devFail := none }
    let at_ := fun (k : Nat) => c.coords.headD 0 + (k : Int)
    let ta := fun (k : Nat) => (c.rec_.tbase : Int) + at_ k * d.stride
    let mine := fun (k : Nat) => a.c * 1024 ≤ k ∧ k < (a.c + 1) * 1024 ∧ k < c.boxes.headD 0
    let inside := fun (k : Nat) => 0 ≤ at_ k ∧ at_ k < d.ext
    c.coords.length = 1 → (c.rec_.tbase : Int) % 4 = 0 → d.stride % 4 = 0 →
    (c.kind = .fill → c.rec_.ts = 1 → (∀ k, mine k → inside k → 0 ≤ ta k) →
      ∃ ps g v, chunkMoves s a ⟨l, u, c⟩ ps g ∧ g.st = { s0 with teams := g.st.teams } ∧ findTeam g.st u.tid = some v ∧
        v = { u with ls := v.ls } ∧
        (∀ i : Nat, (∃ k, mine k ∧ inside k ∧ ta k = 4 * (i : Int)) → storeWord v .ls i = (BitVec.ofNat 32 c.fill, 0xFF04#16)) ∧
        ∀ i : Nat, (∀ k, mine k → inside k → ta k ≠ 4 * (i : Int)) → storeWord v .ls i = storeWord u .ls i) ∧
    ∀ T : Nat → Target, c.kind = .copy → c.store = false → c.rec_.ts = 0 → c.rec_.lsp = 1 → c.rec_.lf = c.rec_.tf → c.rec_.lbase % 4 = 0 →
      d.pad < 2 → findLaunch s l.id = some l → (l.node && l.replayable) = false → stillMemory s →
      (∀ k, mine k → inside k → translateDie s (dieOf u.core) l.ctx (BitVec.ofInt 64 (ta k)) 1 = .ok (T k) ∧ isRemote s (T k) = false) →
      ∃ ps g v, chunkMoves s a ⟨l, u, c⟩ ps g ∧
        g.st = { s0 with mem := { s.mem with l2 := g.st.mem.l2, writeBacks := g.st.mem.writeBacks }, teams := g.st.teams, fresh := g.st.fresh } ∧
        findTeam g.st u.tid = some v ∧ v = { u with ls := v.ls } ∧
        (∀ k, mine k → storeWord v .ls (c.rec_.lbase / 4 + k) =
          if 0 ≤ at_ k ∧ at_ k < d.ext then cellAt s (T k) 0
          else if d.pad = 0 then (0#32, 0xFF06#16) else storeWord u .ls (c.rec_.lbase / 4 + k)) ∧
        ∀ i, (∀ k, mine k → i ≠ c.rec_.lbase / 4 + k) → storeWord v .ls i = storeWord u .ls i) ∧
  (∀ s a u h, findTeam s a.a = some u → u.heldArr[a.b]? = some h →
    (∀ k, k < a.b → ∀ x, u.heldArr[k]? = some x → ¬(x.gi = h.gi ∧ x.bar = h.bar)) →
    let v := h.guard.elim Guard.true_ (guardOf u)
    let rest := { u with heldArr := u.heldArr.eraseIdx a.b }
    let others := fun (t : State) => ∀ tid, tid ≠ u.tid → findTeam t tid = findTeam s tid
    (v = .false_ → h.always = false →
      ∃ t, happens .heldArrival a s t ∧ t = { s with teams := t.teams, fx := [], devFail := none } ∧ findTeam t u.tid = some rest ∧ others t) ∧
    (v = .true_ ∨ (v = .false_ ∧ h.always = true) →
      let q := barOf u h.bar
      let bytes := if v = .true_ then h.bytes else 0
      let q' := { q with arr := q.arr + 1, bal := q.bal + bytes, ann := q.ann || (decide (v = .true_) && h.ann) }
      q.arr < q.exp → -(2 ^ 46 : Int) ≤ q.bal + bytes → q.bal + bytes < 2 ^ 46 → noRegroup s u.tid →
      (¬phaseComplete q' → ∃ t u', happens .heldArrival a s t ∧ t = { s with teams := t.teams, fx := [], devFail := none } ∧ findTeam t u.tid = some u' ∧
        u' = { rest with bars := u'.bars } ∧ barrierNow u u' h.bar q' ∧ others t) ∧
      (phaseComplete q' → ∃ t u', happens .heldArrival a s t ∧
        t = { s with teams := t.teams, splits := s.splits.map (phaseWakes u.tid h.bar q.phase), fx := [], devFail := none } ∧ findTeam t u.tid = some u' ∧
        u' = { rest with bars := u'.bars, seqState := u'.seqState, seqPark := u'.seqPark } ∧ barrierNow u u' h.bar (phaseLeaves q') ∧
        others t))) ∧
  ∀ s a u l c cs k, findTeam s a.a = some u → u.queue = c :: cs → c.guard = some k → guardOf u k = .unresolved →
    findLaunch s u.launch = some l →
    (¬teamLives s u.tid → happens .engineStalemate a s { s with
      ctxs := s.ctxs.map fun x => if x.num = l.ctx then faulted x { cause := 0x84#8, launch := l.id, team := some u.ordinal } else x }) ∧
    ∀ x g off, teamLives s u.tid → u.queue.length = 16 → s.splits.filter (fun y => y.tid = u.tid) = [x] → x.st = .parked →
      x.park = .engine → findGroup s x.tid x.gi = some g → g.hs = none → l.hdr.trap = some off → traceOff s l.ctx = true →
      ∃ t, happens .engineStalemate a s t ∧ t = { s with groups := t.groups, splits := t.splits, fx := [], devFail := none } ∧
        handlerEntered s t ⟨l, u, g, x⟩ off { cause := 0x84#8, pc := x.pc, mask := x.amask, info2 := BitVec.ofNat 32 x.parkKey }

/-- R232, R240 to R242, R247 to R253, R255, R266, R273, R274 and the frame of the matrix unit: a grant, and each posted operation performed
by a team without a watchpoint or a capture ring. A pass is stated by its words; a drain for FP32 and I32 rows and for RNE
narrowings. A failed operation is recorded, and its fault reaches a split's handler, or freezes the context. -/
def Obligations.MatrixUnit : Prop :=
  (∀ s a u p ps r, findTeam s a.a = some u → u.posted = p :: ps →
    let quad := quadOf u.core
    let rivals := eligible s quad (isDrain p)
    (u.tid, r) ∈ rivals → (∀ x ∈ rivals, x.1 ≠ u.tid → r < x.2) → (∀ x ∈ rivals, x.1 = u.tid → r = x.2) →
    unitFree s quad (isDrain p) = true →
    ∃ t, happens .arbiterGrant a s t ∧
      t = { s with
        dev := { s.dev with planes := t.dev.planes }
        teams := s.teams.map fun k => if k.tid = u.tid then { k with posted := { p with granted := true } :: ps } else k } ∧
      (∀ k, k ≠ quad → mapGet {} t.dev.planes k = mapGet ({} : Planes) s.dev.planes k) ∧
      let old : Planes := mapGet {} s.dev.planes quad
      let now : Planes := mapGet {} t.dev.planes quad
      (∀ b, p.op = .mldw b → now = { old with shadow := some (u.tid, b) }) ∧
      (∀ m ta tc f b tr nz ra rc, p.op = .mma m ta tc f b tr nz ra rc → now.active = some (u.tid, b)) ∧
      ((∀ b, p.op ≠ .mldw b) → (∀ m ta tc f b tr nz ra rc, p.op ≠ .mma m ta tc f b tr nz ra rc) → now = old)) ∧
  (∀ s a l u p ps b d, granted s a.a l u p ps → p.op = .mldw b → opDesc b.bd = some d →
    ((∀ k, k < 256 → rowOk u .wb b.tile d k = true) →
      ∃ t, happens .mldwCompletion a s t ∧ t = { s with teams := t.teams } ∧ operationOver s t u u) ∧
    ((∃ k, k < 256 ∧ rowOk u .wb b.tile d k = false) →
      ∃ t, happens .mldwCompletion a s t ∧ t = { s with teams := t.teams } ∧
        findTeam t u.tid = some { u with
          posted := [], seqPc := p.pc, shadow := none, active := p.active, seqState := .faulted, seqPark := .none, seqSkip := false
          seqImm := 0#32, seqMod := 0#32, seqHint := 0#32
          seqFault := some { cause := 0x8A#8, info0 := p.pc.setWidth 32, info1 := p.pc.extractLsb' 32 32, info2 := p.word,
                             info3 := 0x80000000#32 } } ∧
        ∀ tid, tid ≠ u.tid → findTeam t tid = (findTeam s tid).map (freed (quadOf u.core)))) ∧
  (∀ s a l u p ps, granted s a.a l u p ps → p.op = .mswap →
    let quad := quadOf u.core
    ∃ t, happens .mswapExchange a s t ∧ t = { s with dev := { s.dev with planes := t.dev.planes }, teams := t.teams } ∧
      operationOver s t u u ∧ ∀ k, mapGet {} t.dev.planes k =
        if k = quad then { active := (mapGet ({} : Planes) s.dev.planes quad).shadow, shadow := (mapGet ({} : Planes) s.dev.planes quad).active }
        else mapGet {} s.dev.planes k) ∧
  (∀ s a l u p ps m ta tc f act tr nz rowA rowC da db, granted s a.a l u p ps → p.op = .mma m ta tc f act tr nz rowA rowC →
    opDesc (fmtA f) = some da → opDesc act.bd = some db → (∀ i, i < m → rowOk u .ab ta da (rowA + i) = true) →
    16 ≤ tilePitch tc → tileBase tc % 4 = 0 → fmtStat f % 4 = 0 ∨ fmtStat f = 0xFFFFFFFF →
    statOverlaps (fmtStat f) tc rowC m = false ∨ fmtStat f = 0xFFFFFFFF → watchesOff s u.core = true → hasRing s l.ctx = false →
    l.shadow = false →
    ∃ t v, happens .passCompletion a s t ∧ t = { s with teams := t.teams, fx := [], devFail := none } ∧ operationOver s t u v ∧
      v = { u with cb := v.cb, cbTags := v.cbTags } ∧
      (∀ i n, i < m → n < 256 →
        (storeWord v .cb (tileRow tc (rowC + i) / 4 + n)).1 =
          (passElem da db (operandRow u .ab ta da nz (rowA + i)) (operandRow u .wb act.tile db nz n)
            (storeWord u .cb (tileRow tc (rowC + i) / 4 + n)).1).word) ∧
      (fmtStat f ≠ 0xFFFFFFFF →
        (storeWord v .cb (fmtStat f / 4 + 3)).1 = (storeWord u .cb (fmtStat f / 4 + 3)).1 + 1#32) ∧
      ∀ w, (∀ i n, i < m → n < 256 → w ≠ tileRow tc (rowC + i) / 4 + n) →
        ¬(fmtStat f ≠ 0xFFFFFFFF ∧ fmtStat f / 4 ≤ w ∧ w < fmtStat f / 4 + 16) → (storeWord v .cb w).1 = (storeWord u .cb w).1) ∧
  (∀ s a l u p ps k, granted s a.a l u p ps → p.op = .mzero k → watchesOff s u.core = true →
    let n := tileRows k * tilePitch k * 64
    let inside := fun (x : Nat) => decide (tileBase k ≤ x) && decide (x < tileBase k + n)
    ∃ t v, happens .mzeroCompletion a s t ∧ t = { s with teams := t.teams, fx := [], devFail := none } ∧ operationOver s t u v ∧
      v = { u with cb := v.cb, cbTags := v.cbTags } ∧
      (∀ x, bufferByte v .cb x = if inside x then 0#8 else bufferByte u .cb x) ∧
      ∀ g, ((∀ j, j < 64 → inside (64 * g + j) = true) → granTag v .cb g = streamTag l u p.pc) ∧
        ((∀ j, j < 64 → inside (64 * g + j) = false) → granTag v .cb g = granTag u .cb g)) ∧
  (∀ s a l u p ps rows td tc f z rowC rowD r, granted s a.a l u p ps → p.op = .mdrain rows td tc f z rowC rowD → drainRow f = some r →
    r.per = 1 → r.pitch ≤ tilePitch td → 16 ≤ tilePitch tc → tileBase tc % 4 = 0 → watchesOff s u.core = true → hasRing s l.ctx = false →
    l.shadow = false → fmtCd f 2 = 0 →
    let src := fun (q n : Nat) => (storeWord u .cb (tileRow tc (rowC + q) / 4 + n)).1.toNat
    ∃ t v, happens .drainCompletion a s t ∧ t = { s with teams := t.teams, fx := [], devFail := none } ∧ operationOver s t u v ∧
      v = { u with
        ab := v.ab, abTags := v.abTags, cb := v.cb, cbTags := v.cbTags, satBlocks := v.satBlocks
        zeroBlocks := min 0xFFFFFFFF u.zeroBlocks, spills := min 0xFFFFFFFF u.spills } ∧
      (∀ q, q < rows →
        (fmtCd f 1 = 7 → ∀ x, x < 1024 →
          bufferByte v .ab (tileRow td (rowD + q) + x) = byteAt (src q (x / 4)) (x % 4)) ∧
        (∀ fmt w, (fmtCd f 1, fmt, w) ∈ [(1, Fmt.bf16, 2), (2, Fmt.fp16, 2), (3, Fmt.e4m3, 1), (4, Fmt.e5m2, 1)] → ∀ n j, n < 256 → j < w →
          bufferByte v .ab (tileRow td (rowD + q) + w * n + j) =
            byteAt (roundTo fmt .rne true (decodeFp .fp32 (src q n)) 0).code j)) ∧
      (∀ x, (∀ q, q < rows → ¬(tileRow td (rowD + q) ≤ x ∧ x < tileRow td (rowD + q) + r.bytes)) →
        bufferByte v .ab x = bufferByte u .ab x) ∧
      ∀ x, bufferByte v .cb x =
        if z && (upTo rows).any fun q => decide (tileRow tc (rowC + q) ≤ x) && decide (x < tileRow tc (rowC + q) + 1024) then 0#8
        else bufferByte u .cb x) ∧
  ∀ s a u l f, findTeam s a.a = some u → u.seqFault = some f → findLaunch s u.launch = some l → teamLives s u.tid →
    let told := s.teams.map fun k => if k.tid = u.tid then { k with seqFault := none } else k
    ∀ g x, leastBy (fun k : Group => k.gi) (liveGroups s u.tid) = some g → leastBy (fun y : Split => y.id.toNat) (splitsOf s u.tid g.gi) = some x →
      (l.hdr.trap = none → happens .streamFaultDelivery a s { s with
        teams := told
        ctxs := s.ctxs.map fun k =>
          if k.num = l.ctx then
            faulted k { cause := f.cause, trap := { f with pc := f.info1 ++ f.info0 }, launch := l.id, team := some u.ordinal,
                        stream := true, noEntry := true }
          else k }) ∧
      ∀ off, l.hdr.trap = some off → x.st = .ready → g.hs = none → findGroup s u.tid g.gi = some g →
        findSplit s u.tid g.gi x.rank = some x → traceOff s l.ctx = true → isK f.cause = false → f.cause ≠ 0x40#8 →
        s.mem.locks = [] → s.mem.monitors = [] → s.mem.rechecks = [] →
        ∃ t, happens .streamFaultDelivery a s t ∧ t = { s with teams := told, groups := t.groups, splits := t.splits, fx := [], devFail := none } ∧
          handlerEntered s t ⟨l, u, g, x⟩ off { f with pc := x.pc, mask := x.amask }

/-- R298, R299, R302 to R305, R329, R336 and the frame of the collective sequencers and of a group's meetings: a signature received, the
steps of a running collective with the members' credits, its end by an abort, by the timeout, by a differing signature and, with
nothing to move, by agreement; a stalemate of two splits; and the migration of a REGROUP's lanes. That a step begun keeps its sequencer
until it is over is the model's reading (log entry 43). -/
def Obligations.CollectivesAndMeetings : Prop :=
  (∀ s a c q u, onlyColl s c q u → a.a = c.id → c.st = .handshake → a.b < q.nmem → (∀ v ∈ c.sigs, v.1 ≠ a.b ∧ v.2 = collSignature c) →
    let c' := { c with sigs := c.sigs ++ [(a.b, a.v.toNat)], since := s.clock }
    let x : CollCtx := ⟨c, q⟩
    let sent := collSent s q.cls ((others q).map fun d => (d, .credit d q.key c.seq))
    let full := (upTo q.nmem).all fun r => r = a.b || c.sigs.any fun v => v.1 = r
    (a.v.toNat = collSignature c → full = false → happens .signatureReceipt a s { s with colls := [c'] }) ∧
    (a.v.toNat = collSignature c → full = true → x.nSrc + x.nDst ≠ 0 →
      happens .signatureReceipt a s { sent with colls := [{ c' with st := .running }] }) ∧
    (a.v.toNat = collSignature c → full = true → x.nSrc + x.nDst = 0 →
      ∃ t, happens .signatureReceipt a s t ∧ collEnds sent t { c' with st := .running } q u none) ∧
    (a.v.toNat ≠ collSignature c → ∃ t, happens .signatureReceipt a s t ∧ collEnds s t c' q u (some 0xA4#8))) ∧
  (∀ s a c q u, onlyColl s c q u → a.a = c.id → c.st = .handshake ∨ c.st = .running →
    (∃ t, happens .collAbort a s t ∧ collEnds s t c q u (some 0xA6#8)) ∧
    ∃ t, happens .sequencerTimeout a s t ∧ collEnds s t c q u (some 0xA5#8)) ∧
  (∀ s a c q, findColl s a.a = some c → findComm s c.handle = some q → c.st ≠ .done → c.st ≠ .failed → a.b < q.nmem →
    ∃ t c', happens .chunkCredit a s t ∧ t = { s with colls := t.colls } ∧ findColl t c.id = some c' ∧
      c' = { c with credits := c'.credits, passed := a.b :: c.passed.filter fun r => r ≠ a.b } ∧ (∀ n, n ≠ c.id → findColl t n = findColl s n) ∧
      ∀ r, c'.credit r = if r = a.b then c.credit r + 1 else c.credit r) ∧
  (∀ s a c q, findColl s a.a = some c → findComm s c.handle = some q → c.st = .running →
    let x : CollCtx := ⟨c, q⟩
    let s0 := { s with cur := .nobody, arg := a }
    let only := fun (t : State) => ∀ n, n ≠ c.id → findColl t n = findColl s n
    (∀ r ws, a.data = [(r, ws)] → r ≠ q.rank → r < q.nmem → ws ≠ [] → (c.have_ r).length + ws.length ≤ x.cells * x.sent r q.rank →
      c.now = none → q.nmem < a.b →
      let d := q.members.getD r 0
      ∃ t c', happens .chunkStep a s t ∧ findColl t c.id = some c' ∧ only t ∧
        c' = { c with got := c'.got, passed := r :: c.passed.filter fun k => k ≠ r } ∧
        (∀ k, c'.have_ k = if k = r then c.have_ k ++ ws else c.have_ k) ∧
        t = { collSent s q.cls [(d, .credit d q.key c.seq)] with colls := t.colls }) ∧
    (∀ es0 es g0 g, a.data = [] → a.b = 0 → x.ready s0 = true → 0 ∈ x.steps_ → chosen s0 x = true →
      collElems x x.srcChunk ⟨s0, [], []⟩ = .ok (es0, g0) → g0.asks = [] →
      ((stepIssues s0 x g0.secs).1 ≠ (stepRequests s0 x g0.secs).length →
        ∃ t c', happens .chunkStep a s t ∧ findColl t c.id = some c' ∧ only t ∧
          c' = { c with now := some (0, (c.now.map fun n => n.2).getD 0 + (stepIssues s0 x g0.secs).1) } ∧
          t = { s with colls := t.colls, dev := (stepIssues s0 x g0.secs).2.dev }) ∧
      ((stepIssues s0 x g0.secs).1 = (stepRequests s0 x g0.secs).length →
        collElems x x.srcChunk ⟨(stepIssues s0 x g0.secs).2, [], []⟩ = .ok (es, g) →
        c.steps + 1 < x.srcSteps ∨ x.allWritten = false → (∀ k, findColl g.st k = findColl s k) →
        let part := fun (k : Nat) => (es.filter fun i => x.goesTo i.1 k).flatMap fun i => i.2
        let sent := collSent g.st q.cls (x.targets.flatMap fun k =>
          let d := q.members.getD k 0
          (payloadFlits d q.key c.seq (x.cells * (64 / x.e)) (part k)).map fun f => (d, f))
        ∃ t c', happens .chunkStep a s t ∧ findColl t c.id = some c' ∧ only t ∧
          c' = { c with
            steps := c.steps + 1, since := g.st.clock, now := none, credits := c'.credits, got := c'.got
            heard := c.heard.filter fun h => h.part ≠ c.steps } ∧
          (∀ k, c'.credit k = if k ∈ x.targets then c.credit k - 1 else c.credit k) ∧
          (∀ k, c'.have_ k = if k = q.rank then c.have_ k ++ part k else c.have_ k) ∧
          t = { sent with
            colls := t.colls, cur := t.cur, arg := t.arg
            dev := { sent.dev with buckets := t.dev.buckets, used := t.dev.used } })) ∧
    ∀ (T : WordOut → Target) (j : Nat),
      let ws := collWords x (x.dstChunk j).1
      let at_ := fun (w : WordOut) => (T w).pa / 4 * 4
      let cells := ws.map fun w => (at_ w, (mergeBytes (homeCell s.mem (at_ w)).1 w.bytes, w.tag))
      let secs := ws.map fun w => homeKey s0 (T w) / 32
      let wrote := fun (k : Nat) => if k = j then x.done j + (x.dstChunk j).1.length else x.done k
      a.data = [] → a.b = j + 1 → x.ready s0 = true → j + 1 ∈ x.steps_ → chosen s0 x = true →
      (stepIssues s0 x secs).1 = (stepRequests s0 x secs).length →
      ¬(c.steps = x.srcSteps ∧ ∀ k ∈ x.senders, wrote k = x.due k) → stillMemory s → s.mem.staged = [] →
      (∀ l ∈ s.launches, (l.node && l.replayable) = false) → (ws.map at_).Nodup → roomy s.mem cells →
      (∀ w ∈ ws, translateDie s (dieOf (seqCore q.seqr)) c.ctx (BitVec.ofInt 64 w.addr) 2 = .ok (T w) ∧ (T w).tier < 2 ∧
        w.tag ≠ 0xFF00#16) →
      ∃ t c', happens .chunkStep a s t ∧ wordsPut s.mem t.mem cells ∧ findColl t c.id = some c' ∧ only t ∧
        c' = { c with wrote := c'.wrote, edge := c'.edge, since := s.clock, now := none } ∧ (∀ k, mapGet 0 c'.wrote k = wrote k) ∧
        t = { s with
          mem := t.mem, fresh := t.fresh, colls := t.colls
          dev := { s.dev with
            buckets := t.dev.buckets, used := t.dev.used
            served := mapSet 0 s.dev.served (q.seqr * 4 + q.cls) q.handle }
          comms := s.comms.map fun k =>
            if k.handle = q.handle then { k with births := min 65535 (k.births + (x.dstChunk j).2) } else k }) ∧
  (∀ s a g x y e off, findGroup s a.a a.b = some g → splitsOf s a.a a.b = [x, y] → x.st = .waiting → y.st = .waiting →
    x.wm ≠ y.wm → x.rank ≠ y.rank → y.rank ∈ joinSet g x.wm → x.rank ∈ joinSet g y.wm → x.id.toNat < y.id.toNat →
    exAt s a.a a.b x.rank = some e → traceOff s e.lch.ctx = true → e.lch.hdr.trap = some off → g.hs = none → e.tm.stopping = false →
    let f := fun (z : Split) =>
      ({ cause := 0x62#8, pc := z.pc, mask := z.amask, info0 := BitVec.ofNat 32 z.wm,
         info2 := wordOf (.rejoin (BitVec.ofNat 4 z.wm)) } : Trap)
    ∃ t m, happens .splitStalemate a s t ∧ t = { s with groups := t.groups, splits := t.splits, fx := [], devFail := none } ∧
      handlerEntered s m e off (f x) ∧
      t.groups = groupsWith m a.a a.b (fun k => { k with held := k.held ++ [⟨y.rank, f y⟩] }) ∧
      t.splits = m.splits.map fun z =>
        if z.tid = a.a ∧ z.gi = a.b ∧ z.rank = y.rank then { z with st := .parked, prev := z.st, park := .trap, parkKey := 0 } else z) ∧
  ∀ s a e x xs, participants s a.a = x :: xs → exAt s a.a x.gi x.rank = some e → e.width ≤ 64 → traceOff s e.lch.ctx = true →
    lsSettled s = true → (∀ y ∈ x :: xs, y.parkKey = x.parkKey ∧ s.splits.filter (fun z => z.tid = a.a && z.gi = y.gi) = [y] ∧
      ∃ g, findGroup s a.a y.gi = some g ∧ g.regroup = .migrating) →
    ((x :: xs).map fun y => y.gi).Nodup → x.parkKey / 2 ^ 20 % 16 = a.b →
    let n := x.parkKey / 2 ^ 12 % 256
    let off := (BitVec.ofNat 12 x.parkKey).signExtend 64
    let src := renumbered s a.a e.width
    ∃ t, happens .regroupMigration a s t ∧
      t = { s with teams := t.teams, groups := t.groups, splits := t.splits, fx := [], devFail := none } ∧
      t.teams = s.teams.map (fun u => if u.tid = a.a then { u with retWords := u.retWords + (x :: xs).length } else u) ∧
      (∀ tid gi, (tid = a.a → ∀ y ∈ x :: xs, y.gi ≠ gi) → findGroup t tid gi = findGroup s tid gi) ∧
      (∀ tid gi r, (tid = a.a → ∀ y ∈ x :: xs, y.gi ≠ gi) → findSplit t tid gi r = findSplit s tid gi r) ∧
      ∀ (j : Nat) (y : Split) (g : Group), (x :: xs)[j]? = some y → findGroup s a.a y.gi = some g →
        let got := min e.width (src.length - j * e.width)
        let mask := fullMask got
        ∃ y' g', findSplit t a.a y.gi y.rank = some y' ∧ findGroup t a.a y.gi = some g' ∧
          y' = { y with
            st := y.prev, park := .none, parkKey := 0, lset := mask, amask := mask, imm := 0#32, mod := 0#32, hint := 0#32
            pc := if got = 0 then y.pc + 4#64 * off else y.pc + 4#64, slices := y'.slices } ∧
          g' = { g with
            regroup := .running, vregs := g'.vregs, preds := g'.preds, orig := g'.orig, dice := g'.dice, lstat := g'.lstat } ∧
          (∀ i m b, i < got → src[j * e.width + i]? = some m → findGroup s a.a m.1 = some b →
            (∀ r, r < n → vreg g' r i = vreg b r m.2) ∧ (∀ p, 1 ≤ p → p < 8 → predBit g' p i = predBit b p m.2) ∧
            mapGet 0#32 g'.orig i = mapGet 0#32 b.orig m.2 ∧ diceOf g' i = diceOf b m.2 ∧ lstatOf g' i = lstatOf b m.2) ∧
          (∀ r i, n ≤ r ∨ got ≤ i → i < 64 → vreg g' r i = vreg g r i) ∧
          ∀ p i, got ≤ i → i < 64 → predBit g' p i = predBit g p i

/-! ## The encoding, the step and the whole machine -/

/-- R50, R55, R69: the encoding of words. Every well-formed instruction with an encoding is what its own word decodes to, with every
operand at every value, and a word that decodes is the encoding of the one well-formed instruction it names. -/
def Obligations.DecodeAndEncodeAgree : Prop :=
  (∀ (i : Instr) (w : Word), i.wellFormed = true → encode i = some w → decode w = some i) ∧
  ∀ (w : Word) (i : Instr), decode w = some i → i.wellFormed = true ∧ encode i = some w

/-- Words of several families, written out from the opcode table's fields, and the instructions that they stand for; words with a
reserved bit set (R55) stand for none. -/
def Obligations.DecodedWords : Prop :=
  decode (0x38#8 ++ 5#8 ++ 0xC2#8 ++ 0xF7#8) = some (.vadd 5#8 0xC2#8 0xF7#8) ∧
  decode (0x12#8 ++ 9#4 ++ 1#1 ++ 3#3 ++ 0xFFFC#16) = some (.brd 9#4 1#1 3#3 0xFFFC#16) ∧
  decode (0xA0#8 ++ 7#8 ++ 2#8 ++ 5#3 ++ 19#5) = some (.ldg 7#8 2#8 5#3 19#5) ∧
  decode (0xD0#8 ++ 0xC4#8 ++ 17#5 ++ 1#1 ++ 2#3 ++ 11#4 ++ 0#3) = some (.xcopy 0xC4#8 17#5 1#1 2#3 11#4) ∧
  decode (0xE2#8 ++ 3#4 ++ 6#4 ++ 9#4 ++ 2#2 ++ 1#1 ++ 4#3 ++ 5#3 ++ 0#3) = some (.mmaM32 3#4 6#4 9#4 2#2 1#1 4#3 5#3) ∧
  decode (0xD5#8 ++ 6#3 ++ 9#4 ++ 12#4 ++ 33#6 ++ 5#3 ++ 2#3 ++ 1#1) = some (.coll 6#3 9#4 12#4 33#6 5#3 2#3 1#1) ∧
  decode (0xF6#8 ++ 0#8 ++ 0x2D#8 ++ 0x40#8) = some (.lstatMask 0x2D#8) ∧
  decode (0x58#8 ++ 1#24) = some (.reservedOpcode 0x58000001#32) ∧
  decode (0x59#8 ++ 1#8 ++ 2#8 ++ 3#8) = some (.vselPk 1#3 1#8 2#8 3#8) ∧
  decode (0x04#8 ++ 1#24) = none ∧ decode (0x32#8 ++ 0xC0#8 ++ 0xC1#8 ++ 1#8) = none

/-- R50, R66, R360: a step runs what the bytes at the program counter decode to. With a split, or a stream, at the head of the agenda
that may issue, step is exec of the decoded instruction on the machine a clock step later, once the fetch has passed the word's home
(R88), then with nobody's turn and the parked teams noted (the model's own, log entry 9); an event of the agenda is executed with what it
supplies. A word of this device's memory is the four bytes at the translated PC, the lowest first; with memory at rest its fetch leaves
a sector in L2 and nothing else (which line leaves a full set is a free choice). -/
def Obligations.StepRunsDecoded : Prop :=
  (∀ s tid gi rank rest e w i t, s.agenda = .split tid gi rank :: rest → exAt s tid gi rank = some e → mayIssue s e = true →
    s.shadows = [] → fetchAt s e.tm.core e.lch.ctx e.x.pc = .word w → decode w = some i →
    exec i { fetchTouch { s with clock := s.clock + 1, agenda := rest } e.tm.core e.lch.ctx e.x.pc with
      cur := .split tid gi rank } = .next t →
    step s = .next (noteParked { t with cur := .nobody, arg := {} })) ∧
  (∀ s tid rest x w i t, s.agenda = .stream tid :: rest → sxOf s tid = some x → mayStream s x = true →
    s.shadows = [] → fetchAt s x.tm.core x.lch.ctx x.tm.seqPc = .word w → decode w = some i →
    exec i { fetchTouch { s with clock := s.clock + 1, agenda := rest } x.tm.core x.lch.ctx x.tm.seqPc with
      cur := .stream tid } = .next t →
    step s = .next (noteParked { t with cur := .nobody, arg := {} })) ∧
  (∀ s i a rest t, s.agenda = .event i a :: rest → encode i = none → s.shadows = [] →
    exec i { s with clock := s.clock + 1, agenda := rest, cur := .nobody, arg := a } = .next t →
    step s = .next (noteParked { t with cur := .nobody, arg := {} })) ∧
  (∀ t, ∃ u, noteParked t = { t with teams := u } ∧ u.length = t.teams.length ∧
    ∀ (k : Nat) (x y : Team), t.teams[k]? = some x → u[k]? = some y → y = { x with parkedAt := y.parkedAt }) ∧
  ∀ s core ctx pc T, canonical pc = true → pc.toNat % 4 = 0 → translate s core ctx pc 3 = .ok T → T.tier < 2 → s.mem.l1 = [] →
    (∀ g ∈ s.mem.uncorr, g ≠ T.pa / 32) →
    (∃ w, fetchAt s core ctx pc = .word w ∧
      w.toNat = (upTo 4).foldl (fun n k => n + (readByte s.mem.bytes (T.pa / 4 * 4 + k)).toNat * 2 ^ (8 * k)) 0) ∧
    (stillMemory s → ∃ l2 n k, fetchTouch s core ctx pc = { s with mem := { s.mem with l2 := l2, writeBacks := n }, fresh := k })

/-- The model never stops: whatever the state, and whoever has the turn, a step answers a next state. -/
def Obligations.EveryStepGoesOn : Prop := ∀ s, runsOn s

/-- The canonical form of memory is kept: in every step's outcome the lists of this device's and of the host's bytes rise strictly in
address and list no byte that an unlisted address reads as. -/
def Obligations.MemoryStaysCanonical : Prop := ∀ s t, memWf s.mem = true → step s = .next t → memWf t.mem = true

/-- R446, R447, R450, R451, R461: in every step's outcome READY stands at STEP 6 alone, ERR with an ECODE below STEP 6, ENABLE within
CAPS and CORR within 32 bits. -/
def Obligations.DeviceStaysSound : Prop := ∀ s t, devOk s.dev → step s = .next t → devOk t.dev

/-- R446, R447, R449: right after power-good the device is at STEP 1, neither READY nor ERR, and both invariants hold. The model's choices
in it: ENABLE is 0, of which the spec gives no reset value (log entry 3), and memory already reads as the zero tagged ZEROINIT that R449
gives it at STEP 4 (log entries 3 and 4). -/
def Obligations.ResetState : Prop :=
  memWf State.reset.mem = true ∧ devOk State.reset.dev ∧ State.reset.dev.step = 1 ∧ State.reset.dev.ready = false ∧
  State.reset.dev.err = false ∧ State.reset.dev.enable = 0#5 ∧
  ∀ a, readByte State.reset.mem.bytes a = 0#8 ∧ memTag State.reset.mem a = 0xFF02#16
end

