-- ==== Sys2Proof/Laws/State.lean ====
section
/-! SUPPORT. One lemma per field per update of the state, true by rfl, so that no proof unfolds a record update. -/

namespace Sys2Proof.Machine

/-! ## updTeam -/

@[simp] theorem updTeam_dev (s : State) (t : Nat) (f : Team → Team) : (updTeam s t f).dev = s.dev := rfl
@[simp] theorem updTeam_mem (s : State) (t : Nat) (f : Team → Team) : (updTeam s t f).mem = s.mem := rfl
@[simp] theorem updTeam_ctxs (s : State) (t : Nat) (f : Team → Team) : (updTeam s t f).ctxs = s.ctxs := rfl
@[simp] theorem updTeam_rings (s : State) (t : Nat) (f : Team → Team) : (updTeam s t f).rings = s.rings := rfl
@[simp] theorem updTeam_launches (s : State) (t : Nat) (f : Team → Team) : (updTeam s t f).launches = s.launches := rfl
@[simp] theorem updTeam_contracts (s : State) (t : Nat) (f : Team → Team) : (updTeam s t f).contracts = s.contracts := rfl
@[simp] theorem updTeam_comms (s : State) (t : Nat) (f : Team → Team) : (updTeam s t f).comms = s.comms := rfl
@[simp] theorem updTeam_colls (s : State) (t : Nat) (f : Team → Team) : (updTeam s t f).colls = s.colls := rfl
@[simp] theorem updTeam_images (s : State) (t : Nat) (f : Team → Team) : (updTeam s t f).images = s.images := rfl
@[simp] theorem updTeam_shadows (s : State) (t : Nat) (f : Team → Team) : (updTeam s t f).shadows = s.shadows := rfl
@[simp] theorem updTeam_teams (s : State) (t : Nat) (f : Team → Team) :
    (updTeam s t f).teams = updBy (fun u => u.tid = t) f s.teams := rfl
@[simp] theorem updTeam_groups (s : State) (t : Nat) (f : Team → Team) : (updTeam s t f).groups = s.groups := rfl
@[simp] theorem updTeam_splits (s : State) (t : Nat) (f : Team → Team) : (updTeam s t f).splits = s.splits := rfl
@[simp] theorem updTeam_cur (s : State) (t : Nat) (f : Team → Team) : (updTeam s t f).cur = s.cur := rfl
@[simp] theorem updTeam_arg (s : State) (t : Nat) (f : Team → Team) : (updTeam s t f).arg = s.arg := rfl
@[simp] theorem updTeam_agenda (s : State) (t : Nat) (f : Team → Team) : (updTeam s t f).agenda = s.agenda := rfl
@[simp] theorem updTeam_clock (s : State) (t : Nat) (f : Team → Team) : (updTeam s t f).clock = s.clock := rfl
@[simp] theorem updTeam_fresh (s : State) (t : Nat) (f : Team → Team) : (updTeam s t f).fresh = s.fresh := rfl
@[simp] theorem updTeam_nextId (s : State) (t : Nat) (f : Team → Team) : (updTeam s t f).nextId = s.nextId := rfl
@[simp] theorem updTeam_fx (s : State) (t : Nat) (f : Team → Team) : (updTeam s t f).fx = s.fx := rfl
@[simp] theorem updTeam_devFail (s : State) (t : Nat) (f : Team → Team) : (updTeam s t f).devFail = s.devFail := rfl

/-! ## updGroup -/

@[simp] theorem updGroup_dev (s : State) (t g : Nat) (f : Group → Group) : (updGroup s t g f).dev = s.dev := rfl
@[simp] theorem updGroup_mem (s : State) (t g : Nat) (f : Group → Group) : (updGroup s t g f).mem = s.mem := rfl
@[simp] theorem updGroup_ctxs (s : State) (t g : Nat) (f : Group → Group) : (updGroup s t g f).ctxs = s.ctxs := rfl
@[simp] theorem updGroup_rings (s : State) (t g : Nat) (f : Group → Group) : (updGroup s t g f).rings = s.rings := rfl
@[simp] theorem updGroup_launches (s : State) (t g : Nat) (f : Group → Group) : (updGroup s t g f).launches = s.launches := rfl
@[simp] theorem updGroup_contracts (s : State) (t g : Nat) (f : Group → Group) : (updGroup s t g f).contracts = s.contracts := rfl
@[simp] theorem updGroup_comms (s : State) (t g : Nat) (f : Group → Group) : (updGroup s t g f).comms = s.comms := rfl
@[simp] theorem updGroup_colls (s : State) (t g : Nat) (f : Group → Group) : (updGroup s t g f).colls = s.colls := rfl
@[simp] theorem updGroup_images (s : State) (t g : Nat) (f : Group → Group) : (updGroup s t g f).images = s.images := rfl
@[simp] theorem updGroup_shadows (s : State) (t g : Nat) (f : Group → Group) : (updGroup s t g f).shadows = s.shadows := rfl
@[simp] theorem updGroup_teams (s : State) (t g : Nat) (f : Group → Group) : (updGroup s t g f).teams = s.teams := rfl
@[simp] theorem updGroup_groups (s : State) (t g : Nat) (f : Group → Group) :
    (updGroup s t g f).groups = updBy (fun u => u.tid = t && u.gi = g) f s.groups := rfl
@[simp] theorem updGroup_splits (s : State) (t g : Nat) (f : Group → Group) : (updGroup s t g f).splits = s.splits := rfl
@[simp] theorem updGroup_cur (s : State) (t g : Nat) (f : Group → Group) : (updGroup s t g f).cur = s.cur := rfl
@[simp] theorem updGroup_arg (s : State) (t g : Nat) (f : Group → Group) : (updGroup s t g f).arg = s.arg := rfl
@[simp] theorem updGroup_agenda (s : State) (t g : Nat) (f : Group → Group) : (updGroup s t g f).agenda = s.agenda := rfl
@[simp] theorem updGroup_clock (s : State) (t g : Nat) (f : Group → Group) : (updGroup s t g f).clock = s.clock := rfl
@[simp] theorem updGroup_fresh (s : State) (t g : Nat) (f : Group → Group) : (updGroup s t g f).fresh = s.fresh := rfl
@[simp] theorem updGroup_nextId (s : State) (t g : Nat) (f : Group → Group) : (updGroup s t g f).nextId = s.nextId := rfl
@[simp] theorem updGroup_fx (s : State) (t g : Nat) (f : Group → Group) : (updGroup s t g f).fx = s.fx := rfl
@[simp] theorem updGroup_devFail (s : State) (t g : Nat) (f : Group → Group) : (updGroup s t g f).devFail = s.devFail := rfl

/-! ## updSplit -/

@[simp] theorem updSplit_dev (s : State) (t g r : Nat) (f : Split → Split) : (updSplit s t g r f).dev = s.dev := rfl
@[simp] theorem updSplit_mem (s : State) (t g r : Nat) (f : Split → Split) : (updSplit s t g r f).mem = s.mem := rfl
@[simp] theorem updSplit_ctxs (s : State) (t g r : Nat) (f : Split → Split) : (updSplit s t g r f).ctxs = s.ctxs := rfl
@[simp] theorem updSplit_rings (s : State) (t g r : Nat) (f : Split → Split) : (updSplit s t g r f).rings = s.rings := rfl
@[simp] theorem updSplit_launches (s : State) (t g r : Nat) (f : Split → Split) : (updSplit s t g r f).launches = s.launches := rfl
@[simp] theorem updSplit_contracts (s : State) (t g r : Nat) (f : Split → Split) : (updSplit s t g r f).contracts = s.contracts := rfl
@[simp] theorem updSplit_comms (s : State) (t g r : Nat) (f : Split → Split) : (updSplit s t g r f).comms = s.comms := rfl
@[simp] theorem updSplit_colls (s : State) (t g r : Nat) (f : Split → Split) : (updSplit s t g r f).colls = s.colls := rfl
@[simp] theorem updSplit_images (s : State) (t g r : Nat) (f : Split → Split) : (updSplit s t g r f).images = s.images := rfl
@[simp] theorem updSplit_shadows (s : State) (t g r : Nat) (f : Split → Split) : (updSplit s t g r f).shadows = s.shadows := rfl
@[simp] theorem updSplit_teams (s : State) (t g r : Nat) (f : Split → Split) : (updSplit s t g r f).teams = s.teams := rfl
@[simp] theorem updSplit_groups (s : State) (t g r : Nat) (f : Split → Split) : (updSplit s t g r f).groups = s.groups := rfl
@[simp] theorem updSplit_splits (s : State) (t g r : Nat) (f : Split → Split) :
    (updSplit s t g r f).splits = updBy (fun u => u.tid = t && u.gi = g && u.rank = r) f s.splits := rfl
@[simp] theorem updSplit_cur (s : State) (t g r : Nat) (f : Split → Split) : (updSplit s t g r f).cur = s.cur := rfl
@[simp] theorem updSplit_arg (s : State) (t g r : Nat) (f : Split → Split) : (updSplit s t g r f).arg = s.arg := rfl
@[simp] theorem updSplit_agenda (s : State) (t g r : Nat) (f : Split → Split) : (updSplit s t g r f).agenda = s.agenda := rfl
@[simp] theorem updSplit_clock (s : State) (t g r : Nat) (f : Split → Split) : (updSplit s t g r f).clock = s.clock := rfl
@[simp] theorem updSplit_fresh (s : State) (t g r : Nat) (f : Split → Split) : (updSplit s t g r f).fresh = s.fresh := rfl
@[simp] theorem updSplit_nextId (s : State) (t g r : Nat) (f : Split → Split) : (updSplit s t g r f).nextId = s.nextId := rfl
@[simp] theorem updSplit_fx (s : State) (t g r : Nat) (f : Split → Split) : (updSplit s t g r f).fx = s.fx := rfl
@[simp] theorem updSplit_devFail (s : State) (t g r : Nat) (f : Split → Split) : (updSplit s t g r f).devFail = s.devFail := rfl

/-! ## updLaunch -/

@[simp] theorem updLaunch_dev (s : State) (n : Nat) (f : Launch → Launch) : (updLaunch s n f).dev = s.dev := rfl
@[simp] theorem updLaunch_mem (s : State) (n : Nat) (f : Launch → Launch) : (updLaunch s n f).mem = s.mem := rfl
@[simp] theorem updLaunch_ctxs (s : State) (n : Nat) (f : Launch → Launch) : (updLaunch s n f).ctxs = s.ctxs := rfl
@[simp] theorem updLaunch_rings (s : State) (n : Nat) (f : Launch → Launch) : (updLaunch s n f).rings = s.rings := rfl
@[simp] theorem updLaunch_launches (s : State) (n : Nat) (f : Launch → Launch) :
    (updLaunch s n f).launches = updBy (fun l => l.id = n) f s.launches := rfl
@[simp] theorem updLaunch_contracts (s : State) (n : Nat) (f : Launch → Launch) : (updLaunch s n f).contracts = s.contracts := rfl
@[simp] theorem updLaunch_comms (s : State) (n : Nat) (f : Launch → Launch) : (updLaunch s n f).comms = s.comms := rfl
@[simp] theorem updLaunch_colls (s : State) (n : Nat) (f : Launch → Launch) : (updLaunch s n f).colls = s.colls := rfl
@[simp] theorem updLaunch_images (s : State) (n : Nat) (f : Launch → Launch) : (updLaunch s n f).images = s.images := rfl
@[simp] theorem updLaunch_shadows (s : State) (n : Nat) (f : Launch → Launch) : (updLaunch s n f).shadows = s.shadows := rfl
@[simp] theorem updLaunch_teams (s : State) (n : Nat) (f : Launch → Launch) : (updLaunch s n f).teams = s.teams := rfl
@[simp] theorem updLaunch_groups (s : State) (n : Nat) (f : Launch → Launch) : (updLaunch s n f).groups = s.groups := rfl
@[simp] theorem updLaunch_splits (s : State) (n : Nat) (f : Launch → Launch) : (updLaunch s n f).splits = s.splits := rfl
@[simp] theorem updLaunch_cur (s : State) (n : Nat) (f : Launch → Launch) : (updLaunch s n f).cur = s.cur := rfl
@[simp] theorem updLaunch_arg (s : State) (n : Nat) (f : Launch → Launch) : (updLaunch s n f).arg = s.arg := rfl
@[simp] theorem updLaunch_agenda (s : State) (n : Nat) (f : Launch → Launch) : (updLaunch s n f).agenda = s.agenda := rfl
@[simp] theorem updLaunch_clock (s : State) (n : Nat) (f : Launch → Launch) : (updLaunch s n f).clock = s.clock := rfl
@[simp] theorem updLaunch_fresh (s : State) (n : Nat) (f : Launch → Launch) : (updLaunch s n f).fresh = s.fresh := rfl
@[simp] theorem updLaunch_nextId (s : State) (n : Nat) (f : Launch → Launch) : (updLaunch s n f).nextId = s.nextId := rfl
@[simp] theorem updLaunch_fx (s : State) (n : Nat) (f : Launch → Launch) : (updLaunch s n f).fx = s.fx := rfl
@[simp] theorem updLaunch_devFail (s : State) (n : Nat) (f : Launch → Launch) : (updLaunch s n f).devFail = s.devFail := rfl

/-! ## updCtx -/

@[simp] theorem updCtx_dev (s : State) (n : Nat) (f : Ctx → Ctx) : (updCtx s n f).dev = s.dev := rfl
@[simp] theorem updCtx_mem (s : State) (n : Nat) (f : Ctx → Ctx) : (updCtx s n f).mem = s.mem := rfl
@[simp] theorem updCtx_ctxs (s : State) (n : Nat) (f : Ctx → Ctx) :
    (updCtx s n f).ctxs = updBy (fun c => c.num = n) f s.ctxs := rfl
@[simp] theorem updCtx_rings (s : State) (n : Nat) (f : Ctx → Ctx) : (updCtx s n f).rings = s.rings := rfl
@[simp] theorem updCtx_launches (s : State) (n : Nat) (f : Ctx → Ctx) : (updCtx s n f).launches = s.launches := rfl
@[simp] theorem updCtx_contracts (s : State) (n : Nat) (f : Ctx → Ctx) : (updCtx s n f).contracts = s.contracts := rfl
@[simp] theorem updCtx_comms (s : State) (n : Nat) (f : Ctx → Ctx) : (updCtx s n f).comms = s.comms := rfl
@[simp] theorem updCtx_colls (s : State) (n : Nat) (f : Ctx → Ctx) : (updCtx s n f).colls = s.colls := rfl
@[simp] theorem updCtx_images (s : State) (n : Nat) (f : Ctx → Ctx) : (updCtx s n f).images = s.images := rfl
@[simp] theorem updCtx_shadows (s : State) (n : Nat) (f : Ctx → Ctx) : (updCtx s n f).shadows = s.shadows := rfl
@[simp] theorem updCtx_teams (s : State) (n : Nat) (f : Ctx → Ctx) : (updCtx s n f).teams = s.teams := rfl
@[simp] theorem updCtx_groups (s : State) (n : Nat) (f : Ctx → Ctx) : (updCtx s n f).groups = s.groups := rfl
@[simp] theorem updCtx_splits (s : State) (n : Nat) (f : Ctx → Ctx) : (updCtx s n f).splits = s.splits := rfl
@[simp] theorem updCtx_cur (s : State) (n : Nat) (f : Ctx → Ctx) : (updCtx s n f).cur = s.cur := rfl
@[simp] theorem updCtx_arg (s : State) (n : Nat) (f : Ctx → Ctx) : (updCtx s n f).arg = s.arg := rfl
@[simp] theorem updCtx_agenda (s : State) (n : Nat) (f : Ctx → Ctx) : (updCtx s n f).agenda = s.agenda := rfl
@[simp] theorem updCtx_clock (s : State) (n : Nat) (f : Ctx → Ctx) : (updCtx s n f).clock = s.clock := rfl
@[simp] theorem updCtx_fresh (s : State) (n : Nat) (f : Ctx → Ctx) : (updCtx s n f).fresh = s.fresh := rfl
@[simp] theorem updCtx_nextId (s : State) (n : Nat) (f : Ctx → Ctx) : (updCtx s n f).nextId = s.nextId := rfl
@[simp] theorem updCtx_fx (s : State) (n : Nat) (f : Ctx → Ctx) : (updCtx s n f).fx = s.fx := rfl
@[simp] theorem updCtx_devFail (s : State) (n : Nat) (f : Ctx → Ctx) : (updCtx s n f).devFail = s.devFail := rfl

/-! ## updRing -/

@[simp] theorem updRing_dev (s : State) (n : Nat) (f : Ring → Ring) : (updRing s n f).dev = s.dev := rfl
@[simp] theorem updRing_mem (s : State) (n : Nat) (f : Ring → Ring) : (updRing s n f).mem = s.mem := rfl
@[simp] theorem updRing_ctxs (s : State) (n : Nat) (f : Ring → Ring) : (updRing s n f).ctxs = s.ctxs := rfl
@[simp] theorem updRing_rings (s : State) (n : Nat) (f : Ring → Ring) :
    (updRing s n f).rings = updBy (fun q => q.idx = n) f s.rings := rfl
@[simp] theorem updRing_launches (s : State) (n : Nat) (f : Ring → Ring) : (updRing s n f).launches = s.launches := rfl
@[simp] theorem updRing_contracts (s : State) (n : Nat) (f : Ring → Ring) : (updRing s n f).contracts = s.contracts := rfl
@[simp] theorem updRing_comms (s : State) (n : Nat) (f : Ring → Ring) : (updRing s n f).comms = s.comms := rfl
@[simp] theorem updRing_colls (s : State) (n : Nat) (f : Ring → Ring) : (updRing s n f).colls = s.colls := rfl
@[simp] theorem updRing_images (s : State) (n : Nat) (f : Ring → Ring) : (updRing s n f).images = s.images := rfl
@[simp] theorem updRing_shadows (s : State) (n : Nat) (f : Ring → Ring) : (updRing s n f).shadows = s.shadows := rfl
@[simp] theorem updRing_teams (s : State) (n : Nat) (f : Ring → Ring) : (updRing s n f).teams = s.teams := rfl
@[simp] theorem updRing_groups (s : State) (n : Nat) (f : Ring → Ring) : (updRing s n f).groups = s.groups := rfl
@[simp] theorem updRing_splits (s : State) (n : Nat) (f : Ring → Ring) : (updRing s n f).splits = s.splits := rfl
@[simp] theorem updRing_cur (s : State) (n : Nat) (f : Ring → Ring) : (updRing s n f).cur = s.cur := rfl
@[simp] theorem updRing_arg (s : State) (n : Nat) (f : Ring → Ring) : (updRing s n f).arg = s.arg := rfl
@[simp] theorem updRing_agenda (s : State) (n : Nat) (f : Ring → Ring) : (updRing s n f).agenda = s.agenda := rfl
@[simp] theorem updRing_clock (s : State) (n : Nat) (f : Ring → Ring) : (updRing s n f).clock = s.clock := rfl
@[simp] theorem updRing_fresh (s : State) (n : Nat) (f : Ring → Ring) : (updRing s n f).fresh = s.fresh := rfl
@[simp] theorem updRing_nextId (s : State) (n : Nat) (f : Ring → Ring) : (updRing s n f).nextId = s.nextId := rfl
@[simp] theorem updRing_fx (s : State) (n : Nat) (f : Ring → Ring) : (updRing s n f).fx = s.fx := rfl
@[simp] theorem updRing_devFail (s : State) (n : Nat) (f : Ring → Ring) : (updRing s n f).devFail = s.devFail := rfl

/-! ## updComm -/

@[simp] theorem updComm_dev (s : State) (n : Nat) (f : Comm → Comm) : (updComm s n f).dev = s.dev := rfl
@[simp] theorem updComm_mem (s : State) (n : Nat) (f : Comm → Comm) : (updComm s n f).mem = s.mem := rfl
@[simp] theorem updComm_ctxs (s : State) (n : Nat) (f : Comm → Comm) : (updComm s n f).ctxs = s.ctxs := rfl
@[simp] theorem updComm_rings (s : State) (n : Nat) (f : Comm → Comm) : (updComm s n f).rings = s.rings := rfl
@[simp] theorem updComm_launches (s : State) (n : Nat) (f : Comm → Comm) : (updComm s n f).launches = s.launches := rfl
@[simp] theorem updComm_contracts (s : State) (n : Nat) (f : Comm → Comm) : (updComm s n f).contracts = s.contracts := rfl
@[simp] theorem updComm_comms (s : State) (n : Nat) (f : Comm → Comm) :
    (updComm s n f).comms = updBy (fun c => c.handle = n) f s.comms := rfl
@[simp] theorem updComm_colls (s : State) (n : Nat) (f : Comm → Comm) : (updComm s n f).colls = s.colls := rfl
@[simp] theorem updComm_images (s : State) (n : Nat) (f : Comm → Comm) : (updComm s n f).images = s.images := rfl
@[simp] theorem updComm_shadows (s : State) (n : Nat) (f : Comm → Comm) : (updComm s n f).shadows = s.shadows := rfl
@[simp] theorem updComm_teams (s : State) (n : Nat) (f : Comm → Comm) : (updComm s n f).teams = s.teams := rfl
@[simp] theorem updComm_groups (s : State) (n : Nat) (f : Comm → Comm) : (updComm s n f).groups = s.groups := rfl
@[simp] theorem updComm_splits (s : State) (n : Nat) (f : Comm → Comm) : (updComm s n f).splits = s.splits := rfl
@[simp] theorem updComm_cur (s : State) (n : Nat) (f : Comm → Comm) : (updComm s n f).cur = s.cur := rfl
@[simp] theorem updComm_arg (s : State) (n : Nat) (f : Comm → Comm) : (updComm s n f).arg = s.arg := rfl
@[simp] theorem updComm_agenda (s : State) (n : Nat) (f : Comm → Comm) : (updComm s n f).agenda = s.agenda := rfl
@[simp] theorem updComm_clock (s : State) (n : Nat) (f : Comm → Comm) : (updComm s n f).clock = s.clock := rfl
@[simp] theorem updComm_fresh (s : State) (n : Nat) (f : Comm → Comm) : (updComm s n f).fresh = s.fresh := rfl
@[simp] theorem updComm_nextId (s : State) (n : Nat) (f : Comm → Comm) : (updComm s n f).nextId = s.nextId := rfl
@[simp] theorem updComm_fx (s : State) (n : Nat) (f : Comm → Comm) : (updComm s n f).fx = s.fx := rfl
@[simp] theorem updComm_devFail (s : State) (n : Nat) (f : Comm → Comm) : (updComm s n f).devFail = s.devFail := rfl

/-! ## updColl -/

@[simp] theorem updColl_dev (s : State) (n : Nat) (f : Coll → Coll) : (updColl s n f).dev = s.dev := rfl
@[simp] theorem updColl_mem (s : State) (n : Nat) (f : Coll → Coll) : (updColl s n f).mem = s.mem := rfl
@[simp] theorem updColl_ctxs (s : State) (n : Nat) (f : Coll → Coll) : (updColl s n f).ctxs = s.ctxs := rfl
@[simp] theorem updColl_rings (s : State) (n : Nat) (f : Coll → Coll) : (updColl s n f).rings = s.rings := rfl
@[simp] theorem updColl_launches (s : State) (n : Nat) (f : Coll → Coll) : (updColl s n f).launches = s.launches := rfl
@[simp] theorem updColl_contracts (s : State) (n : Nat) (f : Coll → Coll) : (updColl s n f).contracts = s.contracts := rfl
@[simp] theorem updColl_comms (s : State) (n : Nat) (f : Coll → Coll) : (updColl s n f).comms = s.comms := rfl
@[simp] theorem updColl_colls (s : State) (n : Nat) (f : Coll → Coll) :
    (updColl s n f).colls = updBy (fun q => q.id = n) f s.colls := rfl
@[simp] theorem updColl_images (s : State) (n : Nat) (f : Coll → Coll) : (updColl s n f).images = s.images := rfl
@[simp] theorem updColl_shadows (s : State) (n : Nat) (f : Coll → Coll) : (updColl s n f).shadows = s.shadows := rfl
@[simp] theorem updColl_teams (s : State) (n : Nat) (f : Coll → Coll) : (updColl s n f).teams = s.teams := rfl
@[simp] theorem updColl_groups (s : State) (n : Nat) (f : Coll → Coll) : (updColl s n f).groups = s.groups := rfl
@[simp] theorem updColl_splits (s : State) (n : Nat) (f : Coll → Coll) : (updColl s n f).splits = s.splits := rfl
@[simp] theorem updColl_cur (s : State) (n : Nat) (f : Coll → Coll) : (updColl s n f).cur = s.cur := rfl
@[simp] theorem updColl_arg (s : State) (n : Nat) (f : Coll → Coll) : (updColl s n f).arg = s.arg := rfl
@[simp] theorem updColl_agenda (s : State) (n : Nat) (f : Coll → Coll) : (updColl s n f).agenda = s.agenda := rfl
@[simp] theorem updColl_clock (s : State) (n : Nat) (f : Coll → Coll) : (updColl s n f).clock = s.clock := rfl
@[simp] theorem updColl_fresh (s : State) (n : Nat) (f : Coll → Coll) : (updColl s n f).fresh = s.fresh := rfl
@[simp] theorem updColl_nextId (s : State) (n : Nat) (f : Coll → Coll) : (updColl s n f).nextId = s.nextId := rfl
@[simp] theorem updColl_fx (s : State) (n : Nat) (f : Coll → Coll) : (updColl s n f).fx = s.fx := rfl
@[simp] theorem updColl_devFail (s : State) (n : Nat) (f : Coll → Coll) : (updColl s n f).devFail = s.devFail := rfl

/-! ## updContract -/

@[simp] theorem updContract_dev (s : State) (n : Nat) (f : Contract → Contract) : (updContract s n f).dev = s.dev := rfl
@[simp] theorem updContract_mem (s : State) (n : Nat) (f : Contract → Contract) : (updContract s n f).mem = s.mem := rfl
@[simp] theorem updContract_ctxs (s : State) (n : Nat) (f : Contract → Contract) : (updContract s n f).ctxs = s.ctxs := rfl
@[simp] theorem updContract_rings (s : State) (n : Nat) (f : Contract → Contract) : (updContract s n f).rings = s.rings := rfl
@[simp] theorem updContract_launches (s : State) (n : Nat) (f : Contract → Contract) : (updContract s n f).launches = s.launches := rfl
@[simp] theorem updContract_contracts (s : State) (n : Nat) (f : Contract → Contract) :
    (updContract s n f).contracts = updBy (fun c => c.num = n) f s.contracts := rfl
@[simp] theorem updContract_comms (s : State) (n : Nat) (f : Contract → Contract) : (updContract s n f).comms = s.comms := rfl
@[simp] theorem updContract_colls (s : State) (n : Nat) (f : Contract → Contract) : (updContract s n f).colls = s.colls := rfl
@[simp] theorem updContract_images (s : State) (n : Nat) (f : Contract → Contract) : (updContract s n f).images = s.images := rfl
@[simp] theorem updContract_shadows (s : State) (n : Nat) (f : Contract → Contract) : (updContract s n f).shadows = s.shadows := rfl
@[simp] theorem updContract_teams (s : State) (n : Nat) (f : Contract → Contract) : (updContract s n f).teams = s.teams := rfl
@[simp] theorem updContract_groups (s : State) (n : Nat) (f : Contract → Contract) : (updContract s n f).groups = s.groups := rfl
@[simp] theorem updContract_splits (s : State) (n : Nat) (f : Contract → Contract) : (updContract s n f).splits = s.splits := rfl
@[simp] theorem updContract_cur (s : State) (n : Nat) (f : Contract → Contract) : (updContract s n f).cur = s.cur := rfl
@[simp] theorem updContract_arg (s : State) (n : Nat) (f : Contract → Contract) : (updContract s n f).arg = s.arg := rfl
@[simp] theorem updContract_agenda (s : State) (n : Nat) (f : Contract → Contract) : (updContract s n f).agenda = s.agenda := rfl
@[simp] theorem updContract_clock (s : State) (n : Nat) (f : Contract → Contract) : (updContract s n f).clock = s.clock := rfl
@[simp] theorem updContract_fresh (s : State) (n : Nat) (f : Contract → Contract) : (updContract s n f).fresh = s.fresh := rfl
@[simp] theorem updContract_nextId (s : State) (n : Nat) (f : Contract → Contract) : (updContract s n f).nextId = s.nextId := rfl
@[simp] theorem updContract_fx (s : State) (n : Nat) (f : Contract → Contract) : (updContract s n f).fx = s.fx := rfl
@[simp] theorem updContract_devFail (s : State) (n : Nat) (f : Contract → Contract) : (updContract s n f).devFail = s.devFail := rfl

/-! ## updMem -/

@[simp] theorem updMem_dev (s : State) (f : Mem → Mem) : (updMem s f).dev = s.dev := rfl
@[simp] theorem updMem_mem (s : State) (f : Mem → Mem) :
    (updMem s f).mem = f s.mem := rfl
@[simp] theorem updMem_ctxs (s : State) (f : Mem → Mem) : (updMem s f).ctxs = s.ctxs := rfl
@[simp] theorem updMem_rings (s : State) (f : Mem → Mem) : (updMem s f).rings = s.rings := rfl
@[simp] theorem updMem_launches (s : State) (f : Mem → Mem) : (updMem s f).launches = s.launches := rfl
@[simp] theorem updMem_contracts (s : State) (f : Mem → Mem) : (updMem s f).contracts = s.contracts := rfl
@[simp] theorem updMem_comms (s : State) (f : Mem → Mem) : (updMem s f).comms = s.comms := rfl
@[simp] theorem updMem_colls (s : State) (f : Mem → Mem) : (updMem s f).colls = s.colls := rfl
@[simp] theorem updMem_images (s : State) (f : Mem → Mem) : (updMem s f).images = s.images := rfl
@[simp] theorem updMem_shadows (s : State) (f : Mem → Mem) : (updMem s f).shadows = s.shadows := rfl
@[simp] theorem updMem_teams (s : State) (f : Mem → Mem) : (updMem s f).teams = s.teams := rfl
@[simp] theorem updMem_groups (s : State) (f : Mem → Mem) : (updMem s f).groups = s.groups := rfl
@[simp] theorem updMem_splits (s : State) (f : Mem → Mem) : (updMem s f).splits = s.splits := rfl
@[simp] theorem updMem_cur (s : State) (f : Mem → Mem) : (updMem s f).cur = s.cur := rfl
@[simp] theorem updMem_arg (s : State) (f : Mem → Mem) : (updMem s f).arg = s.arg := rfl
@[simp] theorem updMem_agenda (s : State) (f : Mem → Mem) : (updMem s f).agenda = s.agenda := rfl
@[simp] theorem updMem_clock (s : State) (f : Mem → Mem) : (updMem s f).clock = s.clock := rfl
@[simp] theorem updMem_fresh (s : State) (f : Mem → Mem) : (updMem s f).fresh = s.fresh := rfl
@[simp] theorem updMem_nextId (s : State) (f : Mem → Mem) : (updMem s f).nextId = s.nextId := rfl
@[simp] theorem updMem_fx (s : State) (f : Mem → Mem) : (updMem s f).fx = s.fx := rfl
@[simp] theorem updMem_devFail (s : State) (f : Mem → Mem) : (updMem s f).devFail = s.devFail := rfl

/-! ## updDev -/

@[simp] theorem updDev_dev (s : State) (f : Dev → Dev) :
    (updDev s f).dev = f s.dev := rfl
@[simp] theorem updDev_mem (s : State) (f : Dev → Dev) : (updDev s f).mem = s.mem := rfl
@[simp] theorem updDev_ctxs (s : State) (f : Dev → Dev) : (updDev s f).ctxs = s.ctxs := rfl
@[simp] theorem updDev_rings (s : State) (f : Dev → Dev) : (updDev s f).rings = s.rings := rfl
@[simp] theorem updDev_launches (s : State) (f : Dev → Dev) : (updDev s f).launches = s.launches := rfl
@[simp] theorem updDev_contracts (s : State) (f : Dev → Dev) : (updDev s f).contracts = s.contracts := rfl
@[simp] theorem updDev_comms (s : State) (f : Dev → Dev) : (updDev s f).comms = s.comms := rfl
@[simp] theorem updDev_colls (s : State) (f : Dev → Dev) : (updDev s f).colls = s.colls := rfl
@[simp] theorem updDev_images (s : State) (f : Dev → Dev) : (updDev s f).images = s.images := rfl
@[simp] theorem updDev_shadows (s : State) (f : Dev → Dev) : (updDev s f).shadows = s.shadows := rfl
@[simp] theorem updDev_teams (s : State) (f : Dev → Dev) : (updDev s f).teams = s.teams := rfl
@[simp] theorem updDev_groups (s : State) (f : Dev → Dev) : (updDev s f).groups = s.groups := rfl
@[simp] theorem updDev_splits (s : State) (f : Dev → Dev) : (updDev s f).splits = s.splits := rfl
@[simp] theorem updDev_cur (s : State) (f : Dev → Dev) : (updDev s f).cur = s.cur := rfl
@[simp] theorem updDev_arg (s : State) (f : Dev → Dev) : (updDev s f).arg = s.arg := rfl
@[simp] theorem updDev_agenda (s : State) (f : Dev → Dev) : (updDev s f).agenda = s.agenda := rfl
@[simp] theorem updDev_clock (s : State) (f : Dev → Dev) : (updDev s f).clock = s.clock := rfl
@[simp] theorem updDev_fresh (s : State) (f : Dev → Dev) : (updDev s f).fresh = s.fresh := rfl
@[simp] theorem updDev_nextId (s : State) (f : Dev → Dev) : (updDev s f).nextId = s.nextId := rfl
@[simp] theorem updDev_fx (s : State) (f : Dev → Dev) : (updDev s f).fx = s.fx := rfl
@[simp] theorem updDev_devFail (s : State) (f : Dev → Dev) : (updDev s f).devFail = s.devFail := rfl

/-! ## sendMsg -/

@[simp] theorem sendMsg_dev (s : State) (m : Msg) :
    (sendMsg s m).dev = { s.dev with outbox := s.dev.outbox ++ [m] } := rfl
@[simp] theorem sendMsg_mem (s : State) (m : Msg) : (sendMsg s m).mem = s.mem := rfl
@[simp] theorem sendMsg_ctxs (s : State) (m : Msg) : (sendMsg s m).ctxs = s.ctxs := rfl
@[simp] theorem sendMsg_rings (s : State) (m : Msg) : (sendMsg s m).rings = s.rings := rfl
@[simp] theorem sendMsg_launches (s : State) (m : Msg) : (sendMsg s m).launches = s.launches := rfl
@[simp] theorem sendMsg_contracts (s : State) (m : Msg) : (sendMsg s m).contracts = s.contracts := rfl
@[simp] theorem sendMsg_comms (s : State) (m : Msg) : (sendMsg s m).comms = s.comms := rfl
@[simp] theorem sendMsg_colls (s : State) (m : Msg) : (sendMsg s m).colls = s.colls := rfl
@[simp] theorem sendMsg_images (s : State) (m : Msg) : (sendMsg s m).images = s.images := rfl
@[simp] theorem sendMsg_shadows (s : State) (m : Msg) : (sendMsg s m).shadows = s.shadows := rfl
@[simp] theorem sendMsg_teams (s : State) (m : Msg) : (sendMsg s m).teams = s.teams := rfl
@[simp] theorem sendMsg_groups (s : State) (m : Msg) : (sendMsg s m).groups = s.groups := rfl
@[simp] theorem sendMsg_splits (s : State) (m : Msg) : (sendMsg s m).splits = s.splits := rfl
@[simp] theorem sendMsg_cur (s : State) (m : Msg) : (sendMsg s m).cur = s.cur := rfl
@[simp] theorem sendMsg_arg (s : State) (m : Msg) : (sendMsg s m).arg = s.arg := rfl
@[simp] theorem sendMsg_agenda (s : State) (m : Msg) : (sendMsg s m).agenda = s.agenda := rfl
@[simp] theorem sendMsg_clock (s : State) (m : Msg) : (sendMsg s m).clock = s.clock := rfl
@[simp] theorem sendMsg_fresh (s : State) (m : Msg) : (sendMsg s m).fresh = s.fresh := rfl
@[simp] theorem sendMsg_nextId (s : State) (m : Msg) : (sendMsg s m).nextId = s.nextId := rfl
@[simp] theorem sendMsg_fx (s : State) (m : Msg) : (sendMsg s m).fx = s.fx := rfl
@[simp] theorem sendMsg_devFail (s : State) (m : Msg) : (sendMsg s m).devFail = s.devFail := rfl

/-! ## setGroup -/

@[simp] theorem setGroup_dev (s : State) (e : Ex) (f : Group → Group) : (setGroup s e f).dev = s.dev := rfl
@[simp] theorem setGroup_mem (s : State) (e : Ex) (f : Group → Group) : (setGroup s e f).mem = s.mem := rfl
@[simp] theorem setGroup_ctxs (s : State) (e : Ex) (f : Group → Group) : (setGroup s e f).ctxs = s.ctxs := rfl
@[simp] theorem setGroup_rings (s : State) (e : Ex) (f : Group → Group) : (setGroup s e f).rings = s.rings := rfl
@[simp] theorem setGroup_launches (s : State) (e : Ex) (f : Group → Group) : (setGroup s e f).launches = s.launches := rfl
@[simp] theorem setGroup_contracts (s : State) (e : Ex) (f : Group → Group) : (setGroup s e f).contracts = s.contracts := rfl
@[simp] theorem setGroup_comms (s : State) (e : Ex) (f : Group → Group) : (setGroup s e f).comms = s.comms := rfl
@[simp] theorem setGroup_colls (s : State) (e : Ex) (f : Group → Group) : (setGroup s e f).colls = s.colls := rfl
@[simp] theorem setGroup_images (s : State) (e : Ex) (f : Group → Group) : (setGroup s e f).images = s.images := rfl
@[simp] theorem setGroup_shadows (s : State) (e : Ex) (f : Group → Group) : (setGroup s e f).shadows = s.shadows := rfl
@[simp] theorem setGroup_teams (s : State) (e : Ex) (f : Group → Group) : (setGroup s e f).teams = s.teams := rfl
@[simp] theorem setGroup_groups (s : State) (e : Ex) (f : Group → Group) :
    (setGroup s e f).groups = updBy (fun u => u.tid = e.x.tid && u.gi = e.x.gi) f s.groups := rfl
@[simp] theorem setGroup_splits (s : State) (e : Ex) (f : Group → Group) : (setGroup s e f).splits = s.splits := rfl
@[simp] theorem setGroup_cur (s : State) (e : Ex) (f : Group → Group) : (setGroup s e f).cur = s.cur := rfl
@[simp] theorem setGroup_arg (s : State) (e : Ex) (f : Group → Group) : (setGroup s e f).arg = s.arg := rfl
@[simp] theorem setGroup_agenda (s : State) (e : Ex) (f : Group → Group) : (setGroup s e f).agenda = s.agenda := rfl
@[simp] theorem setGroup_clock (s : State) (e : Ex) (f : Group → Group) : (setGroup s e f).clock = s.clock := rfl
@[simp] theorem setGroup_fresh (s : State) (e : Ex) (f : Group → Group) : (setGroup s e f).fresh = s.fresh := rfl
@[simp] theorem setGroup_nextId (s : State) (e : Ex) (f : Group → Group) : (setGroup s e f).nextId = s.nextId := rfl
@[simp] theorem setGroup_fx (s : State) (e : Ex) (f : Group → Group) : (setGroup s e f).fx = s.fx := rfl
@[simp] theorem setGroup_devFail (s : State) (e : Ex) (f : Group → Group) : (setGroup s e f).devFail = s.devFail := rfl

/-! ## setSplit -/

@[simp] theorem setSplit_dev (s : State) (e : Ex) (f : Split → Split) : (setSplit s e f).dev = s.dev := rfl
@[simp] theorem setSplit_mem (s : State) (e : Ex) (f : Split → Split) : (setSplit s e f).mem = s.mem := rfl
@[simp] theorem setSplit_ctxs (s : State) (e : Ex) (f : Split → Split) : (setSplit s e f).ctxs = s.ctxs := rfl
@[simp] theorem setSplit_rings (s : State) (e : Ex) (f : Split → Split) : (setSplit s e f).rings = s.rings := rfl
@[simp] theorem setSplit_launches (s : State) (e : Ex) (f : Split → Split) : (setSplit s e f).launches = s.launches := rfl
@[simp] theorem setSplit_contracts (s : State) (e : Ex) (f : Split → Split) : (setSplit s e f).contracts = s.contracts := rfl
@[simp] theorem setSplit_comms (s : State) (e : Ex) (f : Split → Split) : (setSplit s e f).comms = s.comms := rfl
@[simp] theorem setSplit_colls (s : State) (e : Ex) (f : Split → Split) : (setSplit s e f).colls = s.colls := rfl
@[simp] theorem setSplit_images (s : State) (e : Ex) (f : Split → Split) : (setSplit s e f).images = s.images := rfl
@[simp] theorem setSplit_shadows (s : State) (e : Ex) (f : Split → Split) : (setSplit s e f).shadows = s.shadows := rfl
@[simp] theorem setSplit_teams (s : State) (e : Ex) (f : Split → Split) : (setSplit s e f).teams = s.teams := rfl
@[simp] theorem setSplit_groups (s : State) (e : Ex) (f : Split → Split) : (setSplit s e f).groups = s.groups := rfl
@[simp] theorem setSplit_splits (s : State) (e : Ex) (f : Split → Split) :
    (setSplit s e f).splits = updBy (fun u => u.tid = e.x.tid && u.gi = e.x.gi && u.rank = e.x.rank) f s.splits := rfl
@[simp] theorem setSplit_cur (s : State) (e : Ex) (f : Split → Split) : (setSplit s e f).cur = s.cur := rfl
@[simp] theorem setSplit_arg (s : State) (e : Ex) (f : Split → Split) : (setSplit s e f).arg = s.arg := rfl
@[simp] theorem setSplit_agenda (s : State) (e : Ex) (f : Split → Split) : (setSplit s e f).agenda = s.agenda := rfl
@[simp] theorem setSplit_clock (s : State) (e : Ex) (f : Split → Split) : (setSplit s e f).clock = s.clock := rfl
@[simp] theorem setSplit_fresh (s : State) (e : Ex) (f : Split → Split) : (setSplit s e f).fresh = s.fresh := rfl
@[simp] theorem setSplit_nextId (s : State) (e : Ex) (f : Split → Split) : (setSplit s e f).nextId = s.nextId := rfl
@[simp] theorem setSplit_fx (s : State) (e : Ex) (f : Split → Split) : (setSplit s e f).fx = s.fx := rfl
@[simp] theorem setSplit_devFail (s : State) (e : Ex) (f : Split → Split) : (setSplit s e f).devFail = s.devFail := rfl

/-! ## setTeam -/

@[simp] theorem setTeam_dev (s : State) (e : Ex) (f : Team → Team) : (setTeam s e f).dev = s.dev := rfl
@[simp] theorem setTeam_mem (s : State) (e : Ex) (f : Team → Team) : (setTeam s e f).mem = s.mem := rfl
@[simp] theorem setTeam_ctxs (s : State) (e : Ex) (f : Team → Team) : (setTeam s e f).ctxs = s.ctxs := rfl
@[simp] theorem setTeam_rings (s : State) (e : Ex) (f : Team → Team) : (setTeam s e f).rings = s.rings := rfl
@[simp] theorem setTeam_launches (s : State) (e : Ex) (f : Team → Team) : (setTeam s e f).launches = s.launches := rfl
@[simp] theorem setTeam_contracts (s : State) (e : Ex) (f : Team → Team) : (setTeam s e f).contracts = s.contracts := rfl
@[simp] theorem setTeam_comms (s : State) (e : Ex) (f : Team → Team) : (setTeam s e f).comms = s.comms := rfl
@[simp] theorem setTeam_colls (s : State) (e : Ex) (f : Team → Team) : (setTeam s e f).colls = s.colls := rfl
@[simp] theorem setTeam_images (s : State) (e : Ex) (f : Team → Team) : (setTeam s e f).images = s.images := rfl
@[simp] theorem setTeam_shadows (s : State) (e : Ex) (f : Team → Team) : (setTeam s e f).shadows = s.shadows := rfl
@[simp] theorem setTeam_teams (s : State) (e : Ex) (f : Team → Team) :
    (setTeam s e f).teams = updBy (fun u => u.tid = e.x.tid) f s.teams := rfl
@[simp] theorem setTeam_groups (s : State) (e : Ex) (f : Team → Team) : (setTeam s e f).groups = s.groups := rfl
@[simp] theorem setTeam_splits (s : State) (e : Ex) (f : Team → Team) : (setTeam s e f).splits = s.splits := rfl
@[simp] theorem setTeam_cur (s : State) (e : Ex) (f : Team → Team) : (setTeam s e f).cur = s.cur := rfl
@[simp] theorem setTeam_arg (s : State) (e : Ex) (f : Team → Team) : (setTeam s e f).arg = s.arg := rfl
@[simp] theorem setTeam_agenda (s : State) (e : Ex) (f : Team → Team) : (setTeam s e f).agenda = s.agenda := rfl
@[simp] theorem setTeam_clock (s : State) (e : Ex) (f : Team → Team) : (setTeam s e f).clock = s.clock := rfl
@[simp] theorem setTeam_fresh (s : State) (e : Ex) (f : Team → Team) : (setTeam s e f).fresh = s.fresh := rfl
@[simp] theorem setTeam_nextId (s : State) (e : Ex) (f : Team → Team) : (setTeam s e f).nextId = s.nextId := rfl
@[simp] theorem setTeam_fx (s : State) (e : Ex) (f : Team → Team) : (setTeam s e f).fx = s.fx := rfl
@[simp] theorem setTeam_devFail (s : State) (e : Ex) (f : Team → Team) : (setTeam s e f).devFail = s.devFail := rfl

/-! ## tidy -/

@[simp] theorem tidy_dev (s : State) : (tidy s).dev = s.dev := rfl
@[simp] theorem tidy_mem (s : State) : (tidy s).mem = s.mem := rfl
@[simp] theorem tidy_ctxs (s : State) : (tidy s).ctxs = s.ctxs := rfl
@[simp] theorem tidy_rings (s : State) : (tidy s).rings = s.rings := rfl
@[simp] theorem tidy_launches (s : State) : (tidy s).launches = s.launches := rfl
@[simp] theorem tidy_contracts (s : State) : (tidy s).contracts = s.contracts := rfl
@[simp] theorem tidy_comms (s : State) : (tidy s).comms = s.comms := rfl
@[simp] theorem tidy_colls (s : State) : (tidy s).colls = s.colls := rfl
@[simp] theorem tidy_images (s : State) : (tidy s).images = s.images := rfl
@[simp] theorem tidy_shadows (s : State) : (tidy s).shadows = s.shadows := rfl
@[simp] theorem tidy_teams (s : State) : (tidy s).teams = s.teams := rfl
@[simp] theorem tidy_groups (s : State) : (tidy s).groups = s.groups := rfl
@[simp] theorem tidy_splits (s : State) : (tidy s).splits = s.splits := rfl
@[simp] theorem tidy_cur (s : State) : (tidy s).cur = s.cur := rfl
@[simp] theorem tidy_arg (s : State) : (tidy s).arg = s.arg := rfl
@[simp] theorem tidy_agenda (s : State) : (tidy s).agenda = s.agenda := rfl
@[simp] theorem tidy_clock (s : State) : (tidy s).clock = s.clock := rfl
@[simp] theorem tidy_fresh (s : State) : (tidy s).fresh = s.fresh := rfl
@[simp] theorem tidy_nextId (s : State) : (tidy s).nextId = s.nextId := rfl
@[simp] theorem tidy_fx (s : State) :
    (tidy s).fx = [] := rfl
@[simp] theorem tidy_devFail (s : State) :
    (tidy s).devFail = none := rfl

/-! ## record -/

@[simp] theorem record_dev (s : State) (e : Ex) (ws : Status) : (record s e ws).dev = s.dev := rfl
@[simp] theorem record_mem (s : State) (e : Ex) (ws : Status) : (record s e ws).mem = s.mem := rfl
@[simp] theorem record_ctxs (s : State) (e : Ex) (ws : Status) : (record s e ws).ctxs = s.ctxs := rfl
@[simp] theorem record_rings (s : State) (e : Ex) (ws : Status) : (record s e ws).rings = s.rings := rfl
@[simp] theorem record_launches (s : State) (e : Ex) (ws : Status) : (record s e ws).launches = s.launches := rfl
@[simp] theorem record_contracts (s : State) (e : Ex) (ws : Status) : (record s e ws).contracts = s.contracts := rfl
@[simp] theorem record_comms (s : State) (e : Ex) (ws : Status) : (record s e ws).comms = s.comms := rfl
@[simp] theorem record_colls (s : State) (e : Ex) (ws : Status) : (record s e ws).colls = s.colls := rfl
@[simp] theorem record_images (s : State) (e : Ex) (ws : Status) : (record s e ws).images = s.images := rfl
@[simp] theorem record_shadows (s : State) (e : Ex) (ws : Status) : (record s e ws).shadows = s.shadows := rfl
@[simp] theorem record_teams (s : State) (e : Ex) (ws : Status) : (record s e ws).teams = s.teams := rfl
@[simp] theorem record_splits (s : State) (e : Ex) (ws : Status) : (record s e ws).splits = s.splits := rfl
@[simp] theorem record_cur (s : State) (e : Ex) (ws : Status) : (record s e ws).cur = s.cur := rfl
@[simp] theorem record_arg (s : State) (e : Ex) (ws : Status) : (record s e ws).arg = s.arg := rfl
@[simp] theorem record_agenda (s : State) (e : Ex) (ws : Status) : (record s e ws).agenda = s.agenda := rfl
@[simp] theorem record_clock (s : State) (e : Ex) (ws : Status) : (record s e ws).clock = s.clock := rfl
@[simp] theorem record_fresh (s : State) (e : Ex) (ws : Status) : (record s e ws).fresh = s.fresh := rfl
@[simp] theorem record_nextId (s : State) (e : Ex) (ws : Status) : (record s e ws).nextId = s.nextId := rfl
@[simp] theorem record_fx (s : State) (e : Ex) (ws : Status) : (record s e ws).fx = s.fx := rfl
@[simp] theorem record_devFail (s : State) (e : Ex) (ws : Status) : (record s e ws).devFail = s.devFail := rfl

/-! ## putV -/

@[simp] theorem putV_dev (s : State) (e : Ex) (ws : List (Nat × Cell)) : (putV s e ws).dev = s.dev := rfl
@[simp] theorem putV_mem (s : State) (e : Ex) (ws : List (Nat × Cell)) : (putV s e ws).mem = s.mem := rfl
@[simp] theorem putV_ctxs (s : State) (e : Ex) (ws : List (Nat × Cell)) : (putV s e ws).ctxs = s.ctxs := rfl
@[simp] theorem putV_rings (s : State) (e : Ex) (ws : List (Nat × Cell)) : (putV s e ws).rings = s.rings := rfl
@[simp] theorem putV_launches (s : State) (e : Ex) (ws : List (Nat × Cell)) : (putV s e ws).launches = s.launches := rfl
@[simp] theorem putV_contracts (s : State) (e : Ex) (ws : List (Nat × Cell)) : (putV s e ws).contracts = s.contracts := rfl
@[simp] theorem putV_comms (s : State) (e : Ex) (ws : List (Nat × Cell)) : (putV s e ws).comms = s.comms := rfl
@[simp] theorem putV_colls (s : State) (e : Ex) (ws : List (Nat × Cell)) : (putV s e ws).colls = s.colls := rfl
@[simp] theorem putV_images (s : State) (e : Ex) (ws : List (Nat × Cell)) : (putV s e ws).images = s.images := rfl
@[simp] theorem putV_shadows (s : State) (e : Ex) (ws : List (Nat × Cell)) : (putV s e ws).shadows = s.shadows := rfl
@[simp] theorem putV_teams (s : State) (e : Ex) (ws : List (Nat × Cell)) : (putV s e ws).teams = s.teams := rfl
@[simp] theorem putV_splits (s : State) (e : Ex) (ws : List (Nat × Cell)) : (putV s e ws).splits = s.splits := rfl
@[simp] theorem putV_cur (s : State) (e : Ex) (ws : List (Nat × Cell)) : (putV s e ws).cur = s.cur := rfl
@[simp] theorem putV_arg (s : State) (e : Ex) (ws : List (Nat × Cell)) : (putV s e ws).arg = s.arg := rfl
@[simp] theorem putV_agenda (s : State) (e : Ex) (ws : List (Nat × Cell)) : (putV s e ws).agenda = s.agenda := rfl
@[simp] theorem putV_clock (s : State) (e : Ex) (ws : List (Nat × Cell)) : (putV s e ws).clock = s.clock := rfl
@[simp] theorem putV_fresh (s : State) (e : Ex) (ws : List (Nat × Cell)) : (putV s e ws).fresh = s.fresh := rfl
@[simp] theorem putV_nextId (s : State) (e : Ex) (ws : List (Nat × Cell)) : (putV s e ws).nextId = s.nextId := rfl
@[simp] theorem putV_devFail (s : State) (e : Ex) (ws : List (Nat × Cell)) : (putV s e ws).devFail = s.devFail := rfl

/-! ## putS -/

@[simp] theorem putS_dev (s : State) (e : Ex) (ws : List (Nat × Cell)) : (putS s e ws).dev = s.dev := rfl
@[simp] theorem putS_mem (s : State) (e : Ex) (ws : List (Nat × Cell)) : (putS s e ws).mem = s.mem := rfl
@[simp] theorem putS_ctxs (s : State) (e : Ex) (ws : List (Nat × Cell)) : (putS s e ws).ctxs = s.ctxs := rfl
@[simp] theorem putS_rings (s : State) (e : Ex) (ws : List (Nat × Cell)) : (putS s e ws).rings = s.rings := rfl
@[simp] theorem putS_launches (s : State) (e : Ex) (ws : List (Nat × Cell)) : (putS s e ws).launches = s.launches := rfl
@[simp] theorem putS_contracts (s : State) (e : Ex) (ws : List (Nat × Cell)) : (putS s e ws).contracts = s.contracts := rfl
@[simp] theorem putS_comms (s : State) (e : Ex) (ws : List (Nat × Cell)) : (putS s e ws).comms = s.comms := rfl
@[simp] theorem putS_colls (s : State) (e : Ex) (ws : List (Nat × Cell)) : (putS s e ws).colls = s.colls := rfl
@[simp] theorem putS_images (s : State) (e : Ex) (ws : List (Nat × Cell)) : (putS s e ws).images = s.images := rfl
@[simp] theorem putS_shadows (s : State) (e : Ex) (ws : List (Nat × Cell)) : (putS s e ws).shadows = s.shadows := rfl
@[simp] theorem putS_teams (s : State) (e : Ex) (ws : List (Nat × Cell)) : (putS s e ws).teams = s.teams := rfl
@[simp] theorem putS_splits (s : State) (e : Ex) (ws : List (Nat × Cell)) : (putS s e ws).splits = s.splits := rfl
@[simp] theorem putS_cur (s : State) (e : Ex) (ws : List (Nat × Cell)) : (putS s e ws).cur = s.cur := rfl
@[simp] theorem putS_arg (s : State) (e : Ex) (ws : List (Nat × Cell)) : (putS s e ws).arg = s.arg := rfl
@[simp] theorem putS_agenda (s : State) (e : Ex) (ws : List (Nat × Cell)) : (putS s e ws).agenda = s.agenda := rfl
@[simp] theorem putS_clock (s : State) (e : Ex) (ws : List (Nat × Cell)) : (putS s e ws).clock = s.clock := rfl
@[simp] theorem putS_fresh (s : State) (e : Ex) (ws : List (Nat × Cell)) : (putS s e ws).fresh = s.fresh := rfl
@[simp] theorem putS_nextId (s : State) (e : Ex) (ws : List (Nat × Cell)) : (putS s e ws).nextId = s.nextId := rfl
@[simp] theorem putS_devFail (s : State) (e : Ex) (ws : List (Nat × Cell)) : (putS s e ws).devFail = s.devFail := rfl

/-! ## complete -/

@[simp] theorem complete_dev (s : State) (e : Ex) (pc : DWord) : (complete s e pc).dev = s.dev := rfl
@[simp] theorem complete_mem (s : State) (e : Ex) (pc : DWord) : (complete s e pc).mem = s.mem := rfl
@[simp] theorem complete_ctxs (s : State) (e : Ex) (pc : DWord) : (complete s e pc).ctxs = s.ctxs := rfl
@[simp] theorem complete_rings (s : State) (e : Ex) (pc : DWord) : (complete s e pc).rings = s.rings := rfl
@[simp] theorem complete_launches (s : State) (e : Ex) (pc : DWord) : (complete s e pc).launches = s.launches := rfl
@[simp] theorem complete_contracts (s : State) (e : Ex) (pc : DWord) : (complete s e pc).contracts = s.contracts := rfl
@[simp] theorem complete_comms (s : State) (e : Ex) (pc : DWord) : (complete s e pc).comms = s.comms := rfl
@[simp] theorem complete_colls (s : State) (e : Ex) (pc : DWord) : (complete s e pc).colls = s.colls := rfl
@[simp] theorem complete_images (s : State) (e : Ex) (pc : DWord) : (complete s e pc).images = s.images := rfl
@[simp] theorem complete_shadows (s : State) (e : Ex) (pc : DWord) : (complete s e pc).shadows = s.shadows := rfl
@[simp] theorem complete_groups (s : State) (e : Ex) (pc : DWord) : (complete s e pc).groups = s.groups := rfl
@[simp] theorem complete_cur (s : State) (e : Ex) (pc : DWord) : (complete s e pc).cur = s.cur := rfl
@[simp] theorem complete_arg (s : State) (e : Ex) (pc : DWord) : (complete s e pc).arg = s.arg := rfl
@[simp] theorem complete_agenda (s : State) (e : Ex) (pc : DWord) : (complete s e pc).agenda = s.agenda := rfl
@[simp] theorem complete_clock (s : State) (e : Ex) (pc : DWord) : (complete s e pc).clock = s.clock := rfl
@[simp] theorem complete_fresh (s : State) (e : Ex) (pc : DWord) : (complete s e pc).fresh = s.fresh := rfl
@[simp] theorem complete_nextId (s : State) (e : Ex) (pc : DWord) : (complete s e pc).nextId = s.nextId := rfl
@[simp] theorem complete_fx (s : State) (e : Ex) (pc : DWord) : (complete s e pc).fx = s.fx := rfl
@[simp] theorem complete_devFail (s : State) (e : Ex) (pc : DWord) : (complete s e pc).devFail = s.devFail := rfl

/-! ## raiseCtx -/

@[simp] theorem raiseCtx_dev (s : State) (n : Nat) (f : CtxFault) : (raiseCtx s n f).dev = s.dev := rfl
@[simp] theorem raiseCtx_mem (s : State) (n : Nat) (f : CtxFault) : (raiseCtx s n f).mem = s.mem := rfl
@[simp] theorem raiseCtx_rings (s : State) (n : Nat) (f : CtxFault) : (raiseCtx s n f).rings = s.rings := rfl
@[simp] theorem raiseCtx_launches (s : State) (n : Nat) (f : CtxFault) : (raiseCtx s n f).launches = s.launches := rfl
@[simp] theorem raiseCtx_contracts (s : State) (n : Nat) (f : CtxFault) : (raiseCtx s n f).contracts = s.contracts := rfl
@[simp] theorem raiseCtx_comms (s : State) (n : Nat) (f : CtxFault) : (raiseCtx s n f).comms = s.comms := rfl
@[simp] theorem raiseCtx_colls (s : State) (n : Nat) (f : CtxFault) : (raiseCtx s n f).colls = s.colls := rfl
@[simp] theorem raiseCtx_images (s : State) (n : Nat) (f : CtxFault) : (raiseCtx s n f).images = s.images := rfl
@[simp] theorem raiseCtx_shadows (s : State) (n : Nat) (f : CtxFault) : (raiseCtx s n f).shadows = s.shadows := rfl
@[simp] theorem raiseCtx_teams (s : State) (n : Nat) (f : CtxFault) : (raiseCtx s n f).teams = s.teams := rfl
@[simp] theorem raiseCtx_groups (s : State) (n : Nat) (f : CtxFault) : (raiseCtx s n f).groups = s.groups := rfl
@[simp] theorem raiseCtx_splits (s : State) (n : Nat) (f : CtxFault) : (raiseCtx s n f).splits = s.splits := rfl
@[simp] theorem raiseCtx_cur (s : State) (n : Nat) (f : CtxFault) : (raiseCtx s n f).cur = s.cur := rfl
@[simp] theorem raiseCtx_arg (s : State) (n : Nat) (f : CtxFault) : (raiseCtx s n f).arg = s.arg := rfl
@[simp] theorem raiseCtx_agenda (s : State) (n : Nat) (f : CtxFault) : (raiseCtx s n f).agenda = s.agenda := rfl
@[simp] theorem raiseCtx_clock (s : State) (n : Nat) (f : CtxFault) : (raiseCtx s n f).clock = s.clock := rfl
@[simp] theorem raiseCtx_fresh (s : State) (n : Nat) (f : CtxFault) : (raiseCtx s n f).fresh = s.fresh := rfl
@[simp] theorem raiseCtx_nextId (s : State) (n : Nat) (f : CtxFault) : (raiseCtx s n f).nextId = s.nextId := rfl
@[simp] theorem raiseCtx_fx (s : State) (n : Nat) (f : CtxFault) : (raiseCtx s n f).fx = s.fx := rfl
@[simp] theorem raiseCtx_devFail (s : State) (n : Nat) (f : CtxFault) : (raiseCtx s n f).devFail = s.devFail := rfl

/-! ## reslice -/

@[simp] theorem reslice_dev (s : State) (t g w : Nat) : (reslice s t g w).dev = s.dev := rfl
@[simp] theorem reslice_mem (s : State) (t g w : Nat) : (reslice s t g w).mem = s.mem := rfl
@[simp] theorem reslice_ctxs (s : State) (t g w : Nat) : (reslice s t g w).ctxs = s.ctxs := rfl
@[simp] theorem reslice_rings (s : State) (t g w : Nat) : (reslice s t g w).rings = s.rings := rfl
@[simp] theorem reslice_launches (s : State) (t g w : Nat) : (reslice s t g w).launches = s.launches := rfl
@[simp] theorem reslice_contracts (s : State) (t g w : Nat) : (reslice s t g w).contracts = s.contracts := rfl
@[simp] theorem reslice_comms (s : State) (t g w : Nat) : (reslice s t g w).comms = s.comms := rfl
@[simp] theorem reslice_colls (s : State) (t g w : Nat) : (reslice s t g w).colls = s.colls := rfl
@[simp] theorem reslice_images (s : State) (t g w : Nat) : (reslice s t g w).images = s.images := rfl
@[simp] theorem reslice_shadows (s : State) (t g w : Nat) : (reslice s t g w).shadows = s.shadows := rfl
@[simp] theorem reslice_teams (s : State) (t g w : Nat) : (reslice s t g w).teams = s.teams := rfl
@[simp] theorem reslice_groups (s : State) (t g w : Nat) : (reslice s t g w).groups = s.groups := rfl
@[simp] theorem reslice_cur (s : State) (t g w : Nat) : (reslice s t g w).cur = s.cur := rfl
@[simp] theorem reslice_arg (s : State) (t g w : Nat) : (reslice s t g w).arg = s.arg := rfl
@[simp] theorem reslice_agenda (s : State) (t g w : Nat) : (reslice s t g w).agenda = s.agenda := rfl
@[simp] theorem reslice_clock (s : State) (t g w : Nat) : (reslice s t g w).clock = s.clock := rfl
@[simp] theorem reslice_fresh (s : State) (t g w : Nat) : (reslice s t g w).fresh = s.fresh := rfl
@[simp] theorem reslice_nextId (s : State) (t g w : Nat) : (reslice s t g w).nextId = s.nextId := rfl
@[simp] theorem reslice_fx (s : State) (t g w : Nat) : (reslice s t g w).fx = s.fx := rfl
@[simp] theorem reslice_devFail (s : State) (t g w : Nat) : (reslice s t g w).devFail = s.devFail := rfl

/-! ## takeId -/

@[simp] theorem takeId_dev (s : State) : (takeId s).2.dev = s.dev := rfl
@[simp] theorem takeId_mem (s : State) : (takeId s).2.mem = s.mem := rfl
@[simp] theorem takeId_ctxs (s : State) : (takeId s).2.ctxs = s.ctxs := rfl
@[simp] theorem takeId_rings (s : State) : (takeId s).2.rings = s.rings := rfl
@[simp] theorem takeId_launches (s : State) : (takeId s).2.launches = s.launches := rfl
@[simp] theorem takeId_contracts (s : State) : (takeId s).2.contracts = s.contracts := rfl
@[simp] theorem takeId_comms (s : State) : (takeId s).2.comms = s.comms := rfl
@[simp] theorem takeId_colls (s : State) : (takeId s).2.colls = s.colls := rfl
@[simp] theorem takeId_images (s : State) : (takeId s).2.images = s.images := rfl
@[simp] theorem takeId_shadows (s : State) : (takeId s).2.shadows = s.shadows := rfl
@[simp] theorem takeId_teams (s : State) : (takeId s).2.teams = s.teams := rfl
@[simp] theorem takeId_groups (s : State) : (takeId s).2.groups = s.groups := rfl
@[simp] theorem takeId_splits (s : State) : (takeId s).2.splits = s.splits := rfl
@[simp] theorem takeId_cur (s : State) : (takeId s).2.cur = s.cur := rfl
@[simp] theorem takeId_arg (s : State) : (takeId s).2.arg = s.arg := rfl
@[simp] theorem takeId_agenda (s : State) : (takeId s).2.agenda = s.agenda := rfl
@[simp] theorem takeId_clock (s : State) : (takeId s).2.clock = s.clock := rfl
@[simp] theorem takeId_fresh (s : State) : (takeId s).2.fresh = s.fresh := rfl
@[simp] theorem takeId_nextId (s : State) : (takeId s).2.nextId = s.nextId + 1 := rfl
@[simp] theorem takeId_fx (s : State) : (takeId s).2.fx = s.fx := rfl
@[simp] theorem takeId_devFail (s : State) : (takeId s).2.devFail = s.devFail := rfl

/-! ## freeChoice -/

@[simp] theorem freeChoice_dev (s : State) (n : Nat) : (freeChoice s n).2.dev = s.dev := rfl
@[simp] theorem freeChoice_mem (s : State) (n : Nat) : (freeChoice s n).2.mem = s.mem := rfl
@[simp] theorem freeChoice_ctxs (s : State) (n : Nat) : (freeChoice s n).2.ctxs = s.ctxs := rfl
@[simp] theorem freeChoice_rings (s : State) (n : Nat) : (freeChoice s n).2.rings = s.rings := rfl
@[simp] theorem freeChoice_launches (s : State) (n : Nat) : (freeChoice s n).2.launches = s.launches := rfl
@[simp] theorem freeChoice_contracts (s : State) (n : Nat) : (freeChoice s n).2.contracts = s.contracts := rfl
@[simp] theorem freeChoice_comms (s : State) (n : Nat) : (freeChoice s n).2.comms = s.comms := rfl
@[simp] theorem freeChoice_colls (s : State) (n : Nat) : (freeChoice s n).2.colls = s.colls := rfl
@[simp] theorem freeChoice_images (s : State) (n : Nat) : (freeChoice s n).2.images = s.images := rfl
@[simp] theorem freeChoice_shadows (s : State) (n : Nat) : (freeChoice s n).2.shadows = s.shadows := rfl
@[simp] theorem freeChoice_teams (s : State) (n : Nat) : (freeChoice s n).2.teams = s.teams := rfl
@[simp] theorem freeChoice_groups (s : State) (n : Nat) : (freeChoice s n).2.groups = s.groups := rfl
@[simp] theorem freeChoice_splits (s : State) (n : Nat) : (freeChoice s n).2.splits = s.splits := rfl
@[simp] theorem freeChoice_cur (s : State) (n : Nat) : (freeChoice s n).2.cur = s.cur := rfl
@[simp] theorem freeChoice_arg (s : State) (n : Nat) : (freeChoice s n).2.arg = s.arg := rfl
@[simp] theorem freeChoice_agenda (s : State) (n : Nat) : (freeChoice s n).2.agenda = s.agenda := rfl
@[simp] theorem freeChoice_clock (s : State) (n : Nat) : (freeChoice s n).2.clock = s.clock := rfl
@[simp] theorem freeChoice_fresh (s : State) (n : Nat) : (freeChoice s n).2.fresh = s.fresh + 1 := rfl
@[simp] theorem freeChoice_nextId (s : State) (n : Nat) : (freeChoice s n).2.nextId = s.nextId := rfl
@[simp] theorem freeChoice_fx (s : State) (n : Nat) : (freeChoice s n).2.fx = s.fx := rfl
@[simp] theorem freeChoice_devFail (s : State) (n : Nat) : (freeChoice s n).2.devFail = s.devFail := rfl

end Sys2Proof.Machine
end

