-- ==== Sys2Proof/Laws/Find.lean ====
section
/-! SUPPORT. What finding a team, a group, a split or a launch answers after an update of one of them, and what an agent
sees after its group, split and team have been updated. -/

namespace Sys2Proof.Machine

theorem find_updBy_same {α : Type} {p : α → Bool} {f : α → α} (hk : ∀ x, p x = true → p (f x) = true) (l : List α) :
    (updBy p f l).find? p = (l.find? p).map f := by
  induction l with
  | nil => rfl
  | cons x xs ih =>
    by_cases h : p x = true
    · simp [updBy, h, hk x h]
    · simp [updBy, h, ih]

theorem find_updBy_other {α : Type} {p q : α → Bool} {f : α → α} (hd : ∀ x, p x = true → q x = false)
    (hk : ∀ x, p x = true → q (f x) = false) (l : List α) : (updBy p f l).find? q = l.find? q := by
  induction l with
  | nil => rfl
  | cons x xs ih =>
    by_cases h : p x = true
    · simp [updBy, h, hd x h, hk x h, ih]
    · by_cases hq : q x = true <;> simp [updBy, h, hq, ih]

theorem all_updBy {α : Type} {p q : α → Bool} {f : α → α} {l : List α} (h : l.all q = true)
    (hq : ∀ x, q x = true → q (f x) = true) : (updBy p f l).all q = true := by
  induction l with
  | nil => rfl
  | cons x xs ih =>
    simp only [List.all_cons, Bool.and_eq_true] at h
    simp only [updBy, List.all_cons, Bool.and_eq_true]
    exact ⟨by split <;> simp_all, ih h.2⟩

theorem updBy_id {α : Type} {p : α → Bool} {f : α → α} (h : ∀ x, p x = true → f x = x) (l : List α) : updBy p f l = l := by
  induction l with
  | nil => rfl
  | cons x xs ih =>
    by_cases hx : p x = true
    · simp [updBy, hx, h x hx, ih]
    · simp [updBy, hx, ih]

theorem updBy_updBy {α : Type} {p : α → Bool} {f g : α → α} (hk : ∀ x, p x = true → p (f x) = true) (l : List α) :
    updBy p g (updBy p f l) = updBy p (fun x => g (f x)) l := by
  induction l with
  | nil => rfl
  | cons x xs ih =>
    by_cases h : p x = true
    · simp [updBy, h, hk x h, ih]
    · simp [updBy, h, ih]

/-- Two updates of one group are one. -/
theorem updGroups_twice {t k : Nat} {f g : Group → Group} (hf : ∀ x, (f x).tid = x.tid ∧ (f x).gi = x.gi)
    (l : List Group) :
    updBy (fun u => u.tid = t && u.gi = k) g (updBy (fun u => u.tid = t && u.gi = k) f l) =
      updBy (fun u => u.tid = t && u.gi = k) (fun x => g (f x)) l := updBy_updBy (by simp [hf]) l

/-- Two updates of one split are one. -/
theorem updSplits_twice {t k r : Nat} {f g : Split → Split}
    (hf : ∀ x, (f x).tid = x.tid ∧ (f x).gi = x.gi ∧ (f x).rank = x.rank) (l : List Split) :
    updBy (fun u => u.tid = t && u.gi = k && u.rank = r) g (updBy (fun u => u.tid = t && u.gi = k && u.rank = r) f l) =
      updBy (fun u => u.tid = t && u.gi = k && u.rank = r) (fun x => g (f x)) l := updBy_updBy (by simp [hf]) l

/-- Two updates of one team are one. -/
theorem updTeams_twice {t : Nat} {f g : Team → Team} (hf : ∀ x, (f x).tid = x.tid) (l : List Team) :
    updBy (fun u => u.tid = t) g (updBy (fun u => u.tid = t) f l) = updBy (fun u => u.tid = t) (fun x => g (f x)) l :=
  updBy_updBy (by simp [hf]) l

/-! ## One kind of part -/

theorem findTeam_tid {s : State} {t : Nat} {u : Team} (h : findTeam s t = some u) : u.tid = t := by
  simpa using List.find?_some h
theorem findLaunch_id {s : State} {n : Nat} {l : Launch} (h : findLaunch s n = some l) : l.id = n := by
  simpa using List.find?_some h
theorem findGroup_key {s : State} {t k : Nat} {g : Group} (h : findGroup s t k = some g) : g.tid = t ∧ g.gi = k := by
  simpa using List.find?_some h
theorem findSplit_key {s : State} {t k r : Nat} {x : Split} (h : findSplit s t k r = some x) :
    x.tid = t ∧ x.gi = k ∧ x.rank = r := by
  simpa [and_assoc] using List.find?_some h

theorem findTeam_updTeam {s : State} {t : Nat} {f : Team → Team} (hf : ∀ u, (f u).tid = u.tid) :
    findTeam (updTeam s t f) t = (findTeam s t).map f := by
  simp only [findTeam, updTeam_teams]
  exact find_updBy_same (by simp [hf]) _
theorem findTeam_updTeam_ne {s : State} {t t' : Nat} {f : Team → Team} (hf : ∀ u, (f u).tid = u.tid) (h : t' ≠ t) :
    findTeam (updTeam s t f) t' = findTeam s t' := by
  simp only [findTeam, updTeam_teams]
  exact find_updBy_other (by simp_all; omega) (by simp_all; omega) _

theorem findGroup_updGroup {s : State} {t k : Nat} {f : Group → Group} (hf : ∀ g, (f g).tid = g.tid ∧ (f g).gi = g.gi) :
    findGroup (updGroup s t k f) t k = (findGroup s t k).map f := by
  simp only [findGroup, updGroup_groups]
  exact find_updBy_same (by simp [hf]) _
theorem findGroup_updGroup_ne {s : State} {t k t' k' : Nat} {f : Group → Group}
    (hf : ∀ g, (f g).tid = g.tid ∧ (f g).gi = g.gi) (h : ¬(t' = t ∧ k' = k)) :
    findGroup (updGroup s t k f) t' k' = findGroup s t' k' := by
  simp only [findGroup, updGroup_groups]
  exact find_updBy_other (by simp_all; grind) (by simp_all; grind) _

theorem findSplit_updSplit {s : State} {t k r : Nat} {f : Split → Split}
    (hf : ∀ x, (f x).tid = x.tid ∧ (f x).gi = x.gi ∧ (f x).rank = x.rank) :
    findSplit (updSplit s t k r f) t k r = (findSplit s t k r).map f := by
  simp only [findSplit, updSplit_splits]
  exact find_updBy_same (by simp [hf]) _
theorem findSplit_updSplit_ne {s : State} {t k r t' k' r' : Nat} {f : Split → Split}
    (hf : ∀ x, (f x).tid = x.tid ∧ (f x).gi = x.gi ∧ (f x).rank = x.rank) (h : ¬(t' = t ∧ k' = k ∧ r' = r)) :
    findSplit (updSplit s t k r f) t' k' r' = findSplit s t' k' r' := by
  simp only [findSplit, updSplit_splits]
  exact find_updBy_other (by simp_all; grind) (by simp_all; grind) _

/-! ## What an agent sees -/

/-- The four parts an executing split is made of. -/
theorem exAt_iff {s : State} {t k r : Nat} {e : Ex} :
    exAt s t k r = some e ↔ findTeam s t = some e.tm ∧ findLaunch s e.tm.launch = some e.lch ∧
      findGroup s t k = some e.g ∧ findSplit s t k r = some e.x := by
  unfold exAt
  constructor
  · intro h
    split at h
    · simp at h
    · rename_i tm htm
      split at h
      · rename_i l g x hl hg hx
        cases h
        exact ⟨htm, hl, hg, hx⟩
      · simp at h
  · rintro ⟨h1, h2, h3, h4⟩
    simp [h1, h2, h3, h4]

/-- The keys of an executing split are those of its turn. -/
theorem exOf_cur {s : State} {e : Ex} (h : exOf s = some e) :
    s.cur = .split e.x.tid e.x.gi e.x.rank ∧ exAt s e.x.tid e.x.gi e.x.rank = some e ∧ e.tm.tid = e.x.tid ∧
      e.g.tid = e.x.tid ∧ e.g.gi = e.x.gi := by
  unfold exOf at h
  split at h
  · rename_i t k r hc
    have h' := exAt_iff.1 h
    obtain ⟨rfl, rfl, rfl⟩ := findSplit_key h'.2.2.2
    exact ⟨hc, h, findTeam_tid h'.1, (findGroup_key h'.2.2.1).1, (findGroup_key h'.2.2.1).2⟩
  · simp at h

/-- What a split sees after its group, itself and its team have been updated. -/
theorem exOf_after {s t : State} {e : Ex} {fg : Group → Group} {fx : Split → Split} {ft : Team → Team}
    (h : exOf s = some e) (hc : t.cur = s.cur) (hl : t.launches = s.launches)
    (hg : t.groups = updBy (fun u => u.tid = e.x.tid && u.gi = e.x.gi) fg s.groups)
    (hx : t.splits = updBy (fun u => u.tid = e.x.tid && u.gi = e.x.gi && u.rank = e.x.rank) fx s.splits)
    (ht : t.teams = updBy (fun u => u.tid = e.x.tid) ft s.teams)
    (kg : ∀ g, (fg g).tid = g.tid ∧ (fg g).gi = g.gi)
    (kx : ∀ x, (fx x).tid = x.tid ∧ (fx x).gi = x.gi ∧ (fx x).rank = x.rank)
    (kt : ∀ u, (ft u).tid = u.tid ∧ (ft u).launch = u.launch) :
    exOf t = some ⟨e.lch, ft e.tm, fg e.g, fx e.x⟩ ∧
    (∀ tid, tid ≠ e.x.tid → findTeam t tid = findTeam s tid) ∧
    (∀ tid gi, ¬(tid = e.x.tid ∧ gi = e.x.gi) → findGroup t tid gi = findGroup s tid gi) ∧
    (∀ tid gi rank, ¬(tid = e.x.tid ∧ gi = e.x.gi ∧ rank = e.x.rank) →
      findSplit t tid gi rank = findSplit s tid gi rank) := by
  obtain ⟨c1, c2, -, -, -⟩ := exOf_cur h
  obtain ⟨a1, a2, a3, a4⟩ := exAt_iff.1 c2
  have T : ∀ tid, findTeam t tid = findTeam (updTeam s e.x.tid ft) tid := by simp [findTeam, ht]
  have G : ∀ tid gi, findGroup t tid gi = findGroup (updGroup s e.x.tid e.x.gi fg) tid gi := by simp [findGroup, hg]
  have X : ∀ tid gi r, findSplit t tid gi r = findSplit (updSplit s e.x.tid e.x.gi e.x.rank fx) tid gi r := by
    simp [findSplit, hx]
  refine ⟨?_, ?_, ?_, ?_⟩
  · have : exAt t e.x.tid e.x.gi e.x.rank = some ⟨e.lch, ft e.tm, fg e.g, fx e.x⟩ := by
      refine exAt_iff.2 ⟨?_, ?_, ?_, ?_⟩
      · rw [T, findTeam_updTeam fun u => (kt u).1, a1]; rfl
      · simpa [findLaunch, hl, (kt e.tm).2] using a2
      · rw [G, findGroup_updGroup kg, a3]; rfl
      · rw [X, findSplit_updSplit kx, a4]; rfl
    simpa [exOf, hc, c1] using this
  · intro tid h; rw [T, findTeam_updTeam_ne (fun u => (kt u).1) h]
  · intro tid gi h; rw [G, findGroup_updGroup_ne kg h]
  · intro tid gi r h; rw [X, findSplit_updSplit_ne kx h]

end Sys2Proof.Machine
end

