-- ==== Sys2Proof/Laws/Issue.lean ====
section
/-! SUPPORT. What issuing a word comes to, said once per way a body ends: a word that `runs` and whose body completes leaves
the body's state, the split at its next PC with its latch consumed, and its team one word on. -/

namespace Sys2Proof.Machine

/-! ## The packets before a word, and the watchpoints after it -/

theorem putPacket_off {s : State} {c ty a b d : Nat} {p : List Byte} (h : traceOff s c = true) :
    putPacket s c ty a b d p = s := by
  unfold traceOff at h
  unfold putPacket
  split at h
  · rename_i q hq; simp_all
  · simp at h

theorem trace_off {s : State} {e : Ex} {ty : Nat} {p : List Byte} (h : traceOff s e.lch.ctx = true) :
    trace s e ty p = s := by
  unfold traceOff at h
  unfold trace
  split at h
  · rename_i q hq; simp_all
  · simp at h

theorem maskPacket_off {s : State} {e : Ex} {op : Nat} {d : DefEntry} (h : traceOff s e.lch.ctx = true) :
    maskPacket s e op d = s := by
  unfold maskPacket
  split
  · rfl
  · exact trace_off h

theorem syncPacket_off {s : State} {e : Ex} {r wp : Nat} (h : traceOff s e.lch.ctx = true) :
    syncPacket s e r wp = s := by
  unfold traceOff at h
  unfold syncPacket
  split at h
  · rename_i q hq; simp_all
  · simp at h

theorem branchBit_off {s : State} {e : Ex} {b : Bool} (h : traceOff s e.lch.ctx = true) : branchBit s e b = s := by
  unfold traceOff at h
  unfold branchBit
  split at h
  · rename_i q hq; simp_all
  · simp at h

theorem traceOff_congr {s t : State} (h : t.ctxs = s.ctxs) (c : Nat) : traceOff t c = traceOff s c := by
  simp [traceOff, findCtx, h]

theorem beforeIssue_off {s : State} {e : Ex} (h : traceOff s e.lch.ctx = true) (hb : e.x.brBits.length < 64) :
    beforeIssue s e = s := by
  unfold beforeIssue
  have : ¬ 64 ≤ e.x.brBits.length := by omega
  simp only [this, if_false]
  split
  · exact syncPacket_off h
  · split
    · exact syncPacket_off h
    · rfl

theorem mem_upTo {n k : Nat} : k ∈ upTo n ↔ k < n := by
  induction n with
  | zero => simp [upTo]
  | succ n ih => simp [upTo, ih]; omega

theorem watchHits_off {s : State} {e : Ex} (h : watchesOff s e.tm.core = true) : watchHits s e = [] := by
  unfold watchHits
  rw [List.filterMap_eq_nil_iff]
  intro k hk
  have := List.all_eq_true.1 h k hk
  simp only [decide_eq_true_eq] at this
  simp [this]

theorem watchesOff_congr {s t : State} (h : t.dev.watches = s.dev.watches) (c : Nat) :
    watchesOff t c = watchesOff s c := by simp [watchesOff, h]

theorem watched_off {s : State} {core ctx : Nat} (h : watchesOff s core = true) : watched s core ctx = false := by
  unfold watched
  rw [List.any_eq_false]
  intro k hk
  have := List.all_eq_true.1 h k hk
  simp only [decide_eq_true_eq] at this
  simp [this]

theorem judgeWatches_off {s : State} {e : Ex} {w : Word} {pc : DWord} (h : watchesOff s e.tm.core = true) :
    judgeWatches s e w pc none = s := by
  simp [judgeWatches, watchHits_off h]

theorem afterWord_off {s : State} {e : Ex} {w : Word} {pc : DWord} (h : watchesOff s e.tm.core = true) :
    afterWord s e w pc none = s := by
  simp [afterWord, watched_off h, judgeWatches_off h]

/-! ## The conditions of `runs` -/

theorem runs_iff {s : State} {e : Ex} {i : Instr} :
    runs s e i = true ↔ mayIssue s e = true ∧ mustWait s e i = false ∧
      encodingCause e.lch.hdr false (inHandler e) false e.x.imm e.x.mod e.x.hint (wordOf i) i = none ∧
      (inHandler e && handlerForbids i) = false ∧
      (reportPoint i && !inHandler e && unreported e ≠ []) = false ∧ traceOff s e.lch.ctx = true ∧
      watchesOff s e.tm.core = true ∧ e.x.brBits.length < 64 ∧ e.g.sold = none ∧ e.g.ruleOld = none ∧
      lsSettled s = true := by
  simp only [runs, Bool.and_eq_true, Bool.not_eq_true', Option.isNone_iff_eq_none, decide_eq_true_eq, and_assoc]

/-- A word that reads no older value of LS and leaves none leaves no note of order. -/
theorem noteOrder_settled {s : State} {e : Ex} {i : Instr} (h : lsSettled s = true) : noteOrder s e i = s := by
  unfold noteOrder
  exact if_pos (by rw [Bool.or_eq_true]; exact .inl h)

theorem lsSettled_congr {s t : State} (h : t.teams = s.teams) : lsSettled t = lsSettled s := by simp [lsSettled, h]

/-- A team updated as to anything but its older values of LS. -/
theorem lsSettled_updTeam {s : State} {tid : Nat} {f : Team → Team} (h : lsSettled s = true)
    (hf : ∀ t, (f t).lsOld = t.lsOld) : lsSettled (updTeam s tid f) = true := by
  refine all_updBy h fun t ht => ?_
  simpa [hf] using ht

theorem lsSettled_complete {s : State} {e : Ex} {pc : DWord} (h : lsSettled s = true) :
    lsSettled (complete s e pc) = true :=
  lsSettled_updTeam ((lsSettled_congr (s := s) rfl).trans h) fun _ => rfl

/-- A word that runs comes to its body. -/
theorem checkThen_runs {s : State} {e : Ex} {i : Instr} {body : Ex → State → Res} (h : runs s e i = true) (t : State) :
    checkThen e i (wordOf i) false body t = body e t := by
  obtain ⟨-, -, h3, h4, h5, -⟩ := runs_iff.1 h
  simp only [checkThen, h3]
  rw [if_neg (by simp_all), if_neg (by simp_all)]

/-- The turn of a word that runs: its body on the tidied state, carried out. -/
theorem groupWord_runs {s : State} {e : Ex} {i : Instr} {body : Ex → State → Res} (he : exOf s = some e)
    (h : runs s e i = true) {r : State} (hr : settle (tidy s) e (wordOf i) (body e (tidy s)) = r)
    (hk : (body e (tidy s)).places = true → keepWord r e (wordOf i) = r) (hf : r.devFail = none)
    (hc : ∀ l k, Fx.cap l k ∉ r.fx) (hq : lsSettled r = true) :
    groupWord i body s = .next (tidy r) := by
  obtain ⟨h1, h2, -, -, -, h6, -, h8, -⟩ := runs_iff.1 h
  obtain ⟨c1, c2, -⟩ := exOf_cur he
  have hb : beforeIssue (tidy s) e = tidy s := beforeIssue_off (by rw [traceOff_congr (t := tidy s) (s := s) rfl]; exact h6) h8
  have hp : (if (body e (tidy s)).places = true then keepWord r e (wordOf i) else r) = r := by
    split
    · exact hk ‹_›
    · rfl
  simp only [groupWord, runWord, c1, c2, issue, h1, h2, Bool.not_true, Bool.or_false, Bool.false_eq_true, if_false, hb,
    checkThen_runs h, hr, noteOrder_settled hq, ite_self, hp]
  rw [if_neg]
  · simp only [hf]
  · rw [Bool.not_eq_true, List.any_eq_false]
    intro f hm
    cases f <;> simp_all

/-- A word that runs and whose body completes at PC + 4. -/
theorem groupWord_done {s : State} {e : Ex} {i : Instr} {body : Ex → State → Res} {r : State} (he : exOf s = some e)
    (h : runs s e i = true) (hr : body e (tidy s) = .done r) (hw : r.dev.watches = s.dev.watches)
    (hf : r.devFail = none) (hc : ∀ l k, Fx.cap l k ∉ r.fx) (hq : lsSettled r = true) :
    groupWord i body s = .next (tidy (complete r e (e.x.pc + 4#64))) := by
  refine groupWord_runs he h (r := complete r e (e.x.pc + 4#64)) ?_ (by simp [hr, Res.places]) (by simpa using hf) (by simpa using hc)
    (lsSettled_complete hq)
  rw [hr]
  exact afterWord_off (by rw [watchesOff_congr (s := s) (by simpa using hw)]; exact (runs_iff.1 h).2.2.2.2.2.2.1)

/-- A word that runs and whose body completes at another PC. -/
theorem groupWord_jump {s : State} {e : Ex} {i : Instr} {body : Ex → State → Res} {r : State} {pc : DWord}
    (he : exOf s = some e) (h : runs s e i = true) (hr : body e (tidy s) = .jump pc r)
    (hw : r.dev.watches = s.dev.watches) (hf : r.devFail = none)
    (hc : ∀ l k, Fx.cap l k ∉ r.fx) (hq : lsSettled r = true) :
    groupWord i body s = .next (tidy (complete r e pc)) := by
  refine groupWord_runs he h (r := complete r e pc) ?_ (by simp [hr, Res.places]) (by simpa using hf) (by simpa using hc) (lsSettled_complete hq)
  rw [hr]
  exact afterWord_off (by rw [watchesOff_congr (s := s) (by simpa using hw)]; exact (runs_iff.1 h).2.2.2.2.2.2.1)

/-- A word that runs and places its own state. -/
theorem groupWord_moved {s : State} {e : Ex} {i : Instr} {body : Ex → State → Res} {r : State} (he : exOf s = some e)
    (h : runs s e i = true) (hr : body e (tidy s) = .moved r) (hk : keepWord r e (wordOf i) = r) (hf : r.devFail = none)
    (hc : ∀ l k, Fx.cap l k ∉ r.fx) (hq : lsSettled r = true) :
    groupWord i body s = .next (tidy r) := by
  refine groupWord_runs he h ?_ (fun _ => hk) hf hc hq
  rw [hr]; rfl

/-- A completed word changes, beside its group, its split and its team alone: the frame `groupOnly`. -/
theorem groupOnly_complete {s r : State} {e : Ex} {fg : Group → Group} (he : exOf s = some e)
    (kg : ∀ g, (fg g).tid = g.tid ∧ (fg g).gi = g.gi)
    (hg : r.groups = updBy (fun u => u.tid = e.x.tid && u.gi = e.x.gi) fg s.groups)
    (hr : r = { s with groups := r.groups, fx := r.fx, devFail := r.devFail }) :
    groupOnly s (tidy (complete r e (e.x.pc + 4#64))) e
      ⟨e.lch, counted e.tm, fg e.g, retired e.x (e.x.pc + 4#64)⟩ := by
  have H := exOf_after (t := tidy (complete r e (e.x.pc + 4#64))) (fg := fg)
    (fx := fun x => retired x (e.x.pc + 4#64)) (ft := counted) he
    (by rw [hr]; rfl) (by rw [hr]; rfl) (by simpa [complete] using hg) (by rw [hr]; rfl) (by rw [hr]; rfl) kg
    (fun _ => ⟨rfl, rfl, rfl⟩) (fun _ => ⟨rfl, rfl⟩)
  refine ⟨⟨H.1, rfl, ?_, H.2⟩, rfl, rfl⟩
  rw [hr]; rfl

/-! ## Words of a stream -/

theorem sxOf_iff {s : State} {tid : Nat} {x : Sx} :
    sxOf s tid = some x ↔ findTeam s tid = some x.tm ∧ findLaunch s x.tm.launch = some x.lch := by
  unfold sxOf
  split
  · simp_all
  · rename_i t ht
    rw [ht]
    constructor
    · intro h
      obtain ⟨l, hl, rfl⟩ := Option.map_eq_some_iff.1 h
      exact ⟨rfl, hl⟩
    · rintro ⟨h1, h2⟩
      cases h1
      simp [h2]

/-- A stream word that runs: its body on the tidied state, carried out. -/
theorem streamWord_runs {s : State} {x : Sx} {i : Instr} {body : Sx → State → SRes} (hc : s.cur = .stream x.tm.tid)
    (hx : sxOf s x.tm.tid = some x) (h : streamRuns s x i = true) :
    streamWord i body s = .next (tidy (streamSettle (tidy s) x (wordOf i) (body x (tidy s)))) := by
  simp only [streamRuns, Bool.and_eq_true, Bool.not_eq_true', Option.isNone_iff_eq_none] at h
  obtain ⟨⟨h1, h2⟩, h3⟩ := h
  simp [streamWord, runWord, hc, hx, issueStream, h1, h2, h3]

end Sys2Proof.Machine
end

