-- ==== Sys2Proof/Laws/Maps.lean ====
section
/-! SUPPORT. The laws of maps and of memory: a read after a write, a write and other keys, and the canonical form, which
every operation keeps. -/

namespace Sys2Proof.Machine

variable {α : Type} {d v : α} {m : List (Nat × α)} {j k : Nat}

/-! ## Read after write -/

theorem mapGet_del_same : mapGet d (mapDel m k) k = d := by
  induction m with
  | nil => rfl
  | cons e m ih =>
    obtain ⟨i, w⟩ := e
    by_cases h : i = k <;> simp [mapDel, mapGet, h, ih]

theorem mapGet_del_ne (h : j ≠ k) : mapGet d (mapDel m k) j = mapGet d m j := by
  induction m with
  | nil => rfl
  | cons e m ih =>
    obtain ⟨i, w⟩ := e
    by_cases hi : i = k
    · subst hi; simp [mapDel, mapGet, ih, Ne.symm h]
    · simp [mapDel, mapGet, hi, ih]

theorem mapGet_put_same : mapGet d (mapPut m k v) k = v := by
  induction m with
  | nil => simp [mapPut, mapGet]
  | cons e m ih =>
    obtain ⟨i, w⟩ := e
    by_cases h1 : k < i
    · simp [mapPut, mapGet, h1]
    · by_cases h2 : i = k <;> simp [mapPut, mapGet, h1, h2, ih]

theorem mapGet_put_ne (h : j ≠ k) : mapGet d (mapPut m k v) j = mapGet d m j := by
  induction m with
  | nil => simp [mapPut, mapGet, Ne.symm h]
  | cons e m ih =>
    obtain ⟨i, w⟩ := e
    by_cases h1 : k < i
    · simp [mapPut, mapGet, h1, Ne.symm h]
    · by_cases h2 : i = k
      · subst h2; simp [mapPut, mapGet, Ne.symm h]
      · simp [mapPut, mapGet, h1, h2, ih]

variable [DecidableEq α]

@[simp] theorem mapGet_set_same : mapGet d (mapSet d m k v) k = v := by
  unfold mapSet
  split
  · rename_i h; rw [mapGet_del_same, h]
  · exact mapGet_put_same

theorem mapGet_set_ne (h : j ≠ k) : mapGet d (mapSet d m k v) j = mapGet d m j := by
  unfold mapSet
  split
  · exact mapGet_del_ne h
  · exact mapGet_put_ne h

theorem mapGet_set : mapGet d (mapSet d m k v) j = if j = k then v else mapGet d m j := by
  split
  · rename_i h; subst h; exact mapGet_set_same
  · exact mapGet_set_ne ‹_›

/-- A key that no write names keeps what it reads as. -/
theorem mapGet_many_out {ws : List (Nat × α)} (h : ∀ e ∈ ws, e.1 ≠ j) : mapGet d (mapSetMany d m ws) j = mapGet d m j := by
  induction ws generalizing m with
  | nil => rfl
  | cons e ws ih =>
    obtain ⟨k, v⟩ := e
    rw [mapSetMany, ih fun e he => h e (List.mem_cons_of_mem _ he), mapGet_set_ne]
    exact Ne.symm (h (k, v) (List.mem_cons_self ..))

/-- A key that the writes name with one value reads as that value. -/
theorem mapGet_many_in {ws : List (Nat × α)} (hm : (j, v) ∈ ws) (hu : ∀ w, (j, w) ∈ ws → w = v) :
    mapGet d (mapSetMany d m ws) j = v := by
  induction ws generalizing m with
  | nil => simp at hm
  | cons e ws ih =>
    obtain ⟨k, w⟩ := e
    rw [mapSetMany]
    by_cases hin : (j, v) ∈ ws
    · exact ih hin fun w hw => hu w (List.mem_cons_of_mem _ hw)
    · rcases List.mem_cons.1 hm with h | h
      · injection h with h1 h2
        subst h1 h2
        rw [mapGet_many_out]
        · exact mapGet_set_same
        · rintro ⟨k', w'⟩ he rfl
          exact hin (hu w' (List.mem_cons_of_mem _ he) ▸ he)
      · exact absurd h hin

/-! ## The canonical form -/

theorem mapWf_cons {e : Nat × α} :
    mapWf d (e :: m) = true ↔ e.2 ≠ d ∧ (∀ x ∈ m, e.1 < x.1) ∧ mapWf d m = true := by
  induction m generalizing e with
  | nil => obtain ⟨k, v⟩ := e; simp [mapWf]
  | cons x m ih =>
    obtain ⟨k, v⟩ := e
    obtain ⟨k', v'⟩ := x
    have := ih (e := (k', v'))
    simp only [mapWf, Bool.and_eq_true, decide_eq_true_eq, List.mem_cons, forall_eq_or_imp] at this ⊢
    constructor
    · rintro ⟨⟨h1, h2⟩, h3⟩
      exact ⟨h1, ⟨h2, fun y hy => by have := (this.1 h3).2.1 y hy; omega⟩, h3⟩
    · rintro ⟨h1, ⟨h2, -⟩, h3⟩
      exact ⟨⟨h1, h2⟩, h3⟩

omit [DecidableEq α] in
theorem mem_mapDel {x : Nat × α} (h : x ∈ mapDel m k) : x ∈ m := by
  induction m with
  | nil => simp [mapDel] at h
  | cons e m ih =>
    obtain ⟨i, w⟩ := e
    simp only [mapDel] at h
    split at h
    · exact List.mem_cons_of_mem _ (ih h)
    · rcases List.mem_cons.1 h with h | h
      · simp [h]
      · exact List.mem_cons_of_mem _ (ih h)

theorem mapWf_del (h : mapWf d m = true) : mapWf d (mapDel m k) = true := by
  induction m with
  | nil => rfl
  | cons e m ih =>
    obtain ⟨i, w⟩ := e
    obtain ⟨h1, h2, h3⟩ := mapWf_cons.1 h
    simp only [mapDel]
    split
    · exact ih h3
    · exact mapWf_cons.2 ⟨h1, fun x hx => h2 x (mem_mapDel hx), ih h3⟩

omit [DecidableEq α] in
theorem mem_mapPut {x : Nat × α} (h : x ∈ mapPut m k v) : x ∈ m ∨ x = (k, v) := by
  induction m with
  | nil => simpa [mapPut] using h
  | cons e m ih =>
    obtain ⟨i, w⟩ := e
    simp only [mapPut] at h
    split at h
    · rcases List.mem_cons.1 h with h | h
      · exact .inr h
      · exact .inl h
    · split at h
      · rcases List.mem_cons.1 h with h | h
        · exact .inr h
        · exact .inl (List.mem_cons_of_mem _ h)
      · rcases List.mem_cons.1 h with h | h
        · exact .inl (by simp [h])
        · rcases ih h with h | h
          · exact .inl (List.mem_cons_of_mem _ h)
          · exact .inr h

theorem mapWf_put (h : mapWf d m = true) (hv : v ≠ d) : mapWf d (mapPut m k v) = true := by
  induction m with
  | nil => simp [mapPut, mapWf, hv]
  | cons e m ih =>
    obtain ⟨i, w⟩ := e
    obtain ⟨h1, h2, h3⟩ := mapWf_cons.1 h
    simp only [mapPut]
    split
    · rename_i hk
      refine mapWf_cons.2 ⟨hv, ?_, h⟩
      intro x hx
      rcases List.mem_cons.1 hx with rfl | hx
      · exact hk
      · have := h2 x hx; omega
    · split
      · rename_i hk
        subst hk
        exact mapWf_cons.2 ⟨hv, h2, h3⟩
      · refine mapWf_cons.2 ⟨h1, ?_, ih h3⟩
        intro x hx
        rcases mem_mapPut hx with hx | rfl
        · exact h2 x hx
        · simp only; omega

theorem mapWf_set (h : mapWf d m = true) : mapWf d (mapSet d m k v) = true := by
  unfold mapSet
  split
  · exact mapWf_del h
  · exact mapWf_put h ‹_›

theorem mapWf_setMany {ws : List (Nat × α)} (h : mapWf d m = true) : mapWf d (mapSetMany d m ws) = true := by
  induction ws generalizing m with
  | nil => exact h
  | cons e ws ih => exact ih (mapWf_set h)

omit [DecidableEq α] in
/-- A key below every listed one reads as an unlisted one does. -/
theorem mapGet_lt (h : ∀ x ∈ m, k < x.1) : mapGet d m k = d := by
  induction m with
  | nil => rfl
  | cons e m ih =>
    obtain ⟨i, w⟩ := e
    have := h (i, w) (List.mem_cons_self ..)
    have hi : i ≠ k := by simp only at this; omega
    simp [mapGet, hi, ih fun x hx => h x (List.mem_cons_of_mem _ hx)]

/-- Canonical maps that read alike are equal: a read decides the whole map. -/
theorem mapWf_ext {m' : List (Nat × α)} (h : mapWf d m = true) (h' : mapWf d m' = true)
    (he : ∀ k, mapGet d m k = mapGet d m' k) : m = m' := by
  induction m generalizing m' with
  | nil =>
    cases m' with
    | nil => rfl
    | cons e m' =>
      obtain ⟨i, w⟩ := e
      have := he i
      simp only [mapGet, if_true] at this
      exact absurd this.symm (mapWf_cons.1 h').1
  | cons e m ih =>
    obtain ⟨i, w⟩ := e
    obtain ⟨h1, h2, h3⟩ := mapWf_cons.1 h
    cases m' with
    | nil => have := he i; simp only [mapGet, if_true] at this; exact absurd this h1
    | cons e' m' =>
      obtain ⟨i', w'⟩ := e'
      obtain ⟨h1', h2', h3'⟩ := mapWf_cons.1 h'
      have hii : i = i' := by
        rcases Nat.lt_trichotomy i i' with hlt | heq | hlt
        · have := he i
          rw [mapGet_lt (m := (i', w') :: m') (by
            intro x hx
            rcases List.mem_cons.1 hx with rfl | hx
            · exact hlt
            · have := h2' x hx; simp only at this ⊢; omega)] at this
          simp only [mapGet, if_true] at this
          exact absurd this h1
        · exact heq
        · have := he i'
          rw [mapGet_lt (m := (i, w) :: m) (by
            intro x hx
            rcases List.mem_cons.1 hx with rfl | hx
            · exact hlt
            · have := h2 x hx; simp only at this ⊢; omega)] at this
          simp only [mapGet, if_true] at this
          exact absurd this.symm h1'
      subst hii
      have hw : w = w' := by simpa [mapGet] using he i
      subst hw
      rw [ih h3 h3']
      intro k
      by_cases hk : i = k
      · subst hk
        rw [mapGet_lt h2, mapGet_lt h2']
      · simpa [mapGet, hk] using he k

/-! ## Memory -/

theorem readByte_writeByte (mem : Memory) (a b : Nat) (x : Byte) :
    readByte (writeByte mem a x) b = if b = a then x else readByte mem b := mapGet_set

/-- Bytes written: an address in their range reads as the byte written there, every other as before. -/
theorem readByte_writeBytes (mem : Memory) (a b : Nat) (xs : List Byte) :
    readByte (writeBytes mem a xs) b =
      if a ≤ b ∧ b < a + xs.length then xs.getD (b - a) 0#8 else readByte mem b := by
  induction xs generalizing mem a with
  | nil => simp only [writeBytes, List.length_nil]; rw [if_neg (by omega)]
  | cons x xs ih =>
    rw [writeBytes, ih, readByte_writeByte]
    by_cases h1 : b = a
    · subst h1
      rw [if_neg (by omega), if_pos rfl, if_pos (by simp)]
      simp
    · by_cases h2 : a + 1 ≤ b ∧ b < a + 1 + xs.length
      · rw [if_pos h2, if_pos (by simp only [List.length_cons]; omega)]
        obtain ⟨k, hk⟩ : ∃ k, b - a = k + 1 := ⟨b - a - 1, by omega⟩
        rw [hk, List.getD_cons_succ]
        congr 1
        omega
      · rw [if_neg h2, if_neg h1, if_neg (by simp only [List.length_cons]; omega)]

/-- Every memory operation keeps the canonical form. -/
theorem memoryWf_writeByte {mem : Memory} {a : Nat} {x : Byte} (h : memoryWf mem = true) :
    memoryWf (writeByte mem a x) = true := mapWf_set h

theorem memoryWf_writeBytes {mem : Memory} {a : Nat} {xs : List Byte} (h : memoryWf mem = true) :
    memoryWf (writeBytes mem a xs) = true := by
  induction xs generalizing mem a with
  | nil => exact h
  | cons x xs ih => exact ih (memoryWf_writeByte h)

end Sys2Proof.Machine
end

