-- ==== Sys2Proof/Laws/Registers.lean ====
section
/-! SUPPORT. What writing registers, status and lane results does, said once per operation: which cell takes which value, and
that every other cell keeps its own. -/

namespace Sys2Proof.Machine

/-! ## Lanes -/

theorem lane_lt {w : Nat} {m : DWord} {i : Nat} (h : i ∈ lanesOf w m) : i < 64 := by
  have := (List.mem_filter.1 h).2
  exact BitVec.lt_of_getLsbD this

theorem mem_lanesOf {w : Nat} {m : DWord} {i : Nat} : i ∈ lanesOf w m ↔ i < w ∧ m.getLsbD i = true := by
  simp [lanesOf, mem_upTo]

theorem upTo_nodup (n : Nat) : (upTo n).Nodup := by
  induction n with
  | zero => simp [upTo]
  | succ n ih =>
    rw [upTo, List.nodup_append]
    refine ⟨ih, by simp, ?_⟩
    intro a ha b hb
    have := mem_upTo.1 ha
    have : b = n := by simpa using hb
    omega

theorem lanes_nodup (e : Ex) : e.lanes.Nodup := (upTo_nodup _).filter _

/-! ## Scalars -/

/-- A group that reads its scalars as they are, with no cycle open (R68). -/
theorem sreg_now {g : Group} (h : g.sold = none) (k : Nat) : sreg g k = mapGet (0#32, 0#16) g.sregs k := by
  simp [sreg, h]

theorem sreg_writeScalars_out {g : Group} {ws : List (Nat × Cell)} {k : Nat} (hs : g.sold = none) (h : ∀ w ∈ ws, w.1 ≠ k) :
    sreg (writeScalars g ws) k = sreg g k :=
  (sreg_now (by exact hs) k).trans ((mapGet_many_out h).trans (sreg_now hs k).symm)
theorem sreg_writeScalars_one {g : Group} {k : Nat} {c : Cell} (hs : g.sold = none) :
    sreg (writeScalars g [(k, c)]) k = c := by
  simp [sreg, writeScalars, mapSetMany, hs]
theorem sreg_writeScalars_lo {g : Group} {k : Nat} {c d : Cell} (hs : g.sold = none) :
    sreg (writeScalars g [(k, c), (k + 1, d)]) k = c := by
  simp [sreg, writeScalars, mapSetMany, mapGet_set, hs]
theorem sreg_writeScalars_hi {g : Group} {k : Nat} {c d : Cell} (hs : g.sold = none) :
    sreg (writeScalars g [(k, c), (k + 1, d)]) (k + 1) = d := by
  simp [sreg, writeScalars, mapSetMany, hs]

/-! ## Vectors -/

theorem vreg_writeCells_out {g : Group} {ws : List (Nat × Cell)} {r i : Nat} (h : ∀ w ∈ ws, w.1 ≠ r * 64 + i) :
    vreg (writeCells g ws) r i = vreg g r i := mapGet_many_out h
theorem vreg_writeCells_in {g : Group} {ws : List (Nat × Cell)} {r i : Nat} {c : Cell} (h : (r * 64 + i, c) ∈ ws)
    (hu : ∀ c', (r * 64 + i, c') ∈ ws → c' = c) : vreg (writeCells g ws) r i = c := mapGet_many_in h hu

/-! ## Status and dice -/

theorem lstat_recordBits_out {g : Group} {ws : Status} {j : Nat} (h : ∀ w ∈ ws, w.1 ≠ j) :
    lstatOf (recordBits g ws) j = lstatOf g j := by
  unfold lstatOf recordBits
  induction ws generalizing g with
  | nil => rfl
  | cons w ws ih =>
    have := ih (g := { g with lstat := mapSet 0#32 g.lstat w.1 (mapGet 0#32 g.lstat w.1 ||| w.2 ||| (w.2 <<< (8 : Nat))) })
      fun x hx => h x (List.mem_cons_of_mem _ hx)
    rw [List.foldl_cons, this]
    exact mapGet_set_ne (Ne.symm (h w (List.mem_cons_self ..)))

theorem lstat_recordBits_in {g : Group} {ws : Status} {j : Nat} {b : Word} (h : (j, b) ∈ ws)
    (hn : (ws.map fun w => w.1).Nodup) : lstatOf (recordBits g ws) j = lstatOf g j ||| b ||| (b <<< (8 : Nat)) := by
  induction ws generalizing g with
  | nil => simp at h
  | cons w ws ih =>
    rw [List.map_cons, List.nodup_cons] at hn
    set g' : Group := { g with lstat := mapSet 0#32 g.lstat w.1 (mapGet 0#32 g.lstat w.1 ||| w.2 ||| (w.2 <<< (8 : Nat))) }
      with hg'
    have hr : lstatOf (recordBits g (w :: ws)) j = lstatOf (recordBits g' ws) j := rfl
    rw [hr]
    rcases List.mem_cons.1 h with h | h
    · subst h
      rw [lstat_recordBits_out]
      · exact mapGet_set_same
      · intro x hx hj
        exact hn.1 (List.mem_map.2 ⟨x, hx, hj⟩)
    · rw [ih h hn.2]
      have hne : j ≠ w.1 := fun hj => hn.1 (hj ▸ List.mem_map.2 ⟨_, h, rfl⟩)
      have : lstatOf g' j = lstatOf g j := mapGet_set_ne hne
      rw [this]

theorem dice_writeDice_out {g : Group} {ws : List (Nat × Word)} {j : Nat} (h : ∀ w ∈ ws, w.1 ≠ j) :
    diceOf (writeDice g ws) j = diceOf g j := mapGet_many_out h
theorem dice_writeDice_in {g : Group} {ws : List (Nat × Word)} {j : Nat} {x : Word} (h : (j, x) ∈ ws)
    (hu : ∀ y, (j, y) ∈ ws → y = x) : diceOf (writeDice g ws) j = x := mapGet_many_in h hu

/-! ## Predicates -/

theorem predBit_writePred {g : Group} {p k i : Nat} {m v : DWord} (hp : p ≠ 0) (hi : i < 64) :
    predBit (writePred g p m v) k i = if k = p ∧ m.getLsbD i = true then v.getLsbD i else predBit g k i := by
  by_cases hk : k = p
  · subst hk
    simp only [predBit, pred, writePred, hp, if_false, mapGet_set_same, true_and, BitVec.getLsbD_or, BitVec.getLsbD_and,
      BitVec.getLsbD_not, hi, decide_true, Bool.true_and]
    cases m.getLsbD i <;> simp
  · simp [predBit, pred, writePred, hp, hk, mapGet_set_ne hk]

theorem pred_zero {g : Group} {i : Nat} (hi : i < 64) : predBit g 0 i = true := by
  rw [predBit, pred, if_pos rfl, BitVec.getLsbD_allOnes]; simpa using hi

/-! ## Lane results -/

/-- No lane of a result calls for a capture. -/
theorem settleLanes_st {s : State} {e : Ex} {d : Nat} {cls : TagClass} {f : Bool} {outs : List LaneOut}
    (h : ∀ k, ∀ o ∈ outs, capturable e.lch (hasRing s e.lch.ctx) (ruleOf e) cls o k = false) :
    (settleLanes s e d cls f outs).st = s := by
  have : ∀ k, outs.filter (fun o => capturable e.lch (hasRing s e.lch.ctx) (ruleOf e) cls o k) = [] := fun k => by
    rw [List.filter_eq_nil_iff]; intro o ho; simp [h k o ho]
  simp [settleLanes, this]

/-- The tag that a lane's result takes without a capture (R37 to R39, R225). -/
def plainTag (e : Ex) (cls : TagClass) (o : LaneOut) : Tag :=
  if o.ident then own e
  else ruleTag (ruleOf e) cls (own e) o.srcs (((o.carry.or o.a).map fun x => x.2).getD 0#16)
    ((o.b.map fun x => x.2).getD 0#16) o.old

theorem settleLanes_cells {s : State} {e : Ex} {d : Nat} {cls : TagClass} {f : Bool} {outs : List LaneOut}
    (h : ∀ k, ∀ o ∈ outs, capturable e.lch (hasRing s e.lch.ctx) (ruleOf e) cls o k = false) :
    (settleLanes s e d cls f outs).cells = outs.flatMap fun o =>
      (d * 64 + o.lane, (o.lo, plainTag e cls o)) ::
        (match o.hi with | some h => [((d + 1) * 64 + o.lane, (h, plainTag e cls o))] | none => []) := by
  have : ∀ k, outs.filter (fun o => capturable e.lch (hasRing s e.lch.ctx) (ruleOf e) cls o k) = [] := fun k => by
    rw [List.filter_eq_nil_iff]; intro o ho; simp [h k o ho]
  simp only [settleLanes, List.foldl_cons, List.foldl_nil, this, List.find?_nil]
  rfl

/-- The status a lane's result records without a capture: its events, and UNCAP where it gave birth (R36). -/
def plainStatus (o : LaneOut) : Word := evWord o.ev ||| (if o.causes ≠ [] then bitUncap else 0#32)

theorem settleLanes_status {s : State} {e : Ex} {d : Nat} {cls : TagClass} {f : Bool} {outs : List LaneOut}
    (h : ∀ k, ∀ o ∈ outs, capturable e.lch (hasRing s e.lch.ctx) (ruleOf e) cls o k = false) :
    (settleLanes s e d cls f outs).status = outs.map fun o => (o.lane, plainStatus o) := by
  have hf : ∀ k, outs.filter (fun o => capturable e.lch (hasRing s e.lch.ctx) (ruleOf e) cls o k) = [] := fun k => by
    rw [List.filter_eq_nil_iff]; intro o ho; simp [h k o ho]
  simp only [settleLanes, List.foldl_cons, List.foldl_nil, hf, List.any_nil]
  refine List.map_congr_left fun o ho => ?_
  have : (o.causes.any fun k => !capturable e.lch (hasRing s e.lch.ctx) (ruleOf e) cls o k) = decide (o.causes ≠ []) := by
    cases hc : o.causes with
    | nil => rfl
    | cons k ks => simp [h k o ho]
  simp [plainStatus, this]

theorem settleLanes_dice {s : State} {e : Ex} {d : Nat} {cls : TagClass} {f : Bool} {outs : List LaneOut} :
    (settleLanes s e d cls f outs).dice = outs.filterMap fun o => o.dice.map fun x => (o.lane, x) := rfl

/-- Nothing is captured where the context has no ring or the launch enables no cause (R33, R35). -/
theorem not_capturable {s t : State} {e : Ex} (h : captureOff s e = true) (ht : t.ctxs = s.ctxs) (rule : Nat)
    (cls : TagClass) (o : LaneOut) (k : Nat) : capturable e.lch (hasRing t e.lch.ctx) rule cls o k = false := by
  have hr : hasRing t e.lch.ctx = hasRing s e.lch.ctx := by simp [hasRing, findCtx, ht]
  unfold captureOff at h
  rcases Bool.or_eq_true _ _ ▸ h with h | h
  · simp [capturable, hr, Bool.not_eq_true' _ ▸ h]
  · have : e.lch.hdr.capture = 0#16 := by simpa using h
    simp [capturable, causeOn, this]

/-- Nothing is captured of a lane that gives no birth. -/
theorem not_capturable_of_born {l : Launch} {ring : Bool} {rule : Nat} {cls : TagClass} {o : LaneOut} {k : Nat}
    (h : o.causes = []) : capturable l ring rule cls o k = false := by simp [capturable, h]

/-- What committing lane results does to the group, where nothing is captured. -/
def commitGroup (e : Ex) (d : Nat) (cls : TagClass) (outs : List LaneOut) (g : Group) : Group :=
  writeDice (recordBits (writeCells g (outs.flatMap fun o =>
      (d * 64 + o.lane, (o.lo, plainTag e cls o)) ::
        (match o.hi with | some h => [((d + 1) * 64 + o.lane, (h, plainTag e cls o))] | none => [])))
    ((outs.map fun o => (o.lane, plainStatus o)).filter fun w => w.2 ≠ 0#32))
    (outs.filterMap fun o => o.dice.map fun x => (o.lane, x))

/-- Lane results written at once (R178): the group takes `commitGroup`, the effects are noted, and nothing else changes. -/
theorem commitLanes_eq {s : State} {e : Ex} {d : Nat} {cls : TagClass} {f : Bool} {outs : List LaneOut}
    (h : ∀ k, ∀ o ∈ outs, capturable e.lch (hasRing s e.lch.ctx) (ruleOf e) cls o k = false) :
    ∃ fx : List Fx, (∀ l k, Fx.cap l k ∉ fx) ∧ commitLanes s e d cls f outs =
      { s with groups := updBy (fun u => u.tid = e.x.tid && u.gi = e.x.gi) (commitGroup e d cls outs) s.groups
               fx := s.fx ++ fx } := by
  refine ⟨(settleLanes s e d cls f outs).cells.map fun w => .reg (w.1 / 64) (w.1 % 64) w.2.2, by simp, ?_⟩
  simp only [commitLanes, putV, record, setGroup, updGroup, settleLanes_st h]
  rw [updGroups_twice, updGroups_twice]
  · simp only [settleLanes_cells h, settleLanes_status h, settleLanes_dice]
    rfl
  · exact fun _ => ⟨rfl, rfl⟩
  · exact fun _ => ⟨rfl, rfl⟩

/-- What a lane's destination reads as after its result is committed: each lane once, no pair. -/
theorem vreg_commitGroup {e : Ex} {d : Nat} {cls : TagClass} {outs : List LaneOut} {g : Group} {o : LaneOut}
    (hn : (outs.map fun o => o.lane).Nodup) (hl : ∀ o ∈ outs, o.lane < 64) (hh : ∀ o ∈ outs, o.hi = none) (ho : o ∈ outs) :
    vreg (commitGroup e d cls outs g) d o.lane = (o.lo, plainTag e cls o) := by
  have : vreg (commitGroup e d cls outs g) d o.lane = vreg (writeCells g (outs.flatMap fun o =>
      (d * 64 + o.lane, (o.lo, plainTag e cls o)) ::
        (match o.hi with | some h => [((d + 1) * 64 + o.lane, (h, plainTag e cls o))] | none => []))) d o.lane := rfl
  rw [this]
  refine vreg_writeCells_in ?_ ?_
  · exact List.mem_flatMap.2 ⟨o, ho, List.mem_cons_self ..⟩
  · intro c hc
    obtain ⟨o', ho', hm⟩ := List.mem_flatMap.1 hc
    rw [hh o' ho'] at hm
    simp only [List.mem_singleton, Prod.mk.injEq] at hm
    have := hl o ho
    have := hl o' ho'
    have hlane : o'.lane = o.lane := by omega
    rw [hm.2, List.inj_on_of_nodup_map hn ho' ho hlane]

/-- The two destinations of a lane whose result is a pair. -/
theorem vreg_commitGroup_pair {e : Ex} {d : Nat} {cls : TagClass} {outs : List LaneOut} {g : Group} {o : LaneOut} {h : Word}
    (hn : (outs.map fun o => o.lane).Nodup) (hl : ∀ o ∈ outs, o.lane < 64) (ho : o ∈ outs) (hp : o.hi = some h) :
    vreg (commitGroup e d cls outs g) d o.lane = (o.lo, plainTag e cls o) ∧
    vreg (commitGroup e d cls outs g) (d + 1) o.lane = (h, plainTag e cls o) := by
  have key : ∀ r, vreg (commitGroup e d cls outs g) r o.lane = vreg (writeCells g (outs.flatMap fun o =>
      (d * 64 + o.lane, (o.lo, plainTag e cls o)) ::
        (match o.hi with | some h => [((d + 1) * 64 + o.lane, (h, plainTag e cls o))] | none => []))) r o.lane := fun _ => rfl
  have uniq : ∀ o' ∈ outs, o'.lane = o.lane → o' = o := fun o' ho' hlane => List.inj_on_of_nodup_map hn ho' ho hlane
  constructor
  · rw [key]
    refine vreg_writeCells_in (List.mem_flatMap.2 ⟨o, ho, List.mem_cons_self ..⟩) ?_
    intro c hc
    obtain ⟨o', ho', hm⟩ := List.mem_flatMap.1 hc
    have := hl o ho
    have := hl o' ho'
    rcases List.mem_cons.1 hm with hm | hm
    · simp only [Prod.mk.injEq] at hm
      rw [hm.2, uniq o' ho' (by omega)]
    · cases hi : o'.hi <;> rw [hi] at hm <;> simp at hm
      exact absurd hm.1 (by omega)
  · rw [key]
    refine vreg_writeCells_in (List.mem_flatMap.2 ⟨o, ho, ?_⟩) ?_
    · rw [hp]; simp
    · intro c hc
      obtain ⟨o', ho', hm⟩ := List.mem_flatMap.1 hc
      have := hl o ho
      have := hl o' ho'
      rcases List.mem_cons.1 hm with hm | hm
      · simp only [Prod.mk.injEq] at hm
        exact absurd hm.1 (by omega)
      · cases hi : o'.hi <;> rw [hi] at hm <;> simp at hm
        have ho2 := uniq o' ho' (by omega)
        subst ho2
        rw [hp] at hi
        cases hi
        exact hm.2

/-- Every cell but a lane's destination keeps its own. -/
theorem vreg_commitGroup_out {e : Ex} {d : Nat} {cls : TagClass} {outs : List LaneOut} {g : Group} {r i : Nat} (hi : i < 64)
    (hl : ∀ o ∈ outs, o.lane < 64) (h : ∀ o ∈ outs, o.lane = i → r ≠ d ∧ (o.hi.isSome → r ≠ d + 1)) :
    vreg (commitGroup e d cls outs g) r i = vreg g r i := by
  have : vreg (commitGroup e d cls outs g) r i = vreg (writeCells g (outs.flatMap fun o =>
      (d * 64 + o.lane, (o.lo, plainTag e cls o)) ::
        (match o.hi with | some h => [((d + 1) * 64 + o.lane, (h, plainTag e cls o))] | none => []))) r i := rfl
  rw [this]
  refine vreg_writeCells_out ?_
  rintro ⟨k, c⟩ hm hk
  obtain ⟨o, ho, hm⟩ := List.mem_flatMap.1 hm
  have hlo := hl o ho
  simp only at hk
  subst hk
  by_cases hlane : o.lane = i
  · obtain ⟨h1, h2⟩ := h o ho hlane
    rcases List.mem_cons.1 hm with hm | hm
    · simp only [Prod.mk.injEq] at hm; omega
    · cases hh : o.hi <;> rw [hh] at hm <;> simp at hm
      have := h2 (by simp [hh])
      omega
  · rcases List.mem_cons.1 hm with hm | hm
    · simp only [Prod.mk.injEq] at hm; omega
    · cases hh : o.hi <;> rw [hh] at hm <;> simp at hm
      omega

/-- The status after lane results are committed. -/
theorem lstat_commitGroup {e : Ex} {d : Nat} {cls : TagClass} {outs : List LaneOut} {g : Group} {o : LaneOut}
    (hn : (outs.map fun o => o.lane).Nodup) (ho : o ∈ outs) :
    lstatOf (commitGroup e d cls outs g) o.lane =
      lstatOf g o.lane ||| plainStatus o ||| (plainStatus o <<< (8 : Nat)) := by
  have key : ∀ j, lstatOf (commitGroup e d cls outs g) j = lstatOf (recordBits (writeCells g (outs.flatMap fun o =>
      (d * 64 + o.lane, (o.lo, plainTag e cls o)) ::
        (match o.hi with | some h => [((d + 1) * 64 + o.lane, (h, plainTag e cls o))] | none => [])))
      ((outs.map fun o => (o.lane, plainStatus o)).filter fun w => w.2 ≠ 0#32)) j := fun _ => rfl
  rw [key]
  by_cases hz : plainStatus o = 0#32
  · rw [lstat_recordBits_out]
    · rw [hz]; simp; rfl
    · rintro ⟨j, b⟩ hw hj
      obtain ⟨hw, hb⟩ := List.mem_filter.1 hw
      obtain ⟨o', ho', heq⟩ := List.mem_map.1 hw
      simp only [Prod.mk.injEq] at heq
      have : o' = o := List.inj_on_of_nodup_map hn ho' ho (by rw [heq.1]; exact hj)
      subst this
      simp [← heq.2, hz] at hb
  · rw [lstat_recordBits_in (b := plainStatus o)]
    · rfl
    · exact List.mem_filter.2 ⟨List.mem_map.2 ⟨o, ho, rfl⟩, by simpa using hz⟩
    · refine List.Nodup.sublist (List.Sublist.map _ List.filter_sublist) ?_
      rw [List.map_map]
      exact hn

theorem lstat_commitGroup_out {e : Ex} {d : Nat} {cls : TagClass} {outs : List LaneOut} {g : Group} {j : Nat}
    (h : ∀ o ∈ outs, o.lane ≠ j) : lstatOf (commitGroup e d cls outs g) j = lstatOf g j := by
  have key : lstatOf (commitGroup e d cls outs g) j = lstatOf (recordBits (writeCells g (outs.flatMap fun o =>
      (d * 64 + o.lane, (o.lo, plainTag e cls o)) ::
        (match o.hi with | some h => [((d + 1) * 64 + o.lane, (h, plainTag e cls o))] | none => [])))
      ((outs.map fun o => (o.lane, plainStatus o)).filter fun w => w.2 ≠ 0#32)) j := rfl
  rw [key, lstat_recordBits_out]
  · rfl
  · intro w hw
    obtain ⟨o, ho, rfl⟩ := List.mem_map.1 (List.mem_filter.1 hw).1
    exact h o ho

/-- The dice states after lane results are committed. -/
theorem dice_commitGroup {e : Ex} {d : Nat} {cls : TagClass} {outs : List LaneOut} {g : Group} {o : LaneOut}
    (hn : (outs.map fun o => o.lane).Nodup) (ho : o ∈ outs) :
    diceOf (commitGroup e d cls outs g) o.lane = o.dice.getD (diceOf g o.lane) := by
  cases hd : o.dice with
  | some x =>
    refine dice_writeDice_in ?_ ?_
    · exact List.mem_filterMap.2 ⟨o, ho, by simp [hd]⟩
    · intro y hy
      obtain ⟨o', ho', hy⟩ := List.mem_filterMap.1 hy
      obtain ⟨x', hx', heq⟩ := Option.map_eq_some_iff.1 hy
      simp only [Prod.mk.injEq] at heq
      have : o' = o := List.inj_on_of_nodup_map hn ho' ho heq.1
      subst this
      simp only [hd, Option.some.injEq] at hx'
      simp [← heq.2, ← hx']
  | none =>
    simp only [Option.getD_none]
    have : diceOf (commitGroup e d cls outs g) o.lane = diceOf g o.lane := by
      refine (dice_writeDice_out ?_).trans rfl
      intro w hw hj
      obtain ⟨o', ho', hy⟩ := List.mem_filterMap.1 hw
      obtain ⟨x', hx', heq⟩ := Option.map_eq_some_iff.1 hy
      subst heq
      have : o' = o := List.inj_on_of_nodup_map hn ho' ho hj
      subst this
      simp [hd] at hx'
    exact this

theorem dice_commitGroup_out {e : Ex} {d : Nat} {cls : TagClass} {outs : List LaneOut} {g : Group} {j : Nat}
    (h : ∀ o ∈ outs, o.lane ≠ j) : diceOf (commitGroup e d cls outs g) j = diceOf g j := by
  refine (dice_writeDice_out ?_).trans rfl
  intro w hw hj
  obtain ⟨o, ho, hy⟩ := List.mem_filterMap.1 hw
  obtain ⟨x, hx, heq⟩ := Option.map_eq_some_iff.1 hy
  subst heq
  exact h o ho hj

end Sys2Proof.Machine
end

