-- ==== Sys2Proof/Laws/Integer.lean ====
section
/-! SUPPORT. What a word does whose body is one of the shared bodies: a scalar operation, and a vector operation that commits
lane results. Each is said once, for every word that `runs`. -/

namespace Sys2Proof.Machine

/-- The status of a group after one bit pattern is recorded in every active lane. -/
theorem lstat_recordAll {e : Ex} {g : Group} {b : Word} {j : Nat} :
    lstatOf (recordBits g ((e.lanes.map fun i => (i, b)).filter fun w => w.2 ≠ 0#32)) j =
      if j ∈ e.lanes then lstatOf g j ||| b ||| (b <<< (8 : Nat)) else lstatOf g j := by
  by_cases hj : j ∈ e.lanes
  · rw [if_pos hj]
    by_cases hz : b = 0#32
    · rw [lstat_recordBits_out, hz]
      · simp
      · intro w hw
        obtain ⟨hw, hb⟩ := List.mem_filter.1 hw
        obtain ⟨i, -, rfl⟩ := List.mem_map.1 hw
        simp [hz] at hb
    · rw [lstat_recordBits_in (b := b)]
      · exact List.mem_filter.2 ⟨List.mem_map.2 ⟨j, hj, rfl⟩, by simpa using hz⟩
      · refine List.Nodup.sublist (List.Sublist.map _ List.filter_sublist) ?_
        rw [List.map_map]
        exact (List.map_id e.lanes).symm ▸ lanes_nodup e
  · rw [if_neg hj, lstat_recordBits_out]
    intro w hw hj'
    obtain ⟨i, hi, rfl⟩ := List.mem_map.1 (List.mem_filter.1 hw).1
    exact hj (hj' ▸ hi)

/-- A scalar word that runs (R178): one result, one tag, its events in every active lane, nothing else. -/
theorem scalarBody_word {s : State} {e : Ex} {i : Instr} {d a b : BitVec 8} {two : Bool} {f : Word → Word → Word × Events}
    (he : exOf s = some e) (h : runs s e i = true) :
    ∃ t e', plainWord i (scalarBody d a b two f) s = .next t ∧ groupOnly s t e e' ∧
      e'.g = { e.g with sregs := e'.g.sregs, lstat := e'.g.lstat } ∧
      sreg e'.g (d.toNat - 0xC0) =
        ((f (operand e .int a.toNat 0 0#32).1 (operand e .int b.toNat 0 0#32).1).1,
          ruleTag (ruleOf e) .produce (own e)
            (if two then [(operand e .int a.toNat 0 0#32).2, (operand e .int b.toNat 0 0#32).2]
              else [(operand e .int a.toNat 0 0#32).2]) (operand e .int a.toNat 0 0#32).2
            (if two then (operand e .int b.toNat 0 0#32).2 else 0#16) (sreg e.g (d.toNat - 0xC0)).2) ∧
      (∀ k, k ≠ d.toNat - 0xC0 → sreg e'.g k = sreg e.g k) ∧
      ∀ j, lstatOf e'.g j =
        if j ∈ e.lanes then lstatOf e.g j ||| evWord (f (operand e .int a.toNat 0 0#32).1 (operand e .int b.toNat 0 0#32).1).2 |||
          (evWord (f (operand e .int a.toNat 0 0#32).1 (operand e .int b.toNat 0 0#32).1).2 <<< (8 : Nat))
        else lstatOf e.g j := by
  have hq := (runs_iff.1 h).2.2.2.2.2.2.2.2
  have hd := groupWord_done (body := fun e s => .done (scalarBody d a b two f e s)) he h rfl rfl rfl
    (by simp [scalarBody, recordAll, putS, tidy]) ((lsSettled_congr (s := s) rfl).trans hq.2.2)
  let c : Cell := ((f (operand e .int a.toNat 0 0#32).1 (operand e .int b.toNat 0 0#32).1).1,
          ruleTag (ruleOf e) .produce (own e)
            (if two then [(operand e .int a.toNat 0 0#32).2, (operand e .int b.toNat 0 0#32).2]
              else [(operand e .int a.toNat 0 0#32).2]) (operand e .int a.toNat 0 0#32).2
            (if two then (operand e .int b.toNat 0 0#32).2 else 0#16) (sreg e.g (d.toNat - 0xC0)).2)
  let ev := evWord (f (operand e .int a.toNat 0 0#32).1 (operand e .int b.toNat 0 0#32).1).2
  let fg : Group → Group := fun g =>
    recordBits (writeScalars g [(d.toNat - 0xC0, c)]) ((e.lanes.map fun i => (i, ev)).filter fun w => w.2 ≠ 0#32)
  have hg := groupOnly_complete (r := scalarBody d a b two f e (tidy s)) (fg := fg) he (fun _ => ⟨rfl, rfl⟩)
    (by
      simp only [scalarBody, recordAll, record, putS, setGroup, updGroup, tidy]
      rw [updGroups_twice]
      exact fun _ => ⟨rfl, rfl⟩)
    (by simp only [scalarBody, recordAll, record, putS, setGroup, updGroup, tidy])
  refine ⟨_, _, hd, hg, rfl, sreg_writeScalars_one hq.1, ?_, fun j => lstat_recordAll⟩
  intro k hk
  exact sreg_writeScalars_out hq.1 (by simpa [eq_comm] using hk)

/-- A word that runs and commits lane results, none of which calls for a capture: the frame, and the group it leaves. -/
theorem commitLanes_word {s : State} {e : Ex} {i : Instr} {d : Nat} {cls : TagClass} {f : Bool} {outs : Ex → List LaneOut}
    (he : exOf s = some e) (h : runs s e i = true)
    (hc : ∀ k, ∀ o ∈ outs e, capturable e.lch (hasRing s e.lch.ctx) (ruleOf e) cls o k = false) :
    ∃ t, plainWord i (fun e s => commitLanes s e d cls f (outs e)) s = .next t ∧
      groupOnly s t e ⟨e.lch, counted e.tm, commitGroup e d cls (outs e) e.g, retired e.x (e.x.pc + 4#64)⟩ := by
  obtain ⟨fx, hfx, hr⟩ := commitLanes_eq (s := tidy s) (e := e) (d := d) (cls := cls) (f := f) (outs := outs e) hc
  have hd := groupWord_done (body := fun e s => .done (commitLanes s e d cls f (outs e))) he h rfl
    (by rw [hr]; rfl) (by rw [hr]; rfl) (by rw [hr]; simpa [tidy] using hfx)
    ((lsSettled_congr (s := s) (by rw [hr]; rfl)).trans (runs_iff.1 h).2.2.2.2.2.2.2.2.2.2)
  refine ⟨_, hd, ?_⟩
  refine groupOnly_complete (fg := commitGroup e d cls (outs e)) he (fun _ => ⟨rfl, rfl⟩) ?_ ?_
  · rw [hr]; rfl
  · rw [hr]; rfl

/-- Every field of the group that lane results do not reach. -/
theorem commitGroup_frame (e : Ex) (d : Nat) (cls : TagClass) (outs : List LaneOut) (g : Group) :
    commitGroup e d cls outs g = { g with
      vregs := (commitGroup e d cls outs g).vregs, lstat := (commitGroup e d cls outs g).lstat
      dice := (commitGroup e d cls outs g).dice } := rfl

/-- Lane results made one per active lane name each lane once. -/
theorem lanes_map_nodup {e : Ex} {f : Nat → LaneOut} (hf : ∀ j, (f j).lane = j) :
    ((e.lanes.map f).map fun o => o.lane).Nodup := by
  rw [List.map_map]
  have : ((fun o : LaneOut => o.lane) ∘ f) = id := by funext j; exact hf j
  rw [this, List.map_id]
  exact lanes_nodup e

theorem lanes_map_lt {e : Ex} {f : Nat → LaneOut} (hf : ∀ j, (f j).lane = j) : ∀ o ∈ e.lanes.map f, o.lane < 64 := by
  intro o ho
  obtain ⟨j, hj, rfl⟩ := List.mem_map.1 ho
  rw [hf j]
  exact lane_lt hj

/-- The dice state of a lane after its draws. -/
theorem drawn_getD {e : Ex} {i : Nat} {x : Word} : (drawn e i x).getD (diceOf e.g i) = x := by
  unfold drawn
  split <;> simp_all

/-- A vector integer word that runs (R178): each active lane takes its result and its tag, records its events and keeps its
draws, and nothing else changes. -/
theorem vecBody_word {s : State} {e : Ex} {i : Instr} {d a b : BitVec 8} {n u cls} {f : Word → Word → Word → Word × Events}
    (he : exOf s = some e) (h : runs s e i = true) :
    let q := fun j => lanePair e .int .int a.toNat (if n = 2 then b.toNat else 0xF0) j
    let c := fun j => vreg e.g d.toNat j
    ∃ t e', plainWord i (vecBody d a b n u cls f) s = .next t ∧ groupOnly s t e e' ∧
      e'.g = { e.g with vregs := e'.g.vregs, lstat := e'.g.lstat, dice := e'.g.dice } ∧
      (∀ j ∈ e.lanes, vreg e'.g d.toNat j = ((f (q j).1.1 (q j).2.1.1 (c j).1).1,
        ruleTag (ruleOf e) cls (own e)
          ((q j).1.2 :: (if n = 2 then [(q j).2.1.2] else []) ++ (if u then [(c j).2] else [])) (q j).1.2
          (if n = 2 then (q j).2.1.2 else 0#16) (c j).2)) ∧
      (∀ r j, j < 64 → ¬(r = d.toNat ∧ j ∈ e.lanes) → vreg e'.g r j = vreg e.g r j) ∧
      (∀ j, lstatOf e'.g j =
        if j ∈ e.lanes then lstatOf e.g j ||| evWord (f (q j).1.1 (q j).2.1.1 (c j).1).2 ||| (evWord (f (q j).1.1 (q j).2.1.1 (c j).1).2 <<< (8 : Nat))
        else lstatOf e.g j) ∧
      ∀ j, diceOf e'.g j = if j ∈ e.lanes then (q j).2.2 else diceOf e.g j := by
  intro q c
  have hc : ∀ k, ∀ o ∈ (e.lanes.map (vecLane d a b n u f e)), capturable e.lch (hasRing s e.lch.ctx) (ruleOf e) cls o k = false := by
    intro k o ho
    obtain ⟨j, hj, rfl⟩ := List.mem_map.1 ho
    exact not_capturable_of_born rfl
  obtain ⟨t, h1, h2⟩ := commitLanes_word (d := d.toNat) (f := false) (outs := fun e => e.lanes.map (vecLane d a b n u f e)) he h hc
  refine ⟨t, _, h1, h2, rfl, ?_, ?_, ?_, ?_⟩
  · intro j hj
    have := vreg_commitGroup (e := e) (d := d.toNat) (cls := cls) (g := e.g) (o := vecLane d a b n u f e j) (lanes_map_nodup (fun _ => rfl)) (lanes_map_lt fun _ => rfl) (by intro o ho; obtain ⟨j, hj, rfl⟩ := List.mem_map.1 ho; rfl) (List.mem_map.2 ⟨j, hj, rfl⟩)
    refine this.trans ?_
    unfold plainTag LaneOut.srcs
    by_cases hn : n = 2 <;> cases u <;> simp [vecLane, optTag, hn, q, c]
  · intro r j hj hr
    refine vreg_commitGroup_out hj (lanes_map_lt fun _ => rfl) ?_
    intro o ho hl
    obtain ⟨k, hk, rfl⟩ := List.mem_map.1 ho
    have : k = j := hl
    subst this
    simp [hk] at hr
    simp [hr, vecLane]
  · intro j
    split
    · rename_i hj
      have := lstat_commitGroup (e := e) (d := d.toNat) (cls := cls) (g := e.g) (o := vecLane d a b n u f e j) (lanes_map_nodup (fun _ => rfl)) (List.mem_map.2 ⟨j, hj, rfl⟩)
      refine this.trans ?_
      simp [plainStatus, LaneOut.causes, vecLane, q, c]
    · rename_i hj
      refine lstat_commitGroup_out ?_
      intro o ho; obtain ⟨k, hk, rfl⟩ := List.mem_map.1 ho
      rintro rfl; exact hj hk
  · intro j
    split
    · rename_i hj
      have := dice_commitGroup (e := e) (d := d.toNat) (cls := cls) (g := e.g) (o := vecLane d a b n u f e j) (lanes_map_nodup (fun _ => rfl)) (List.mem_map.2 ⟨j, hj, rfl⟩)
      refine this.trans ?_
      exact drawn_getD
    · rename_i hj
      refine dice_commitGroup_out ?_
      intro o ho; obtain ⟨k, hk, rfl⟩ := List.mem_map.1 ho
      rintro rfl; exact hj hk

end Sys2Proof.Machine
end

