-- ==== Sys2Proof/Laws/PerInstr.lean ====
section
/-! SUPPORT. The encoding of every instruction, one lemma per constructor: a well-formed instruction with a word is what that
word decodes to; an event has no word. -/

namespace Sys2Proof.Laws
open Sys2Proof

/-- A well-formed instruction's word decodes to it. -/
def Encoding.Statement (i : Instr) : Prop := ∀ w, encode i = some w → i.wellFormed = true → decode w = some i

/-- The decoder's row of an opcode. -/
def Encoding.rows (x : BitVec 8) (w : BitVec 32) : Option Instr :=
  let lo := (x.extractLsb' 0 4).toNat
  match (x.extractLsb' 4 4).toNat with
  | 0x0 => decode0 w lo | 0x1 => decode1 w lo | 0x2 => decode2 w lo | 0x3 => decode3 w lo
  | 0x4 => decode4 w lo | 0x5 => decode5 w lo | 0x6 => decode6 w lo | 0x7 => decode7 w lo
  | 0x8 => decode8 w lo | 0x9 => decode9 w lo | 0xA => decodeA w lo | 0xB => decodeB w lo
  | 0xC => decodeC w lo | 0xD => decodeD w lo | 0xE => decodeE w lo | 0xF => decodeF w lo
  | _ => none

theorem Encoding.decode_eq {x : BitVec 8} {w : BitVec 32} (h : fld w 24 8 = x) (hr : reservedOp x.toNat = false) :
    decode w = Encoding.rows x w := by
  subst h
  have e1 : ((fld w 24 8).extractLsb' 0 4) = fld w 24 4 := by
    apply BitVec.eq_of_toNat_eq
    simp only [fld, BitVec.extractLsb'_toNat, Nat.shiftRight_eq_div_pow]; omega
  have e2 : ((fld w 24 8).extractLsb' 4 4) = fld w 28 4 := by
    apply BitVec.eq_of_toNat_eq
    simp only [fld, BitVec.extractLsb'_toNat, Nat.shiftRight_eq_div_pow]; omega
  have hr' : reservedOp (opcode w) = false := hr
  have key : ∀ r : Option Instr, (match r with
      | some i => Except.ok i
      | none => Except.error (DecodeReject.reservedBits w) : Except DecodeReject Instr).toOption = r := by
    intro r; cases r <;> rfl
  unfold decode decodeWord
  rw [hr', if_neg Bool.false_ne_true]
  simp only [Encoding.rows, e1, e2]
  exact key _

/-- A row of the opcode table: the word's opcode picks it, its fixed bits stand, and its fields are the instruction's. -/
theorem Encoding.row {i j : Instr} {w m v : BitVec 32} {x : BitVec 8} (he : encode i = some w) (ho : fld w 24 8 = x)
    (hr : reservedOp x.toNat = false) (hd : Encoding.rows x w = fixedBits w m v j) (hm : w &&& m = v) (hj : j = i) :
    Encoding.Statement i := by
  intro u hu _
  obtain rfl : w = u := by simpa [he] using hu
  subst hj
  rw [Encoding.decode_eq ho hr, hd, fixedBits, if_pos hm]

theorem Encoding.and_append {n k : Nat} (a c : BitVec n) (b d : BitVec k) :
    (a ++ b) &&& (c ++ d) = (a &&& c) ++ (b &&& d) := by
  ext i hi; simp only [BitVec.getElem_and, BitVec.getElem_append]; split <;> simp

theorem Encoding.event {i : Instr} (h : encode i = none) : Encoding.Statement i := by
  intro w hw; simp [h] at hw

theorem Encoding.closed {i : Instr} {w : BitVec 32} (h : encode i = some w) (hd : decode w = some i) :
    Encoding.Statement i := by
  intro u hu _; obtain rfl : w = u := by simpa [h] using hu
  exact hd

/-! ## The fields of a word, by the widths of its parts -/

theorem Encoding.mask_8_24 (a a' : BitVec 8) (b b' : BitVec 24) :
    (a ++ b : BitVec 32) &&& (a' ++ b' : BitVec 32) =
      (a &&& a') ++ (b &&& b') :=
  Encoding.and_append a a' b b'

theorem Encoding.fields_8_24 (a : BitVec 8) (b : BitVec 24) :
    fld (a ++ b) 24 8 = a ∧
      fld (a ++ b) 0 24 = b := by
  simp (disch := decide) only [fld, BitVec.extractLsb'_append_eq_of_add_le, BitVec.extractLsb'_append_eq_of_le,
    Nat.reduceSub, BitVec.extractLsb'_eq_self, and_self]

theorem Encoding.mask_8_1_1_1_1_1_1_5_3_3_4_3 (a a' : BitVec 8) (b b' : BitVec 1) (c c' : BitVec 1) (d d' : BitVec 1) (e e' : BitVec 1) (f f' : BitVec 1) (g g' : BitVec 1) (h h' : BitVec 5) (i i' : BitVec 3) (j j' : BitVec 3) (k k' : BitVec 4) (l l' : BitVec 3) :
    (a ++ b ++ c ++ d ++ e ++ f ++ g ++ h ++ i ++ j ++ k ++ l : BitVec 32) &&& (a' ++ b' ++ c' ++ d' ++ e' ++ f' ++ g' ++ h' ++ i' ++ j' ++ k' ++ l' : BitVec 32) =
      (a &&& a') ++ (b &&& b') ++ (c &&& c') ++ (d &&& d') ++ (e &&& e') ++ (f &&& f') ++ (g &&& g') ++ (h &&& h') ++ (i &&& i') ++ (j &&& j') ++ (k &&& k') ++ (l &&& l') :=
  (Encoding.and_append _ _ _ _).trans (congrArg (fun z => z ++ (l &&& l')) ((Encoding.and_append _ _ _ _).trans (congrArg (fun z => z ++ (k &&& k')) ((Encoding.and_append _ _ _ _).trans (congrArg (fun z => z ++ (j &&& j')) ((Encoding.and_append _ _ _ _).trans (congrArg (fun z => z ++ (i &&& i')) ((Encoding.and_append _ _ _ _).trans (congrArg (fun z => z ++ (h &&& h')) ((Encoding.and_append _ _ _ _).trans (congrArg (fun z => z ++ (g &&& g')) ((Encoding.and_append _ _ _ _).trans (congrArg (fun z => z ++ (f &&& f')) ((Encoding.and_append _ _ _ _).trans (congrArg (fun z => z ++ (e &&& e')) ((Encoding.and_append _ _ _ _).trans (congrArg (fun z => z ++ (d &&& d')) ((Encoding.and_append _ _ _ _).trans (congrArg (fun z => z ++ (c &&& c')) (Encoding.and_append a a' b b'))))))))))))))))))))

theorem Encoding.fields_8_1_1_1_1_1_1_5_3_3_4_3 (a : BitVec 8) (b : BitVec 1) (c : BitVec 1) (d : BitVec 1) (e : BitVec 1) (f : BitVec 1) (g : BitVec 1) (h : BitVec 5) (i : BitVec 3) (j : BitVec 3) (k : BitVec 4) (l : BitVec 3) :
    fld (a ++ b ++ c ++ d ++ e ++ f ++ g ++ h ++ i ++ j ++ k ++ l) 24 8 = a ∧
      fld (a ++ b ++ c ++ d ++ e ++ f ++ g ++ h ++ i ++ j ++ k ++ l) 23 1 = b ∧
      fld (a ++ b ++ c ++ d ++ e ++ f ++ g ++ h ++ i ++ j ++ k ++ l) 22 1 = c ∧
      fld (a ++ b ++ c ++ d ++ e ++ f ++ g ++ h ++ i ++ j ++ k ++ l) 21 1 = d ∧
      fld (a ++ b ++ c ++ d ++ e ++ f ++ g ++ h ++ i ++ j ++ k ++ l) 20 1 = e ∧
      fld (a ++ b ++ c ++ d ++ e ++ f ++ g ++ h ++ i ++ j ++ k ++ l) 19 1 = f ∧
      fld (a ++ b ++ c ++ d ++ e ++ f ++ g ++ h ++ i ++ j ++ k ++ l) 18 1 = g ∧
      fld (a ++ b ++ c ++ d ++ e ++ f ++ g ++ h ++ i ++ j ++ k ++ l) 13 5 = h ∧
      fld (a ++ b ++ c ++ d ++ e ++ f ++ g ++ h ++ i ++ j ++ k ++ l) 10 3 = i ∧
      fld (a ++ b ++ c ++ d ++ e ++ f ++ g ++ h ++ i ++ j ++ k ++ l) 7 3 = j ∧
      fld (a ++ b ++ c ++ d ++ e ++ f ++ g ++ h ++ i ++ j ++ k ++ l) 3 4 = k ∧
      fld (a ++ b ++ c ++ d ++ e ++ f ++ g ++ h ++ i ++ j ++ k ++ l) 0 3 = l := by
  simp (disch := decide) only [fld, BitVec.extractLsb'_append_eq_of_add_le, BitVec.extractLsb'_append_eq_of_le,
    Nat.reduceSub, BitVec.extractLsb'_eq_self, and_self]

theorem Encoding.mask_8_5_1_1_1_1_15 (a a' : BitVec 8) (b b' : BitVec 5) (c c' : BitVec 1) (d d' : BitVec 1) (e e' : BitVec 1) (f f' : BitVec 1) (g g' : BitVec 15) :
    (a ++ b ++ c ++ d ++ e ++ f ++ g : BitVec 32) &&& (a' ++ b' ++ c' ++ d' ++ e' ++ f' ++ g' : BitVec 32) =
      (a &&& a') ++ (b &&& b') ++ (c &&& c') ++ (d &&& d') ++ (e &&& e') ++ (f &&& f') ++ (g &&& g') :=
  (Encoding.and_append _ _ _ _).trans (congrArg (fun z => z ++ (g &&& g')) ((Encoding.and_append _ _ _ _).trans (congrArg (fun z => z ++ (f &&& f')) ((Encoding.and_append _ _ _ _).trans (congrArg (fun z => z ++ (e &&& e')) ((Encoding.and_append _ _ _ _).trans (congrArg (fun z => z ++ (d &&& d')) ((Encoding.and_append _ _ _ _).trans (congrArg (fun z => z ++ (c &&& c')) (Encoding.and_append a a' b b'))))))))))

theorem Encoding.fields_8_5_1_1_1_1_15 (a : BitVec 8) (b : BitVec 5) (c : BitVec 1) (d : BitVec 1) (e : BitVec 1) (f : BitVec 1) (g : BitVec 15) :
    fld (a ++ b ++ c ++ d ++ e ++ f ++ g) 24 8 = a ∧
      fld (a ++ b ++ c ++ d ++ e ++ f ++ g) 19 5 = b ∧
      fld (a ++ b ++ c ++ d ++ e ++ f ++ g) 18 1 = c ∧
      fld (a ++ b ++ c ++ d ++ e ++ f ++ g) 17 1 = d ∧
      fld (a ++ b ++ c ++ d ++ e ++ f ++ g) 16 1 = e ∧
      fld (a ++ b ++ c ++ d ++ e ++ f ++ g) 15 1 = f ∧
      fld (a ++ b ++ c ++ d ++ e ++ f ++ g) 0 15 = g := by
  simp (disch := decide) only [fld, BitVec.extractLsb'_append_eq_of_add_le, BitVec.extractLsb'_append_eq_of_le,
    Nat.reduceSub, BitVec.extractLsb'_eq_self, and_self]

theorem Encoding.mask_12_1_3_16 (a a' : BitVec 12) (b b' : BitVec 1) (c c' : BitVec 3) (d d' : BitVec 16) :
    (a ++ b ++ c ++ d : BitVec 32) &&& (a' ++ b' ++ c' ++ d' : BitVec 32) =
      (a &&& a') ++ (b &&& b') ++ (c &&& c') ++ (d &&& d') :=
  (Encoding.and_append _ _ _ _).trans (congrArg (fun z => z ++ (d &&& d')) ((Encoding.and_append _ _ _ _).trans (congrArg (fun z => z ++ (c &&& c')) (Encoding.and_append a a' b b'))))

theorem Encoding.fields_12_1_3_16 (a : BitVec 12) (b : BitVec 1) (c : BitVec 3) (d : BitVec 16) :
    fld (a ++ b ++ c ++ d) 24 8 = a.extractLsb' 4 8 ∧
      fld (a ++ b ++ c ++ d) 19 1 = b ∧
      fld (a ++ b ++ c ++ d) 16 3 = c ∧
      fld (a ++ b ++ c ++ d) 0 16 = d := by
  simp (disch := decide) only [fld, BitVec.extractLsb'_append_eq_of_add_le, BitVec.extractLsb'_append_eq_of_le,
    Nat.reduceSub, BitVec.extractLsb'_eq_self, and_self]

theorem Encoding.mask_16_16 (a a' : BitVec 16) (b b' : BitVec 16) :
    (a ++ b : BitVec 32) &&& (a' ++ b' : BitVec 32) =
      (a &&& a') ++ (b &&& b') :=
  Encoding.and_append a a' b b'

theorem Encoding.fields_16_16 (a : BitVec 16) (b : BitVec 16) :
    fld (a ++ b) 24 8 = a.extractLsb' 8 8 ∧
      fld (a ++ b) 0 16 = b := by
  simp (disch := decide) only [fld, BitVec.extractLsb'_append_eq_of_add_le, BitVec.extractLsb'_append_eq_of_le,
    Nat.reduceSub, BitVec.extractLsb'_eq_self, and_self]

theorem Encoding.mask_8_8_8_8 (a a' : BitVec 8) (b b' : BitVec 8) (c c' : BitVec 8) (d d' : BitVec 8) :
    (a ++ b ++ c ++ d : BitVec 32) &&& (a' ++ b' ++ c' ++ d' : BitVec 32) =
      (a &&& a') ++ (b &&& b') ++ (c &&& c') ++ (d &&& d') :=
  (Encoding.and_append _ _ _ _).trans (congrArg (fun z => z ++ (d &&& d')) ((Encoding.and_append _ _ _ _).trans (congrArg (fun z => z ++ (c &&& c')) (Encoding.and_append a a' b b'))))

theorem Encoding.fields_8_8_8_8 (a : BitVec 8) (b : BitVec 8) (c : BitVec 8) (d : BitVec 8) :
    fld (a ++ b ++ c ++ d) 24 8 = a ∧
      fld (a ++ b ++ c ++ d) 16 8 = b ∧
      fld (a ++ b ++ c ++ d) 8 8 = c ∧
      fld (a ++ b ++ c ++ d) 0 8 = d := by
  simp (disch := decide) only [fld, BitVec.extractLsb'_append_eq_of_add_le, BitVec.extractLsb'_append_eq_of_le,
    Nat.reduceSub, BitVec.extractLsb'_eq_self, and_self]

theorem Encoding.mask_8_4_1_3_16 (a a' : BitVec 8) (b b' : BitVec 4) (c c' : BitVec 1) (d d' : BitVec 3) (e e' : BitVec 16) :
    (a ++ b ++ c ++ d ++ e : BitVec 32) &&& (a' ++ b' ++ c' ++ d' ++ e' : BitVec 32) =
      (a &&& a') ++ (b &&& b') ++ (c &&& c') ++ (d &&& d') ++ (e &&& e') :=
  (Encoding.and_append _ _ _ _).trans (congrArg (fun z => z ++ (e &&& e')) ((Encoding.and_append _ _ _ _).trans (congrArg (fun z => z ++ (d &&& d')) ((Encoding.and_append _ _ _ _).trans (congrArg (fun z => z ++ (c &&& c')) (Encoding.and_append a a' b b'))))))

theorem Encoding.fields_8_4_1_3_16 (a : BitVec 8) (b : BitVec 4) (c : BitVec 1) (d : BitVec 3) (e : BitVec 16) :
    fld (a ++ b ++ c ++ d ++ e) 24 8 = a ∧
      fld (a ++ b ++ c ++ d ++ e) 20 4 = b ∧
      fld (a ++ b ++ c ++ d ++ e) 19 1 = c ∧
      fld (a ++ b ++ c ++ d ++ e) 16 3 = d ∧
      fld (a ++ b ++ c ++ d ++ e) 0 16 = e := by
  simp (disch := decide) only [fld, BitVec.extractLsb'_append_eq_of_add_le, BitVec.extractLsb'_append_eq_of_le,
    Nat.reduceSub, BitVec.extractLsb'_eq_self, and_self]

theorem Encoding.mask_16_8_8 (a a' : BitVec 16) (b b' : BitVec 8) (c c' : BitVec 8) :
    (a ++ b ++ c : BitVec 32) &&& (a' ++ b' ++ c' : BitVec 32) =
      (a &&& a') ++ (b &&& b') ++ (c &&& c') :=
  (Encoding.and_append _ _ _ _).trans (congrArg (fun z => z ++ (c &&& c')) (Encoding.and_append a a' b b'))

theorem Encoding.fields_16_8_8 (a : BitVec 16) (b : BitVec 8) (c : BitVec 8) :
    fld (a ++ b ++ c) 24 8 = a.extractLsb' 8 8 ∧
      fld (a ++ b ++ c) 8 8 = b ∧
      fld (a ++ b ++ c) 0 8 = c := by
  simp (disch := decide) only [fld, BitVec.extractLsb'_append_eq_of_add_le, BitVec.extractLsb'_append_eq_of_le,
    Nat.reduceSub, BitVec.extractLsb'_eq_self, and_self]

theorem Encoding.mask_8_8_16 (a a' : BitVec 8) (b b' : BitVec 8) (c c' : BitVec 16) :
    (a ++ b ++ c : BitVec 32) &&& (a' ++ b' ++ c' : BitVec 32) =
      (a &&& a') ++ (b &&& b') ++ (c &&& c') :=
  (Encoding.and_append _ _ _ _).trans (congrArg (fun z => z ++ (c &&& c')) (Encoding.and_append a a' b b'))

theorem Encoding.fields_8_8_16 (a : BitVec 8) (b : BitVec 8) (c : BitVec 16) :
    fld (a ++ b ++ c) 24 8 = a ∧
      fld (a ++ b ++ c) 16 8 = b ∧
      fld (a ++ b ++ c) 0 16 = c := by
  simp (disch := decide) only [fld, BitVec.extractLsb'_append_eq_of_add_le, BitVec.extractLsb'_append_eq_of_le,
    Nat.reduceSub, BitVec.extractLsb'_eq_self, and_self]

theorem Encoding.mask_8_4_20 (a a' : BitVec 8) (b b' : BitVec 4) (c c' : BitVec 20) :
    (a ++ b ++ c : BitVec 32) &&& (a' ++ b' ++ c' : BitVec 32) =
      (a &&& a') ++ (b &&& b') ++ (c &&& c') :=
  (Encoding.and_append _ _ _ _).trans (congrArg (fun z => z ++ (c &&& c')) (Encoding.and_append a a' b b'))

theorem Encoding.fields_8_4_20 (a : BitVec 8) (b : BitVec 4) (c : BitVec 20) :
    fld (a ++ b ++ c) 24 8 = a ∧
      fld (a ++ b ++ c) 20 4 = b ∧
      fld (a ++ b ++ c) 0 20 = c := by
  simp (disch := decide) only [fld, BitVec.extractLsb'_append_eq_of_add_le, BitVec.extractLsb'_append_eq_of_le,
    Nat.reduceSub, BitVec.extractLsb'_eq_self, and_self]

theorem Encoding.mask_8_4_8_12 (a a' : BitVec 8) (b b' : BitVec 4) (c c' : BitVec 8) (d d' : BitVec 12) :
    (a ++ b ++ c ++ d : BitVec 32) &&& (a' ++ b' ++ c' ++ d' : BitVec 32) =
      (a &&& a') ++ (b &&& b') ++ (c &&& c') ++ (d &&& d') :=
  (Encoding.and_append _ _ _ _).trans (congrArg (fun z => z ++ (d &&& d')) ((Encoding.and_append _ _ _ _).trans (congrArg (fun z => z ++ (c &&& c')) (Encoding.and_append a a' b b'))))

theorem Encoding.fields_8_4_8_12 (a : BitVec 8) (b : BitVec 4) (c : BitVec 8) (d : BitVec 12) :
    fld (a ++ b ++ c ++ d) 24 8 = a ∧
      fld (a ++ b ++ c ++ d) 20 4 = b ∧
      fld (a ++ b ++ c ++ d) 12 8 = c ∧
      fld (a ++ b ++ c ++ d) 0 12 = d := by
  simp (disch := decide) only [fld, BitVec.extractLsb'_append_eq_of_add_le, BitVec.extractLsb'_append_eq_of_le,
    Nat.reduceSub, BitVec.extractLsb'_eq_self, and_self]

theorem Encoding.mask_8_3_2_3_8_8 (a a' : BitVec 8) (b b' : BitVec 3) (c c' : BitVec 2) (d d' : BitVec 3) (e e' : BitVec 8) (f f' : BitVec 8) :
    (a ++ b ++ c ++ d ++ e ++ f : BitVec 32) &&& (a' ++ b' ++ c' ++ d' ++ e' ++ f' : BitVec 32) =
      (a &&& a') ++ (b &&& b') ++ (c &&& c') ++ (d &&& d') ++ (e &&& e') ++ (f &&& f') :=
  (Encoding.and_append _ _ _ _).trans (congrArg (fun z => z ++ (f &&& f')) ((Encoding.and_append _ _ _ _).trans (congrArg (fun z => z ++ (e &&& e')) ((Encoding.and_append _ _ _ _).trans (congrArg (fun z => z ++ (d &&& d')) ((Encoding.and_append _ _ _ _).trans (congrArg (fun z => z ++ (c &&& c')) (Encoding.and_append a a' b b'))))))))

theorem Encoding.fields_8_3_2_3_8_8 (a : BitVec 8) (b : BitVec 3) (c : BitVec 2) (d : BitVec 3) (e : BitVec 8) (f : BitVec 8) :
    fld (a ++ b ++ c ++ d ++ e ++ f) 24 8 = a ∧
      fld (a ++ b ++ c ++ d ++ e ++ f) 21 3 = b ∧
      fld (a ++ b ++ c ++ d ++ e ++ f) 19 2 = c ∧
      fld (a ++ b ++ c ++ d ++ e ++ f) 16 3 = d ∧
      fld (a ++ b ++ c ++ d ++ e ++ f) 8 8 = e ∧
      fld (a ++ b ++ c ++ d ++ e ++ f) 0 8 = f := by
  simp (disch := decide) only [fld, BitVec.extractLsb'_append_eq_of_add_le, BitVec.extractLsb'_append_eq_of_le,
    Nat.reduceSub, BitVec.extractLsb'_eq_self, and_self]

theorem Encoding.mask_8_8_8_4_4 (a a' : BitVec 8) (b b' : BitVec 8) (c c' : BitVec 8) (d d' : BitVec 4) (e e' : BitVec 4) :
    (a ++ b ++ c ++ d ++ e : BitVec 32) &&& (a' ++ b' ++ c' ++ d' ++ e' : BitVec 32) =
      (a &&& a') ++ (b &&& b') ++ (c &&& c') ++ (d &&& d') ++ (e &&& e') :=
  (Encoding.and_append _ _ _ _).trans (congrArg (fun z => z ++ (e &&& e')) ((Encoding.and_append _ _ _ _).trans (congrArg (fun z => z ++ (d &&& d')) ((Encoding.and_append _ _ _ _).trans (congrArg (fun z => z ++ (c &&& c')) (Encoding.and_append a a' b b'))))))

theorem Encoding.fields_8_8_8_4_4 (a : BitVec 8) (b : BitVec 8) (c : BitVec 8) (d : BitVec 4) (e : BitVec 4) :
    fld (a ++ b ++ c ++ d ++ e) 24 8 = a ∧
      fld (a ++ b ++ c ++ d ++ e) 16 8 = b ∧
      fld (a ++ b ++ c ++ d ++ e) 8 8 = c ∧
      fld (a ++ b ++ c ++ d ++ e) 4 4 = d ∧
      fld (a ++ b ++ c ++ d ++ e) 0 4 = e := by
  simp (disch := decide) only [fld, BitVec.extractLsb'_append_eq_of_add_le, BitVec.extractLsb'_append_eq_of_le,
    Nat.reduceSub, BitVec.extractLsb'_eq_self, and_self]

theorem Encoding.mask_5_3_8_8_8 (a a' : BitVec 5) (b b' : BitVec 3) (c c' : BitVec 8) (d d' : BitVec 8) (e e' : BitVec 8) :
    (a ++ b ++ c ++ d ++ e : BitVec 32) &&& (a' ++ b' ++ c' ++ d' ++ e' : BitVec 32) =
      (a &&& a') ++ (b &&& b') ++ (c &&& c') ++ (d &&& d') ++ (e &&& e') :=
  (Encoding.and_append _ _ _ _).trans (congrArg (fun z => z ++ (e &&& e')) ((Encoding.and_append _ _ _ _).trans (congrArg (fun z => z ++ (d &&& d')) ((Encoding.and_append _ _ _ _).trans (congrArg (fun z => z ++ (c &&& c')) (Encoding.and_append a a' b b'))))))

theorem Encoding.fields_5_3_8_8_8 (a : BitVec 5) (b : BitVec 3) (c : BitVec 8) (d : BitVec 8) (e : BitVec 8) :
    fld (a ++ b ++ c ++ d ++ e) 24 3 = b ∧
      fld (a ++ b ++ c ++ d ++ e) 16 8 = c ∧
      fld (a ++ b ++ c ++ d ++ e) 8 8 = d ∧
      fld (a ++ b ++ c ++ d ++ e) 0 8 = e := by
  simp (disch := decide) only [fld, BitVec.extractLsb'_append_eq_of_add_le, BitVec.extractLsb'_append_eq_of_le,
    Nat.reduceSub, BitVec.extractLsb'_eq_self, and_self]

theorem Encoding.mask_8_8_6_2_1_3_4 (a a' : BitVec 8) (b b' : BitVec 8) (c c' : BitVec 6) (d d' : BitVec 2) (e e' : BitVec 1) (f f' : BitVec 3) (g g' : BitVec 4) :
    (a ++ b ++ c ++ d ++ e ++ f ++ g : BitVec 32) &&& (a' ++ b' ++ c' ++ d' ++ e' ++ f' ++ g' : BitVec 32) =
      (a &&& a') ++ (b &&& b') ++ (c &&& c') ++ (d &&& d') ++ (e &&& e') ++ (f &&& f') ++ (g &&& g') :=
  (Encoding.and_append _ _ _ _).trans (congrArg (fun z => z ++ (g &&& g')) ((Encoding.and_append _ _ _ _).trans (congrArg (fun z => z ++ (f &&& f')) ((Encoding.and_append _ _ _ _).trans (congrArg (fun z => z ++ (e &&& e')) ((Encoding.and_append _ _ _ _).trans (congrArg (fun z => z ++ (d &&& d')) ((Encoding.and_append _ _ _ _).trans (congrArg (fun z => z ++ (c &&& c')) (Encoding.and_append a a' b b'))))))))))

theorem Encoding.fields_8_8_6_2_1_3_4 (a : BitVec 8) (b : BitVec 8) (c : BitVec 6) (d : BitVec 2) (e : BitVec 1) (f : BitVec 3) (g : BitVec 4) :
    fld (a ++ b ++ c ++ d ++ e ++ f ++ g) 24 8 = a ∧
      fld (a ++ b ++ c ++ d ++ e ++ f ++ g) 16 8 = b ∧
      fld (a ++ b ++ c ++ d ++ e ++ f ++ g) 10 6 = c ∧
      fld (a ++ b ++ c ++ d ++ e ++ f ++ g) 8 2 = d ∧
      fld (a ++ b ++ c ++ d ++ e ++ f ++ g) 7 1 = e ∧
      fld (a ++ b ++ c ++ d ++ e ++ f ++ g) 4 3 = f ∧
      fld (a ++ b ++ c ++ d ++ e ++ f ++ g) 0 4 = g := by
  simp (disch := decide) only [fld, BitVec.extractLsb'_append_eq_of_add_le, BitVec.extractLsb'_append_eq_of_le,
    Nat.reduceSub, BitVec.extractLsb'_eq_self, and_self]

theorem Encoding.mask_8_8_8_4_1_3 (a a' : BitVec 8) (b b' : BitVec 8) (c c' : BitVec 8) (d d' : BitVec 4) (e e' : BitVec 1) (f f' : BitVec 3) :
    (a ++ b ++ c ++ d ++ e ++ f : BitVec 32) &&& (a' ++ b' ++ c' ++ d' ++ e' ++ f' : BitVec 32) =
      (a &&& a') ++ (b &&& b') ++ (c &&& c') ++ (d &&& d') ++ (e &&& e') ++ (f &&& f') :=
  (Encoding.and_append _ _ _ _).trans (congrArg (fun z => z ++ (f &&& f')) ((Encoding.and_append _ _ _ _).trans (congrArg (fun z => z ++ (e &&& e')) ((Encoding.and_append _ _ _ _).trans (congrArg (fun z => z ++ (d &&& d')) ((Encoding.and_append _ _ _ _).trans (congrArg (fun z => z ++ (c &&& c')) (Encoding.and_append a a' b b'))))))))

theorem Encoding.fields_8_8_8_4_1_3 (a : BitVec 8) (b : BitVec 8) (c : BitVec 8) (d : BitVec 4) (e : BitVec 1) (f : BitVec 3) :
    fld (a ++ b ++ c ++ d ++ e ++ f) 24 8 = a ∧
      fld (a ++ b ++ c ++ d ++ e ++ f) 16 8 = b ∧
      fld (a ++ b ++ c ++ d ++ e ++ f) 8 8 = c ∧
      fld (a ++ b ++ c ++ d ++ e ++ f) 4 4 = d ∧
      fld (a ++ b ++ c ++ d ++ e ++ f) 3 1 = e ∧
      fld (a ++ b ++ c ++ d ++ e ++ f) 0 3 = f := by
  simp (disch := decide) only [fld, BitVec.extractLsb'_append_eq_of_add_le, BitVec.extractLsb'_append_eq_of_le,
    Nat.reduceSub, BitVec.extractLsb'_eq_self, and_self]

theorem Encoding.mask_8_8_8_2_1_5 (a a' : BitVec 8) (b b' : BitVec 8) (c c' : BitVec 8) (d d' : BitVec 2) (e e' : BitVec 1) (f f' : BitVec 5) :
    (a ++ b ++ c ++ d ++ e ++ f : BitVec 32) &&& (a' ++ b' ++ c' ++ d' ++ e' ++ f' : BitVec 32) =
      (a &&& a') ++ (b &&& b') ++ (c &&& c') ++ (d &&& d') ++ (e &&& e') ++ (f &&& f') :=
  (Encoding.and_append _ _ _ _).trans (congrArg (fun z => z ++ (f &&& f')) ((Encoding.and_append _ _ _ _).trans (congrArg (fun z => z ++ (e &&& e')) ((Encoding.and_append _ _ _ _).trans (congrArg (fun z => z ++ (d &&& d')) ((Encoding.and_append _ _ _ _).trans (congrArg (fun z => z ++ (c &&& c')) (Encoding.and_append a a' b b'))))))))

theorem Encoding.fields_8_8_8_2_1_5 (a : BitVec 8) (b : BitVec 8) (c : BitVec 8) (d : BitVec 2) (e : BitVec 1) (f : BitVec 5) :
    fld (a ++ b ++ c ++ d ++ e ++ f) 24 8 = a ∧
      fld (a ++ b ++ c ++ d ++ e ++ f) 16 8 = b ∧
      fld (a ++ b ++ c ++ d ++ e ++ f) 8 8 = c ∧
      fld (a ++ b ++ c ++ d ++ e ++ f) 6 2 = d ∧
      fld (a ++ b ++ c ++ d ++ e ++ f) 5 1 = e ∧
      fld (a ++ b ++ c ++ d ++ e ++ f) 0 5 = f := by
  simp (disch := decide) only [fld, BitVec.extractLsb'_append_eq_of_add_le, BitVec.extractLsb'_append_eq_of_le,
    Nat.reduceSub, BitVec.extractLsb'_eq_self, and_self]

theorem Encoding.mask_8_8_8_2_6 (a a' : BitVec 8) (b b' : BitVec 8) (c c' : BitVec 8) (d d' : BitVec 2) (e e' : BitVec 6) :
    (a ++ b ++ c ++ d ++ e : BitVec 32) &&& (a' ++ b' ++ c' ++ d' ++ e' : BitVec 32) =
      (a &&& a') ++ (b &&& b') ++ (c &&& c') ++ (d &&& d') ++ (e &&& e') :=
  (Encoding.and_append _ _ _ _).trans (congrArg (fun z => z ++ (e &&& e')) ((Encoding.and_append _ _ _ _).trans (congrArg (fun z => z ++ (d &&& d')) ((Encoding.and_append _ _ _ _).trans (congrArg (fun z => z ++ (c &&& c')) (Encoding.and_append a a' b b'))))))

theorem Encoding.fields_8_8_8_2_6 (a : BitVec 8) (b : BitVec 8) (c : BitVec 8) (d : BitVec 2) (e : BitVec 6) :
    fld (a ++ b ++ c ++ d ++ e) 24 8 = a ∧
      fld (a ++ b ++ c ++ d ++ e) 16 8 = b ∧
      fld (a ++ b ++ c ++ d ++ e) 8 8 = c ∧
      fld (a ++ b ++ c ++ d ++ e) 6 2 = d ∧
      fld (a ++ b ++ c ++ d ++ e) 0 6 = e := by
  simp (disch := decide) only [fld, BitVec.extractLsb'_append_eq_of_add_le, BitVec.extractLsb'_append_eq_of_le,
    Nat.reduceSub, BitVec.extractLsb'_eq_self, and_self]

theorem Encoding.mask_8_8_8_3_5 (a a' : BitVec 8) (b b' : BitVec 8) (c c' : BitVec 8) (d d' : BitVec 3) (e e' : BitVec 5) :
    (a ++ b ++ c ++ d ++ e : BitVec 32) &&& (a' ++ b' ++ c' ++ d' ++ e' : BitVec 32) =
      (a &&& a') ++ (b &&& b') ++ (c &&& c') ++ (d &&& d') ++ (e &&& e') :=
  (Encoding.and_append _ _ _ _).trans (congrArg (fun z => z ++ (e &&& e')) ((Encoding.and_append _ _ _ _).trans (congrArg (fun z => z ++ (d &&& d')) ((Encoding.and_append _ _ _ _).trans (congrArg (fun z => z ++ (c &&& c')) (Encoding.and_append a a' b b'))))))

theorem Encoding.fields_8_8_8_3_5 (a : BitVec 8) (b : BitVec 8) (c : BitVec 8) (d : BitVec 3) (e : BitVec 5) :
    fld (a ++ b ++ c ++ d ++ e) 24 8 = a ∧
      fld (a ++ b ++ c ++ d ++ e) 16 8 = b ∧
      fld (a ++ b ++ c ++ d ++ e) 8 8 = c ∧
      fld (a ++ b ++ c ++ d ++ e) 5 3 = d ∧
      fld (a ++ b ++ c ++ d ++ e) 0 5 = e := by
  simp (disch := decide) only [fld, BitVec.extractLsb'_append_eq_of_add_le, BitVec.extractLsb'_append_eq_of_le,
    Nat.reduceSub, BitVec.extractLsb'_eq_self, and_self]

theorem Encoding.mask_8_2_22 (a a' : BitVec 8) (b b' : BitVec 2) (c c' : BitVec 22) :
    (a ++ b ++ c : BitVec 32) &&& (a' ++ b' ++ c' : BitVec 32) =
      (a &&& a') ++ (b &&& b') ++ (c &&& c') :=
  (Encoding.and_append _ _ _ _).trans (congrArg (fun z => z ++ (c &&& c')) (Encoding.and_append a a' b b'))

theorem Encoding.fields_8_2_22 (a : BitVec 8) (b : BitVec 2) (c : BitVec 22) :
    fld (a ++ b ++ c) 24 8 = a ∧
      fld (a ++ b ++ c) 22 2 = b ∧
      fld (a ++ b ++ c) 0 22 = c := by
  simp (disch := decide) only [fld, BitVec.extractLsb'_append_eq_of_add_le, BitVec.extractLsb'_append_eq_of_le,
    Nat.reduceSub, BitVec.extractLsb'_eq_self, and_self]

theorem Encoding.mask_14_2_8_3_5 (a a' : BitVec 14) (b b' : BitVec 2) (c c' : BitVec 8) (d d' : BitVec 3) (e e' : BitVec 5) :
    (a ++ b ++ c ++ d ++ e : BitVec 32) &&& (a' ++ b' ++ c' ++ d' ++ e' : BitVec 32) =
      (a &&& a') ++ (b &&& b') ++ (c &&& c') ++ (d &&& d') ++ (e &&& e') :=
  (Encoding.and_append _ _ _ _).trans (congrArg (fun z => z ++ (e &&& e')) ((Encoding.and_append _ _ _ _).trans (congrArg (fun z => z ++ (d &&& d')) ((Encoding.and_append _ _ _ _).trans (congrArg (fun z => z ++ (c &&& c')) (Encoding.and_append a a' b b'))))))

theorem Encoding.fields_14_2_8_3_5 (a : BitVec 14) (b : BitVec 2) (c : BitVec 8) (d : BitVec 3) (e : BitVec 5) :
    fld (a ++ b ++ c ++ d ++ e) 24 8 = a.extractLsb' 6 8 ∧
      fld (a ++ b ++ c ++ d ++ e) 16 2 = b ∧
      fld (a ++ b ++ c ++ d ++ e) 8 8 = c ∧
      fld (a ++ b ++ c ++ d ++ e) 5 3 = d ∧
      fld (a ++ b ++ c ++ d ++ e) 0 5 = e := by
  simp (disch := decide) only [fld, BitVec.extractLsb'_append_eq_of_add_le, BitVec.extractLsb'_append_eq_of_le,
    Nat.reduceSub, BitVec.extractLsb'_eq_self, and_self]

theorem Encoding.mask_8_4_4_8_8 (a a' : BitVec 8) (b b' : BitVec 4) (c c' : BitVec 4) (d d' : BitVec 8) (e e' : BitVec 8) :
    (a ++ b ++ c ++ d ++ e : BitVec 32) &&& (a' ++ b' ++ c' ++ d' ++ e' : BitVec 32) =
      (a &&& a') ++ (b &&& b') ++ (c &&& c') ++ (d &&& d') ++ (e &&& e') :=
  (Encoding.and_append _ _ _ _).trans (congrArg (fun z => z ++ (e &&& e')) ((Encoding.and_append _ _ _ _).trans (congrArg (fun z => z ++ (d &&& d')) ((Encoding.and_append _ _ _ _).trans (congrArg (fun z => z ++ (c &&& c')) (Encoding.and_append a a' b b'))))))

theorem Encoding.fields_8_4_4_8_8 (a : BitVec 8) (b : BitVec 4) (c : BitVec 4) (d : BitVec 8) (e : BitVec 8) :
    fld (a ++ b ++ c ++ d ++ e) 24 8 = a ∧
      fld (a ++ b ++ c ++ d ++ e) 20 4 = b ∧
      fld (a ++ b ++ c ++ d ++ e) 16 4 = c ∧
      fld (a ++ b ++ c ++ d ++ e) 8 8 = d ∧
      fld (a ++ b ++ c ++ d ++ e) 0 8 = e := by
  simp (disch := decide) only [fld, BitVec.extractLsb'_append_eq_of_add_le, BitVec.extractLsb'_append_eq_of_le,
    Nat.reduceSub, BitVec.extractLsb'_eq_self, and_self]

theorem Encoding.mask_8_8_7_1_8 (a a' : BitVec 8) (b b' : BitVec 8) (c c' : BitVec 7) (d d' : BitVec 1) (e e' : BitVec 8) :
    (a ++ b ++ c ++ d ++ e : BitVec 32) &&& (a' ++ b' ++ c' ++ d' ++ e' : BitVec 32) =
      (a &&& a') ++ (b &&& b') ++ (c &&& c') ++ (d &&& d') ++ (e &&& e') :=
  (Encoding.and_append _ _ _ _).trans (congrArg (fun z => z ++ (e &&& e')) ((Encoding.and_append _ _ _ _).trans (congrArg (fun z => z ++ (d &&& d')) ((Encoding.and_append _ _ _ _).trans (congrArg (fun z => z ++ (c &&& c')) (Encoding.and_append a a' b b'))))))

theorem Encoding.fields_8_8_7_1_8 (a : BitVec 8) (b : BitVec 8) (c : BitVec 7) (d : BitVec 1) (e : BitVec 8) :
    fld (a ++ b ++ c ++ d ++ e) 24 8 = a ∧
      fld (a ++ b ++ c ++ d ++ e) 16 8 = b ∧
      fld (a ++ b ++ c ++ d ++ e) 9 7 = c ∧
      fld (a ++ b ++ c ++ d ++ e) 8 1 = d ∧
      fld (a ++ b ++ c ++ d ++ e) 0 8 = e := by
  simp (disch := decide) only [fld, BitVec.extractLsb'_append_eq_of_add_le, BitVec.extractLsb'_append_eq_of_le,
    Nat.reduceSub, BitVec.extractLsb'_eq_self, and_self]

theorem Encoding.mask_8_3_1_4_8_8 (a a' : BitVec 8) (b b' : BitVec 3) (c c' : BitVec 1) (d d' : BitVec 4) (e e' : BitVec 8) (f f' : BitVec 8) :
    (a ++ b ++ c ++ d ++ e ++ f : BitVec 32) &&& (a' ++ b' ++ c' ++ d' ++ e' ++ f' : BitVec 32) =
      (a &&& a') ++ (b &&& b') ++ (c &&& c') ++ (d &&& d') ++ (e &&& e') ++ (f &&& f') :=
  (Encoding.and_append _ _ _ _).trans (congrArg (fun z => z ++ (f &&& f')) ((Encoding.and_append _ _ _ _).trans (congrArg (fun z => z ++ (e &&& e')) ((Encoding.and_append _ _ _ _).trans (congrArg (fun z => z ++ (d &&& d')) ((Encoding.and_append _ _ _ _).trans (congrArg (fun z => z ++ (c &&& c')) (Encoding.and_append a a' b b'))))))))

theorem Encoding.fields_8_3_1_4_8_8 (a : BitVec 8) (b : BitVec 3) (c : BitVec 1) (d : BitVec 4) (e : BitVec 8) (f : BitVec 8) :
    fld (a ++ b ++ c ++ d ++ e ++ f) 24 8 = a ∧
      fld (a ++ b ++ c ++ d ++ e ++ f) 21 3 = b ∧
      fld (a ++ b ++ c ++ d ++ e ++ f) 20 1 = c ∧
      fld (a ++ b ++ c ++ d ++ e ++ f) 16 4 = d ∧
      fld (a ++ b ++ c ++ d ++ e ++ f) 8 8 = e ∧
      fld (a ++ b ++ c ++ d ++ e ++ f) 0 8 = f := by
  simp (disch := decide) only [fld, BitVec.extractLsb'_append_eq_of_add_le, BitVec.extractLsb'_append_eq_of_le,
    Nat.reduceSub, BitVec.extractLsb'_eq_self, and_self]

theorem Encoding.mask_8_6_6_6_6 (a a' : BitVec 8) (b b' : BitVec 6) (c c' : BitVec 6) (d d' : BitVec 6) (e e' : BitVec 6) :
    (a ++ b ++ c ++ d ++ e : BitVec 32) &&& (a' ++ b' ++ c' ++ d' ++ e' : BitVec 32) =
      (a &&& a') ++ (b &&& b') ++ (c &&& c') ++ (d &&& d') ++ (e &&& e') :=
  (Encoding.and_append _ _ _ _).trans (congrArg (fun z => z ++ (e &&& e')) ((Encoding.and_append _ _ _ _).trans (congrArg (fun z => z ++ (d &&& d')) ((Encoding.and_append _ _ _ _).trans (congrArg (fun z => z ++ (c &&& c')) (Encoding.and_append a a' b b'))))))

theorem Encoding.fields_8_6_6_6_6 (a : BitVec 8) (b : BitVec 6) (c : BitVec 6) (d : BitVec 6) (e : BitVec 6) :
    fld (a ++ b ++ c ++ d ++ e) 24 8 = a ∧
      fld (a ++ b ++ c ++ d ++ e) 18 6 = b ∧
      fld (a ++ b ++ c ++ d ++ e) 12 6 = c ∧
      fld (a ++ b ++ c ++ d ++ e) 6 6 = d ∧
      fld (a ++ b ++ c ++ d ++ e) 0 6 = e := by
  simp (disch := decide) only [fld, BitVec.extractLsb'_append_eq_of_add_le, BitVec.extractLsb'_append_eq_of_le,
    Nat.reduceSub, BitVec.extractLsb'_eq_self, and_self]

theorem Encoding.mask_13_3_8_8 (a a' : BitVec 13) (b b' : BitVec 3) (c c' : BitVec 8) (d d' : BitVec 8) :
    (a ++ b ++ c ++ d : BitVec 32) &&& (a' ++ b' ++ c' ++ d' : BitVec 32) =
      (a &&& a') ++ (b &&& b') ++ (c &&& c') ++ (d &&& d') :=
  (Encoding.and_append _ _ _ _).trans (congrArg (fun z => z ++ (d &&& d')) ((Encoding.and_append _ _ _ _).trans (congrArg (fun z => z ++ (c &&& c')) (Encoding.and_append a a' b b'))))

theorem Encoding.fields_13_3_8_8 (a : BitVec 13) (b : BitVec 3) (c : BitVec 8) (d : BitVec 8) :
    fld (a ++ b ++ c ++ d) 24 8 = a.extractLsb' 5 8 ∧
      fld (a ++ b ++ c ++ d) 16 3 = b ∧
      fld (a ++ b ++ c ++ d) 8 8 = c ∧
      fld (a ++ b ++ c ++ d) 0 8 = d := by
  simp (disch := decide) only [fld, BitVec.extractLsb'_append_eq_of_add_le, BitVec.extractLsb'_append_eq_of_le,
    Nat.reduceSub, BitVec.extractLsb'_eq_self, and_self]

theorem Encoding.mask_8_4_1_3_6_10 (a a' : BitVec 8) (b b' : BitVec 4) (c c' : BitVec 1) (d d' : BitVec 3) (e e' : BitVec 6) (f f' : BitVec 10) :
    (a ++ b ++ c ++ d ++ e ++ f : BitVec 32) &&& (a' ++ b' ++ c' ++ d' ++ e' ++ f' : BitVec 32) =
      (a &&& a') ++ (b &&& b') ++ (c &&& c') ++ (d &&& d') ++ (e &&& e') ++ (f &&& f') :=
  (Encoding.and_append _ _ _ _).trans (congrArg (fun z => z ++ (f &&& f')) ((Encoding.and_append _ _ _ _).trans (congrArg (fun z => z ++ (e &&& e')) ((Encoding.and_append _ _ _ _).trans (congrArg (fun z => z ++ (d &&& d')) ((Encoding.and_append _ _ _ _).trans (congrArg (fun z => z ++ (c &&& c')) (Encoding.and_append a a' b b'))))))))

theorem Encoding.fields_8_4_1_3_6_10 (a : BitVec 8) (b : BitVec 4) (c : BitVec 1) (d : BitVec 3) (e : BitVec 6) (f : BitVec 10) :
    fld (a ++ b ++ c ++ d ++ e ++ f) 24 8 = a ∧
      fld (a ++ b ++ c ++ d ++ e ++ f) 20 4 = b ∧
      fld (a ++ b ++ c ++ d ++ e ++ f) 19 1 = c ∧
      fld (a ++ b ++ c ++ d ++ e ++ f) 16 3 = d ∧
      fld (a ++ b ++ c ++ d ++ e ++ f) 10 6 = e ∧
      fld (a ++ b ++ c ++ d ++ e ++ f) 0 10 = f := by
  simp (disch := decide) only [fld, BitVec.extractLsb'_append_eq_of_add_le, BitVec.extractLsb'_append_eq_of_le,
    Nat.reduceSub, BitVec.extractLsb'_eq_self, and_self]

theorem Encoding.mask_8_3_2_3_16 (a a' : BitVec 8) (b b' : BitVec 3) (c c' : BitVec 2) (d d' : BitVec 3) (e e' : BitVec 16) :
    (a ++ b ++ c ++ d ++ e : BitVec 32) &&& (a' ++ b' ++ c' ++ d' ++ e' : BitVec 32) =
      (a &&& a') ++ (b &&& b') ++ (c &&& c') ++ (d &&& d') ++ (e &&& e') :=
  (Encoding.and_append _ _ _ _).trans (congrArg (fun z => z ++ (e &&& e')) ((Encoding.and_append _ _ _ _).trans (congrArg (fun z => z ++ (d &&& d')) ((Encoding.and_append _ _ _ _).trans (congrArg (fun z => z ++ (c &&& c')) (Encoding.and_append a a' b b'))))))

theorem Encoding.fields_8_3_2_3_16 (a : BitVec 8) (b : BitVec 3) (c : BitVec 2) (d : BitVec 3) (e : BitVec 16) :
    fld (a ++ b ++ c ++ d ++ e) 24 8 = a ∧
      fld (a ++ b ++ c ++ d ++ e) 21 3 = b ∧
      fld (a ++ b ++ c ++ d ++ e) 19 2 = c ∧
      fld (a ++ b ++ c ++ d ++ e) 16 3 = d ∧
      fld (a ++ b ++ c ++ d ++ e) 0 16 = e := by
  simp (disch := decide) only [fld, BitVec.extractLsb'_append_eq_of_add_le, BitVec.extractLsb'_append_eq_of_le,
    Nat.reduceSub, BitVec.extractLsb'_eq_self, and_self]

theorem Encoding.mask_8_8_5_1_3_4_3 (a a' : BitVec 8) (b b' : BitVec 8) (c c' : BitVec 5) (d d' : BitVec 1) (e e' : BitVec 3) (f f' : BitVec 4) (g g' : BitVec 3) :
    (a ++ b ++ c ++ d ++ e ++ f ++ g : BitVec 32) &&& (a' ++ b' ++ c' ++ d' ++ e' ++ f' ++ g' : BitVec 32) =
      (a &&& a') ++ (b &&& b') ++ (c &&& c') ++ (d &&& d') ++ (e &&& e') ++ (f &&& f') ++ (g &&& g') :=
  (Encoding.and_append _ _ _ _).trans (congrArg (fun z => z ++ (g &&& g')) ((Encoding.and_append _ _ _ _).trans (congrArg (fun z => z ++ (f &&& f')) ((Encoding.and_append _ _ _ _).trans (congrArg (fun z => z ++ (e &&& e')) ((Encoding.and_append _ _ _ _).trans (congrArg (fun z => z ++ (d &&& d')) ((Encoding.and_append _ _ _ _).trans (congrArg (fun z => z ++ (c &&& c')) (Encoding.and_append a a' b b'))))))))))

theorem Encoding.fields_8_8_5_1_3_4_3 (a : BitVec 8) (b : BitVec 8) (c : BitVec 5) (d : BitVec 1) (e : BitVec 3) (f : BitVec 4) (g : BitVec 3) :
    fld (a ++ b ++ c ++ d ++ e ++ f ++ g) 24 8 = a ∧
      fld (a ++ b ++ c ++ d ++ e ++ f ++ g) 16 8 = b ∧
      fld (a ++ b ++ c ++ d ++ e ++ f ++ g) 11 5 = c ∧
      fld (a ++ b ++ c ++ d ++ e ++ f ++ g) 10 1 = d ∧
      fld (a ++ b ++ c ++ d ++ e ++ f ++ g) 7 3 = e ∧
      fld (a ++ b ++ c ++ d ++ e ++ f ++ g) 3 4 = f ∧
      fld (a ++ b ++ c ++ d ++ e ++ f ++ g) 0 3 = g := by
  simp (disch := decide) only [fld, BitVec.extractLsb'_append_eq_of_add_le, BitVec.extractLsb'_append_eq_of_le,
    Nat.reduceSub, BitVec.extractLsb'_eq_self, and_self]

theorem Encoding.mask_8_8_4_4_8 (a a' : BitVec 8) (b b' : BitVec 8) (c c' : BitVec 4) (d d' : BitVec 4) (e e' : BitVec 8) :
    (a ++ b ++ c ++ d ++ e : BitVec 32) &&& (a' ++ b' ++ c' ++ d' ++ e' : BitVec 32) =
      (a &&& a') ++ (b &&& b') ++ (c &&& c') ++ (d &&& d') ++ (e &&& e') :=
  (Encoding.and_append _ _ _ _).trans (congrArg (fun z => z ++ (e &&& e')) ((Encoding.and_append _ _ _ _).trans (congrArg (fun z => z ++ (d &&& d')) ((Encoding.and_append _ _ _ _).trans (congrArg (fun z => z ++ (c &&& c')) (Encoding.and_append a a' b b'))))))

theorem Encoding.fields_8_8_4_4_8 (a : BitVec 8) (b : BitVec 8) (c : BitVec 4) (d : BitVec 4) (e : BitVec 8) :
    fld (a ++ b ++ c ++ d ++ e) 24 8 = a ∧
      fld (a ++ b ++ c ++ d ++ e) 16 8 = b ∧
      fld (a ++ b ++ c ++ d ++ e) 12 4 = c ∧
      fld (a ++ b ++ c ++ d ++ e) 8 4 = d ∧
      fld (a ++ b ++ c ++ d ++ e) 0 8 = e := by
  simp (disch := decide) only [fld, BitVec.extractLsb'_append_eq_of_add_le, BitVec.extractLsb'_append_eq_of_le,
    Nat.reduceSub, BitVec.extractLsb'_eq_self, and_self]

theorem Encoding.mask_8_3_4_4_6_3_3_1 (a a' : BitVec 8) (b b' : BitVec 3) (c c' : BitVec 4) (d d' : BitVec 4) (e e' : BitVec 6) (f f' : BitVec 3) (g g' : BitVec 3) (h h' : BitVec 1) :
    (a ++ b ++ c ++ d ++ e ++ f ++ g ++ h : BitVec 32) &&& (a' ++ b' ++ c' ++ d' ++ e' ++ f' ++ g' ++ h' : BitVec 32) =
      (a &&& a') ++ (b &&& b') ++ (c &&& c') ++ (d &&& d') ++ (e &&& e') ++ (f &&& f') ++ (g &&& g') ++ (h &&& h') :=
  (Encoding.and_append _ _ _ _).trans (congrArg (fun z => z ++ (h &&& h')) ((Encoding.and_append _ _ _ _).trans (congrArg (fun z => z ++ (g &&& g')) ((Encoding.and_append _ _ _ _).trans (congrArg (fun z => z ++ (f &&& f')) ((Encoding.and_append _ _ _ _).trans (congrArg (fun z => z ++ (e &&& e')) ((Encoding.and_append _ _ _ _).trans (congrArg (fun z => z ++ (d &&& d')) ((Encoding.and_append _ _ _ _).trans (congrArg (fun z => z ++ (c &&& c')) (Encoding.and_append a a' b b'))))))))))))

theorem Encoding.fields_8_3_4_4_6_3_3_1 (a : BitVec 8) (b : BitVec 3) (c : BitVec 4) (d : BitVec 4) (e : BitVec 6) (f : BitVec 3) (g : BitVec 3) (h : BitVec 1) :
    fld (a ++ b ++ c ++ d ++ e ++ f ++ g ++ h) 24 8 = a ∧
      fld (a ++ b ++ c ++ d ++ e ++ f ++ g ++ h) 21 3 = b ∧
      fld (a ++ b ++ c ++ d ++ e ++ f ++ g ++ h) 17 4 = c ∧
      fld (a ++ b ++ c ++ d ++ e ++ f ++ g ++ h) 13 4 = d ∧
      fld (a ++ b ++ c ++ d ++ e ++ f ++ g ++ h) 7 6 = e ∧
      fld (a ++ b ++ c ++ d ++ e ++ f ++ g ++ h) 4 3 = f ∧
      fld (a ++ b ++ c ++ d ++ e ++ f ++ g ++ h) 1 3 = g ∧
      fld (a ++ b ++ c ++ d ++ e ++ f ++ g ++ h) 0 1 = h := by
  simp (disch := decide) only [fld, BitVec.extractLsb'_append_eq_of_add_le, BitVec.extractLsb'_append_eq_of_le,
    Nat.reduceSub, BitVec.extractLsb'_eq_self, and_self]

theorem Encoding.mask_8_4_4_16 (a a' : BitVec 8) (b b' : BitVec 4) (c c' : BitVec 4) (d d' : BitVec 16) :
    (a ++ b ++ c ++ d : BitVec 32) &&& (a' ++ b' ++ c' ++ d' : BitVec 32) =
      (a &&& a') ++ (b &&& b') ++ (c &&& c') ++ (d &&& d') :=
  (Encoding.and_append _ _ _ _).trans (congrArg (fun z => z ++ (d &&& d')) ((Encoding.and_append _ _ _ _).trans (congrArg (fun z => z ++ (c &&& c')) (Encoding.and_append a a' b b'))))

theorem Encoding.fields_8_4_4_16 (a : BitVec 8) (b : BitVec 4) (c : BitVec 4) (d : BitVec 16) :
    fld (a ++ b ++ c ++ d) 24 8 = a ∧
      fld (a ++ b ++ c ++ d) 20 4 = b ∧
      fld (a ++ b ++ c ++ d) 16 4 = c ∧
      fld (a ++ b ++ c ++ d) 0 16 = d := by
  simp (disch := decide) only [fld, BitVec.extractLsb'_append_eq_of_add_le, BitVec.extractLsb'_append_eq_of_le,
    Nat.reduceSub, BitVec.extractLsb'_eq_self, and_self]

theorem Encoding.mask_8_4_4_4_2_1_3_3_3 (a a' : BitVec 8) (b b' : BitVec 4) (c c' : BitVec 4) (d d' : BitVec 4) (e e' : BitVec 2) (f f' : BitVec 1) (g g' : BitVec 3) (h h' : BitVec 3) (i i' : BitVec 3) :
    (a ++ b ++ c ++ d ++ e ++ f ++ g ++ h ++ i : BitVec 32) &&& (a' ++ b' ++ c' ++ d' ++ e' ++ f' ++ g' ++ h' ++ i' : BitVec 32) =
      (a &&& a') ++ (b &&& b') ++ (c &&& c') ++ (d &&& d') ++ (e &&& e') ++ (f &&& f') ++ (g &&& g') ++ (h &&& h') ++ (i &&& i') :=
  (Encoding.and_append _ _ _ _).trans (congrArg (fun z => z ++ (i &&& i')) ((Encoding.and_append _ _ _ _).trans (congrArg (fun z => z ++ (h &&& h')) ((Encoding.and_append _ _ _ _).trans (congrArg (fun z => z ++ (g &&& g')) ((Encoding.and_append _ _ _ _).trans (congrArg (fun z => z ++ (f &&& f')) ((Encoding.and_append _ _ _ _).trans (congrArg (fun z => z ++ (e &&& e')) ((Encoding.and_append _ _ _ _).trans (congrArg (fun z => z ++ (d &&& d')) ((Encoding.and_append _ _ _ _).trans (congrArg (fun z => z ++ (c &&& c')) (Encoding.and_append a a' b b'))))))))))))))

theorem Encoding.fields_8_4_4_4_2_1_3_3_3 (a : BitVec 8) (b : BitVec 4) (c : BitVec 4) (d : BitVec 4) (e : BitVec 2) (f : BitVec 1) (g : BitVec 3) (h : BitVec 3) (i : BitVec 3) :
    fld (a ++ b ++ c ++ d ++ e ++ f ++ g ++ h ++ i) 24 8 = a ∧
      fld (a ++ b ++ c ++ d ++ e ++ f ++ g ++ h ++ i) 20 4 = b ∧
      fld (a ++ b ++ c ++ d ++ e ++ f ++ g ++ h ++ i) 16 4 = c ∧
      fld (a ++ b ++ c ++ d ++ e ++ f ++ g ++ h ++ i) 12 4 = d ∧
      fld (a ++ b ++ c ++ d ++ e ++ f ++ g ++ h ++ i) 10 2 = e ∧
      fld (a ++ b ++ c ++ d ++ e ++ f ++ g ++ h ++ i) 9 1 = f ∧
      fld (a ++ b ++ c ++ d ++ e ++ f ++ g ++ h ++ i) 6 3 = g ∧
      fld (a ++ b ++ c ++ d ++ e ++ f ++ g ++ h ++ i) 3 3 = h ∧
      fld (a ++ b ++ c ++ d ++ e ++ f ++ g ++ h ++ i) 0 3 = i := by
  simp (disch := decide) only [fld, BitVec.extractLsb'_append_eq_of_add_le, BitVec.extractLsb'_append_eq_of_le,
    Nat.reduceSub, BitVec.extractLsb'_eq_self, and_self]

theorem Encoding.mask_8_4_1_1_3_15 (a a' : BitVec 8) (b b' : BitVec 4) (c c' : BitVec 1) (d d' : BitVec 1) (e e' : BitVec 3) (f f' : BitVec 15) :
    (a ++ b ++ c ++ d ++ e ++ f : BitVec 32) &&& (a' ++ b' ++ c' ++ d' ++ e' ++ f' : BitVec 32) =
      (a &&& a') ++ (b &&& b') ++ (c &&& c') ++ (d &&& d') ++ (e &&& e') ++ (f &&& f') :=
  (Encoding.and_append _ _ _ _).trans (congrArg (fun z => z ++ (f &&& f')) ((Encoding.and_append _ _ _ _).trans (congrArg (fun z => z ++ (e &&& e')) ((Encoding.and_append _ _ _ _).trans (congrArg (fun z => z ++ (d &&& d')) ((Encoding.and_append _ _ _ _).trans (congrArg (fun z => z ++ (c &&& c')) (Encoding.and_append a a' b b'))))))))

theorem Encoding.fields_8_4_1_1_3_15 (a : BitVec 8) (b : BitVec 4) (c : BitVec 1) (d : BitVec 1) (e : BitVec 3) (f : BitVec 15) :
    fld (a ++ b ++ c ++ d ++ e ++ f) 24 8 = a ∧
      fld (a ++ b ++ c ++ d ++ e ++ f) 20 4 = b ∧
      fld (a ++ b ++ c ++ d ++ e ++ f) 19 1 = c ∧
      fld (a ++ b ++ c ++ d ++ e ++ f) 18 1 = d ∧
      fld (a ++ b ++ c ++ d ++ e ++ f) 15 3 = e ∧
      fld (a ++ b ++ c ++ d ++ e ++ f) 0 15 = f := by
  simp (disch := decide) only [fld, BitVec.extractLsb'_append_eq_of_add_le, BitVec.extractLsb'_append_eq_of_le,
    Nat.reduceSub, BitVec.extractLsb'_eq_self, and_self]

theorem Encoding.mask_8_4_3_17 (a a' : BitVec 8) (b b' : BitVec 4) (c c' : BitVec 3) (d d' : BitVec 17) :
    (a ++ b ++ c ++ d : BitVec 32) &&& (a' ++ b' ++ c' ++ d' : BitVec 32) =
      (a &&& a') ++ (b &&& b') ++ (c &&& c') ++ (d &&& d') :=
  (Encoding.and_append _ _ _ _).trans (congrArg (fun z => z ++ (d &&& d')) ((Encoding.and_append _ _ _ _).trans (congrArg (fun z => z ++ (c &&& c')) (Encoding.and_append a a' b b'))))

theorem Encoding.fields_8_4_3_17 (a : BitVec 8) (b : BitVec 4) (c : BitVec 3) (d : BitVec 17) :
    fld (a ++ b ++ c ++ d) 24 8 = a ∧
      fld (a ++ b ++ c ++ d) 20 4 = b ∧
      fld (a ++ b ++ c ++ d) 17 3 = c ∧
      fld (a ++ b ++ c ++ d) 0 17 = d := by
  simp (disch := decide) only [fld, BitVec.extractLsb'_append_eq_of_add_le, BitVec.extractLsb'_append_eq_of_le,
    Nat.reduceSub, BitVec.extractLsb'_eq_self, and_self]

theorem Encoding.mask_8_3_1_4_16 (a a' : BitVec 8) (b b' : BitVec 3) (c c' : BitVec 1) (d d' : BitVec 4) (e e' : BitVec 16) :
    (a ++ b ++ c ++ d ++ e : BitVec 32) &&& (a' ++ b' ++ c' ++ d' ++ e' : BitVec 32) =
      (a &&& a') ++ (b &&& b') ++ (c &&& c') ++ (d &&& d') ++ (e &&& e') :=
  (Encoding.and_append _ _ _ _).trans (congrArg (fun z => z ++ (e &&& e')) ((Encoding.and_append _ _ _ _).trans (congrArg (fun z => z ++ (d &&& d')) ((Encoding.and_append _ _ _ _).trans (congrArg (fun z => z ++ (c &&& c')) (Encoding.and_append a a' b b'))))))

theorem Encoding.fields_8_3_1_4_16 (a : BitVec 8) (b : BitVec 3) (c : BitVec 1) (d : BitVec 4) (e : BitVec 16) :
    fld (a ++ b ++ c ++ d ++ e) 24 8 = a ∧
      fld (a ++ b ++ c ++ d ++ e) 21 3 = b ∧
      fld (a ++ b ++ c ++ d ++ e) 20 1 = c ∧
      fld (a ++ b ++ c ++ d ++ e) 16 4 = d ∧
      fld (a ++ b ++ c ++ d ++ e) 0 16 = e := by
  simp (disch := decide) only [fld, BitVec.extractLsb'_append_eq_of_add_le, BitVec.extractLsb'_append_eq_of_le,
    Nat.reduceSub, BitVec.extractLsb'_eq_self, and_self]

theorem Encoding.mask_8_3_5_16 (a a' : BitVec 8) (b b' : BitVec 3) (c c' : BitVec 5) (d d' : BitVec 16) :
    (a ++ b ++ c ++ d : BitVec 32) &&& (a' ++ b' ++ c' ++ d' : BitVec 32) =
      (a &&& a') ++ (b &&& b') ++ (c &&& c') ++ (d &&& d') :=
  (Encoding.and_append _ _ _ _).trans (congrArg (fun z => z ++ (d &&& d')) ((Encoding.and_append _ _ _ _).trans (congrArg (fun z => z ++ (c &&& c')) (Encoding.and_append a a' b b'))))

theorem Encoding.fields_8_3_5_16 (a : BitVec 8) (b : BitVec 3) (c : BitVec 5) (d : BitVec 16) :
    fld (a ++ b ++ c ++ d) 24 8 = a ∧
      fld (a ++ b ++ c ++ d) 21 3 = b ∧
      fld (a ++ b ++ c ++ d) 16 5 = c ∧
      fld (a ++ b ++ c ++ d) 0 16 = d := by
  simp (disch := decide) only [fld, BitVec.extractLsb'_append_eq_of_add_le, BitVec.extractLsb'_append_eq_of_le,
    Nat.reduceSub, BitVec.extractLsb'_eq_self, and_self]

theorem Encoding.mask_8_3_1_20 (a a' : BitVec 8) (b b' : BitVec 3) (c c' : BitVec 1) (d d' : BitVec 20) :
    (a ++ b ++ c ++ d : BitVec 32) &&& (a' ++ b' ++ c' ++ d' : BitVec 32) =
      (a &&& a') ++ (b &&& b') ++ (c &&& c') ++ (d &&& d') :=
  (Encoding.and_append _ _ _ _).trans (congrArg (fun z => z ++ (d &&& d')) ((Encoding.and_append _ _ _ _).trans (congrArg (fun z => z ++ (c &&& c')) (Encoding.and_append a a' b b'))))

theorem Encoding.fields_8_3_1_20 (a : BitVec 8) (b : BitVec 3) (c : BitVec 1) (d : BitVec 20) :
    fld (a ++ b ++ c ++ d) 24 8 = a ∧
      fld (a ++ b ++ c ++ d) 21 3 = b ∧
      fld (a ++ b ++ c ++ d) 20 1 = c ∧
      fld (a ++ b ++ c ++ d) 0 20 = d := by
  simp (disch := decide) only [fld, BitVec.extractLsb'_append_eq_of_add_le, BitVec.extractLsb'_append_eq_of_le,
    Nat.reduceSub, BitVec.extractLsb'_eq_self, and_self]

theorem Encoding.mask_8_8_10_6 (a a' : BitVec 8) (b b' : BitVec 8) (c c' : BitVec 10) (d d' : BitVec 6) :
    (a ++ b ++ c ++ d : BitVec 32) &&& (a' ++ b' ++ c' ++ d' : BitVec 32) =
      (a &&& a') ++ (b &&& b') ++ (c &&& c') ++ (d &&& d') :=
  (Encoding.and_append _ _ _ _).trans (congrArg (fun z => z ++ (d &&& d')) ((Encoding.and_append _ _ _ _).trans (congrArg (fun z => z ++ (c &&& c')) (Encoding.and_append a a' b b'))))

theorem Encoding.fields_8_8_10_6 (a : BitVec 8) (b : BitVec 8) (c : BitVec 10) (d : BitVec 6) :
    fld (a ++ b ++ c ++ d) 24 8 = a ∧
      fld (a ++ b ++ c ++ d) 16 8 = b ∧
      fld (a ++ b ++ c ++ d) 6 10 = c ∧
      fld (a ++ b ++ c ++ d) 0 6 = d := by
  simp (disch := decide) only [fld, BitVec.extractLsb'_append_eq_of_add_le, BitVec.extractLsb'_append_eq_of_le,
    Nat.reduceSub, BitVec.extractLsb'_eq_self, and_self]

theorem Encoding.mask_29_3 (a a' : BitVec 29) (b b' : BitVec 3) :
    (a ++ b : BitVec 32) &&& (a' ++ b' : BitVec 32) =
      (a &&& a') ++ (b &&& b') :=
  Encoding.and_append a a' b b'

theorem Encoding.fields_29_3 (a : BitVec 29) (b : BitVec 3) :
    fld (a ++ b) 24 8 = a.extractLsb' 21 8 ∧
      fld (a ++ b) 0 3 = b := by
  simp (disch := decide) only [fld, BitVec.extractLsb'_append_eq_of_add_le, BitVec.extractLsb'_append_eq_of_le,
    Nat.reduceSub, BitVec.extractLsb'_eq_self, and_self]

/-! ## The instructions -/

theorem Encoding.imm (i) : Encoding.Statement (.imm i) :=
  Encoding.row (x := 0x01#8) (m := 0xFF#8 ++ 0x0#24) rfl
    (by simp only [Encoding.fields_8_24]) rfl rfl
    (by simp only [Encoding.mask_8_24, BitVec.and_zero]; rfl) (by simp only [Encoding.fields_8_24])

theorem Encoding.mod (s c n m a b k r t g o) : Encoding.Statement (.mod s c n m a b k r t g o) :=
  Encoding.row (x := 0x02#8) (m := 0xFF#8 ++ 0x0#1 ++ 0x0#1 ++ 0x0#1 ++ 0x0#1 ++ 0x0#1 ++ 0x0#1 ++ 0x0#5 ++ 0x0#3 ++ 0x0#3 ++ 0x0#4 ++ 0x0#3) rfl
    (by simp only [Encoding.fields_8_1_1_1_1_1_1_5_3_3_4_3]) rfl rfl
    (by simp only [Encoding.mask_8_1_1_1_1_1_1_5_3_3_4_3, BitVec.and_zero]; rfl) (by simp only [Encoding.fields_8_1_1_1_1_1_1_5_3_3_4_3])

theorem Encoding.hint (s y a b c) : Encoding.Statement (.hint s y a b c) :=
  Encoding.row (x := 0x03#8) (m := 0xFF#8 ++ 0x0#5 ++ 0x0#1 ++ 0x0#1 ++ 0x0#1 ++ 0x0#1 ++ 0x7FFF#15) rfl
    (by simp only [Encoding.fields_8_5_1_1_1_1_15]) rfl rfl
    (by simp only [Encoding.mask_8_5_1_1_1_1_15, BitVec.and_zero]; rfl) (by simp only [Encoding.fields_8_5_1_1_1_1_15])

theorem Encoding.nop : Encoding.Statement .nop := Encoding.closed rfl (by decide)

theorem Encoding.trap (n p c) : Encoding.Statement (.trap n p c) :=
  Encoding.row (x := 0x05#8) (m := 0xFFF#12 ++ 0x0#1 ++ 0x0#3 ++ 0x0#16) rfl
    (by simp only [Encoding.fields_12_1_3_16]; rfl) rfl rfl
    (by simp only [Encoding.mask_12_1_3_16, BitVec.and_zero]; rfl) (by simp only [Encoding.fields_12_1_3_16])

theorem Encoding.bkpt (c) : Encoding.Statement (.bkpt c) :=
  Encoding.row (x := 0x06#8) (m := 0xFFFF#16 ++ 0x0#16) rfl
    (by simp only [Encoding.fields_16_16]; rfl) rfl rfl
    (by simp only [Encoding.mask_16_16, BitVec.and_zero]; rfl) (by simp only [Encoding.fields_16_16])

theorem Encoding.rfe : Encoding.Statement .rfe := Encoding.closed rfl (by decide)

theorem Encoding.mfsr (d s) : Encoding.Statement (.mfsr d s) :=
  Encoding.row (x := 0x08#8) (m := 0xFF#8 ++ 0x0#8 ++ 0x0#8 ++ 0xFF#8) rfl
    (by simp only [Encoding.fields_8_8_8_8]) rfl rfl
    (by simp only [Encoding.mask_8_8_8_8, BitVec.and_zero]; rfl) (by simp only [Encoding.fields_8_8_8_8])

theorem Encoding.mtsr (s a) : Encoding.Statement (.mtsr s a) :=
  Encoding.row (x := 0x09#8) (m := 0xFF#8 ++ 0x0#8 ++ 0x0#8 ++ 0xFF#8) rfl
    (by simp only [Encoding.fields_8_8_8_8]) rfl rfl
    (by simp only [Encoding.mask_8_8_8_8, BitVec.and_zero]; rfl) (by simp only [Encoding.fields_8_8_8_8])

theorem Encoding.br (o) : Encoding.Statement (.br o) :=
  Encoding.row (x := 0x10#8) (m := 0xFFFF#16 ++ 0x0#16) rfl
    (by simp only [Encoding.fields_16_16]; rfl) rfl rfl
    (by simp only [Encoding.mask_16_16, BitVec.and_zero]; rfl) (by simp only [Encoding.fields_16_16])

theorem Encoding.bru (n p o) : Encoding.Statement (.bru n p o) :=
  Encoding.row (x := 0x11#8) (m := 0xFFF#12 ++ 0x0#1 ++ 0x0#3 ++ 0x0#16) rfl
    (by simp only [Encoding.fields_12_1_3_16]; rfl) rfl rfl
    (by simp only [Encoding.mask_12_1_3_16, BitVec.and_zero]; rfl) (by simp only [Encoding.fields_12_1_3_16])

theorem Encoding.brd (k n p o) : Encoding.Statement (.brd k n p o) :=
  Encoding.row (x := 0x12#8) (m := 0xFF#8 ++ 0x0#4 ++ 0x0#1 ++ 0x0#3 ++ 0x0#16) rfl
    (by simp only [Encoding.fields_8_4_1_3_16]) rfl rfl
    (by simp only [Encoding.mask_8_4_1_3_16, BitVec.and_zero]; rfl) (by simp only [Encoding.fields_8_4_1_3_16])

theorem Encoding.brz (n o) : Encoding.Statement (.brz n o) :=
  Encoding.row (x := 0x13#8) (m := 0xFFF#12 ++ 0x0#1 ++ 0x7#3 ++ 0x0#16) rfl
    (by simp only [Encoding.fields_12_1_3_16]; rfl) rfl rfl
    (by simp only [Encoding.mask_12_1_3_16, BitVec.and_zero]; rfl) (by simp only [Encoding.fields_12_1_3_16])

theorem Encoding.jmpi (a) : Encoding.Statement (.jmpi a) :=
  Encoding.row (x := 0x14#8) (m := 0xFFFF#16 ++ 0x0#8 ++ 0xFF#8) rfl
    (by simp only [Encoding.fields_16_8_8]; rfl) rfl rfl
    (by simp only [Encoding.mask_16_8_8, BitVec.and_zero]; rfl) (by simp only [Encoding.fields_16_8_8])

theorem Encoding.call (c o) : Encoding.Statement (.call c o) :=
  Encoding.row (x := 0x15#8) (m := 0xFF#8 ++ 0x0#8 ++ 0x0#16) rfl
    (by simp only [Encoding.fields_8_8_16]) rfl rfl
    (by simp only [Encoding.mask_8_8_16, BitVec.and_zero]; rfl) (by simp only [Encoding.fields_8_8_16])

theorem Encoding.ret (a) : Encoding.Statement (.ret a) :=
  Encoding.row (x := 0x16#8) (m := 0xFFFF#16 ++ 0x0#8 ++ 0xFF#8) rfl
    (by simp only [Encoding.fields_16_8_8]; rfl) rfl rfl
    (by simp only [Encoding.mask_16_8_8, BitVec.and_zero]; rfl) (by simp only [Encoding.fields_16_8_8])

theorem Encoding.rejoin (k) : Encoding.Statement (.rejoin k) :=
  Encoding.row (x := 0x17#8) (m := 0xFF#8 ++ 0x0#4 ++ 0xFFFFF#20) rfl
    (by simp only [Encoding.fields_8_4_20]) rfl rfl
    (by simp only [Encoding.mask_8_4_20, BitVec.and_zero]; rfl) (by simp only [Encoding.fields_8_4_20])

theorem Encoding.yield : Encoding.Statement .yield := Encoding.closed rfl (by decide)

theorem Encoding.yieldD : Encoding.Statement .yieldD := Encoding.closed rfl (by decide)

theorem Encoding.exit : Encoding.Statement .exit := Encoding.closed rfl (by decide)

theorem Encoding.regroup (b n o) : Encoding.Statement (.regroup b n o) :=
  Encoding.row (x := 0x1A#8) (m := 0xFF#8 ++ 0x0#4 ++ 0x0#8 ++ 0x0#12) rfl
    (by simp only [Encoding.fields_8_4_8_12]) rfl rfl
    (by simp only [Encoding.mask_8_4_8_12, BitVec.and_zero]; rfl) (by simp only [Encoding.fields_8_4_8_12])

theorem Encoding.msav (d) : Encoding.Statement (.msav d) :=
  Encoding.row (x := 0x1B#8) (m := 0xFF#8 ++ 0x0#8 ++ 0xFFFF#16) rfl
    (by simp only [Encoding.fields_8_8_16]) rfl rfl
    (by simp only [Encoding.mask_8_8_16, BitVec.and_zero]; rfl) (by simp only [Encoding.fields_8_8_16])

theorem Encoding.mres (a) : Encoding.Statement (.mres a) :=
  Encoding.row (x := 0x1C#8) (m := 0xFFFF#16 ++ 0x0#8 ++ 0xFF#8) rfl
    (by simp only [Encoding.fields_16_8_8]; rfl) rfl rfl
    (by simp only [Encoding.mask_16_8_8, BitVec.and_zero]; rfl) (by simp only [Encoding.fields_16_8_8])

theorem Encoding.mand (n p) : Encoding.Statement (.mand n p) :=
  Encoding.row (x := 0x1D#8) (m := 0xFFF#12 ++ 0x0#1 ++ 0x0#3 ++ 0xFFFF#16) rfl
    (by simp only [Encoding.fields_12_1_3_16]; rfl) rfl rfl
    (by simp only [Encoding.mask_12_1_3_16, BitVec.and_zero]; rfl) (by simp only [Encoding.fields_12_1_3_16])

theorem Encoding.enall : Encoding.Statement .enall := Encoding.closed rfl (by decide)

theorem Encoding.enres : Encoding.Statement .enres := Encoding.closed rfl (by decide)

theorem Encoding.sadd (d a b) : Encoding.Statement (.sadd d a b) :=
  Encoding.row (x := 0x20#8) (m := 0xFF#8 ++ 0x0#8 ++ 0x0#8 ++ 0x0#8) rfl
    (by simp only [Encoding.fields_8_8_8_8]) rfl rfl
    (by simp only [Encoding.mask_8_8_8_8, BitVec.and_zero]; rfl) (by simp only [Encoding.fields_8_8_8_8])

theorem Encoding.ssub (d a b) : Encoding.Statement (.ssub d a b) :=
  Encoding.row (x := 0x21#8) (m := 0xFF#8 ++ 0x0#8 ++ 0x0#8 ++ 0x0#8) rfl
    (by simp only [Encoding.fields_8_8_8_8]) rfl rfl
    (by simp only [Encoding.mask_8_8_8_8, BitVec.and_zero]; rfl) (by simp only [Encoding.fields_8_8_8_8])

theorem Encoding.smul (d a b) : Encoding.Statement (.smul d a b) :=
  Encoding.row (x := 0x22#8) (m := 0xFF#8 ++ 0x0#8 ++ 0x0#8 ++ 0x0#8) rfl
    (by simp only [Encoding.fields_8_8_8_8]) rfl rfl
    (by simp only [Encoding.mask_8_8_8_8, BitVec.and_zero]; rfl) (by simp only [Encoding.fields_8_8_8_8])

theorem Encoding.smulhu (d a b) : Encoding.Statement (.smulhu d a b) :=
  Encoding.row (x := 0x23#8) (m := 0xFF#8 ++ 0x0#8 ++ 0x0#8 ++ 0x0#8) rfl
    (by simp only [Encoding.fields_8_8_8_8]) rfl rfl
    (by simp only [Encoding.mask_8_8_8_8, BitVec.and_zero]; rfl) (by simp only [Encoding.fields_8_8_8_8])

theorem Encoding.sand (d a b) : Encoding.Statement (.sand d a b) :=
  Encoding.row (x := 0x24#8) (m := 0xFF#8 ++ 0x0#8 ++ 0x0#8 ++ 0x0#8) rfl
    (by simp only [Encoding.fields_8_8_8_8]) rfl rfl
    (by simp only [Encoding.mask_8_8_8_8, BitVec.and_zero]; rfl) (by simp only [Encoding.fields_8_8_8_8])

theorem Encoding.sor (d a b) : Encoding.Statement (.sor d a b) :=
  Encoding.row (x := 0x25#8) (m := 0xFF#8 ++ 0x0#8 ++ 0x0#8 ++ 0x0#8) rfl
    (by simp only [Encoding.fields_8_8_8_8]) rfl rfl
    (by simp only [Encoding.mask_8_8_8_8, BitVec.and_zero]; rfl) (by simp only [Encoding.fields_8_8_8_8])

theorem Encoding.sxor (d a b) : Encoding.Statement (.sxor d a b) :=
  Encoding.row (x := 0x26#8) (m := 0xFF#8 ++ 0x0#8 ++ 0x0#8 ++ 0x0#8) rfl
    (by simp only [Encoding.fields_8_8_8_8]) rfl rfl
    (by simp only [Encoding.mask_8_8_8_8, BitVec.and_zero]; rfl) (by simp only [Encoding.fields_8_8_8_8])

theorem Encoding.sshl (d a b) : Encoding.Statement (.sshl d a b) :=
  Encoding.row (x := 0x27#8) (m := 0xFF#8 ++ 0x0#8 ++ 0x0#8 ++ 0x0#8) rfl
    (by simp only [Encoding.fields_8_8_8_8]) rfl rfl
    (by simp only [Encoding.mask_8_8_8_8, BitVec.and_zero]; rfl) (by simp only [Encoding.fields_8_8_8_8])

theorem Encoding.sshr (d a b) : Encoding.Statement (.sshr d a b) :=
  Encoding.row (x := 0x28#8) (m := 0xFF#8 ++ 0x0#8 ++ 0x0#8 ++ 0x0#8) rfl
    (by simp only [Encoding.fields_8_8_8_8]) rfl rfl
    (by simp only [Encoding.mask_8_8_8_8, BitVec.and_zero]; rfl) (by simp only [Encoding.fields_8_8_8_8])

theorem Encoding.ssra (d a b) : Encoding.Statement (.ssra d a b) :=
  Encoding.row (x := 0x29#8) (m := 0xFF#8 ++ 0x0#8 ++ 0x0#8 ++ 0x0#8) rfl
    (by simp only [Encoding.fields_8_8_8_8]) rfl rfl
    (by simp only [Encoding.mask_8_8_8_8, BitVec.and_zero]; rfl) (by simp only [Encoding.fields_8_8_8_8])

theorem Encoding.smin (d a b) : Encoding.Statement (.smin d a b) :=
  Encoding.row (x := 0x2A#8) (m := 0xFF#8 ++ 0x0#8 ++ 0x0#8 ++ 0x0#8) rfl
    (by simp only [Encoding.fields_8_8_8_8]) rfl rfl
    (by simp only [Encoding.mask_8_8_8_8, BitVec.and_zero]; rfl) (by simp only [Encoding.fields_8_8_8_8])

theorem Encoding.smax (d a b) : Encoding.Statement (.smax d a b) :=
  Encoding.row (x := 0x2B#8) (m := 0xFF#8 ++ 0x0#8 ++ 0x0#8 ++ 0x0#8) rfl
    (by simp only [Encoding.fields_8_8_8_8]) rfl rfl
    (by simp only [Encoding.mask_8_8_8_8, BitVec.and_zero]; rfl) (by simp only [Encoding.fields_8_8_8_8])

theorem Encoding.sminu (d a b) : Encoding.Statement (.sminu d a b) :=
  Encoding.row (x := 0x2C#8) (m := 0xFF#8 ++ 0x0#8 ++ 0x0#8 ++ 0x0#8) rfl
    (by simp only [Encoding.fields_8_8_8_8]) rfl rfl
    (by simp only [Encoding.mask_8_8_8_8, BitVec.and_zero]; rfl) (by simp only [Encoding.fields_8_8_8_8])

theorem Encoding.smaxu (d a b) : Encoding.Statement (.smaxu d a b) :=
  Encoding.row (x := 0x2D#8) (m := 0xFF#8 ++ 0x0#8 ++ 0x0#8 ++ 0x0#8) rfl
    (by simp only [Encoding.fields_8_8_8_8]) rfl rfl
    (by simp only [Encoding.mask_8_8_8_8, BitVec.and_zero]; rfl) (by simp only [Encoding.fields_8_8_8_8])

theorem Encoding.smovi (d i) : Encoding.Statement (.smovi d i) :=
  Encoding.row (x := 0x2E#8) (m := 0xFF#8 ++ 0x0#8 ++ 0x0#16) rfl
    (by simp only [Encoding.fields_8_8_16]) rfl rfl
    (by simp only [Encoding.mask_8_8_16, BitVec.and_zero]; rfl) (by simp only [Encoding.fields_8_8_16])

theorem Encoding.smovhi (d i) : Encoding.Statement (.smovhi d i) :=
  Encoding.row (x := 0x2F#8) (m := 0xFF#8 ++ 0x0#8 ++ 0x0#16) rfl
    (by simp only [Encoding.fields_8_8_16]) rfl rfl
    (by simp only [Encoding.mask_8_8_16, BitVec.and_zero]; rfl) (by simp only [Encoding.fields_8_8_16])

theorem Encoding.scmp (c m p a b) : Encoding.Statement (.scmp c m p a b) :=
  Encoding.row (x := 0x30#8) (m := 0xFF#8 ++ 0x0#3 ++ 0x0#2 ++ 0x0#3 ++ 0x0#8 ++ 0x0#8) rfl
    (by simp only [Encoding.fields_8_3_2_3_8_8]) rfl rfl
    (by simp only [Encoding.mask_8_3_2_3_8_8, BitVec.and_zero]; rfl) (by simp only [Encoding.fields_8_3_2_3_8_8])

theorem Encoding.saddi (d i) : Encoding.Statement (.saddi d i) :=
  Encoding.row (x := 0x31#8) (m := 0xFF#8 ++ 0x0#8 ++ 0x0#16) rfl
    (by simp only [Encoding.fields_8_8_16]) rfl rfl
    (by simp only [Encoding.mask_8_8_16, BitVec.and_zero]; rfl) (by simp only [Encoding.fields_8_8_16])

theorem Encoding.spopc (d a) : Encoding.Statement (.spopc d a) :=
  Encoding.row (x := 0x32#8) (m := 0xFF#8 ++ 0x0#8 ++ 0x0#8 ++ 0xFF#8) rfl
    (by simp only [Encoding.fields_8_8_8_8]) rfl rfl
    (by simp only [Encoding.mask_8_8_8_8, BitVec.and_zero]; rfl) (by simp only [Encoding.fields_8_8_8_8])

theorem Encoding.sffs (d a) : Encoding.Statement (.sffs d a) :=
  Encoding.row (x := 0x33#8) (m := 0xFF#8 ++ 0x0#8 ++ 0x0#8 ++ 0xFF#8) rfl
    (by simp only [Encoding.fields_8_8_8_8]) rfl rfl
    (by simp only [Encoding.mask_8_8_8_8, BitVec.and_zero]; rfl) (by simp only [Encoding.fields_8_8_8_8])

theorem Encoding.sbfe (d a b) : Encoding.Statement (.sbfe d a b) :=
  Encoding.row (x := 0x34#8) (m := 0xFF#8 ++ 0x0#8 ++ 0x0#8 ++ 0x0#8) rfl
    (by simp only [Encoding.fields_8_8_8_8]) rfl rfl
    (by simp only [Encoding.mask_8_8_8_8, BitVec.and_zero]; rfl) (by simp only [Encoding.fields_8_8_8_8])

theorem Encoding.sdivu (d a b) : Encoding.Statement (.sdivu d a b) :=
  Encoding.row (x := 0x35#8) (m := 0xFF#8 ++ 0x0#8 ++ 0x0#8 ++ 0x0#8) rfl
    (by simp only [Encoding.fields_8_8_8_8]) rfl rfl
    (by simp only [Encoding.mask_8_8_8_8, BitVec.and_zero]; rfl) (by simp only [Encoding.fields_8_8_8_8])

theorem Encoding.sremu (d a b) : Encoding.Statement (.sremu d a b) :=
  Encoding.row (x := 0x36#8) (m := 0xFF#8 ++ 0x0#8 ++ 0x0#8 ++ 0x0#8) rfl
    (by simp only [Encoding.fields_8_8_8_8]) rfl rfl
    (by simp only [Encoding.mask_8_8_8_8, BitVec.and_zero]; rfl) (by simp only [Encoding.fields_8_8_8_8])

theorem Encoding.saddw (d a b) : Encoding.Statement (.saddw d a b) :=
  Encoding.row (x := 0x37#8) (m := 0xFF#8 ++ 0x0#8 ++ 0x0#8 ++ 0x0#8) rfl
    (by simp only [Encoding.fields_8_8_8_8]) rfl rfl
    (by simp only [Encoding.mask_8_8_8_8, BitVec.and_zero]; rfl) (by simp only [Encoding.fields_8_8_8_8])

theorem Encoding.vadd (d a b) : Encoding.Statement (.vadd d a b) :=
  Encoding.row (x := 0x38#8) (m := 0xFF#8 ++ 0x0#8 ++ 0x0#8 ++ 0x0#8) rfl
    (by simp only [Encoding.fields_8_8_8_8]) rfl rfl
    (by simp only [Encoding.mask_8_8_8_8, BitVec.and_zero]; rfl) (by simp only [Encoding.fields_8_8_8_8])

theorem Encoding.vsub (d a b) : Encoding.Statement (.vsub d a b) :=
  Encoding.row (x := 0x39#8) (m := 0xFF#8 ++ 0x0#8 ++ 0x0#8 ++ 0x0#8) rfl
    (by simp only [Encoding.fields_8_8_8_8]) rfl rfl
    (by simp only [Encoding.mask_8_8_8_8, BitVec.and_zero]; rfl) (by simp only [Encoding.fields_8_8_8_8])

theorem Encoding.vmul (d a b) : Encoding.Statement (.vmul d a b) :=
  Encoding.row (x := 0x3A#8) (m := 0xFF#8 ++ 0x0#8 ++ 0x0#8 ++ 0x0#8) rfl
    (by simp only [Encoding.fields_8_8_8_8]) rfl rfl
    (by simp only [Encoding.mask_8_8_8_8, BitVec.and_zero]; rfl) (by simp only [Encoding.fields_8_8_8_8])

theorem Encoding.vmulhi (d a b) : Encoding.Statement (.vmulhi d a b) :=
  Encoding.row (x := 0x3B#8) (m := 0xFF#8 ++ 0x0#8 ++ 0x0#8 ++ 0x0#8) rfl
    (by simp only [Encoding.fields_8_8_8_8]) rfl rfl
    (by simp only [Encoding.mask_8_8_8_8, BitVec.and_zero]; rfl) (by simp only [Encoding.fields_8_8_8_8])

theorem Encoding.vmulhu (d a b) : Encoding.Statement (.vmulhu d a b) :=
  Encoding.row (x := 0x3C#8) (m := 0xFF#8 ++ 0x0#8 ++ 0x0#8 ++ 0x0#8) rfl
    (by simp only [Encoding.fields_8_8_8_8]) rfl rfl
    (by simp only [Encoding.mask_8_8_8_8, BitVec.and_zero]; rfl) (by simp only [Encoding.fields_8_8_8_8])

theorem Encoding.vmad (d a b) : Encoding.Statement (.vmad d a b) :=
  Encoding.row (x := 0x3D#8) (m := 0xFF#8 ++ 0x0#8 ++ 0x0#8 ++ 0x0#8) rfl
    (by simp only [Encoding.fields_8_8_8_8]) rfl rfl
    (by simp only [Encoding.mask_8_8_8_8, BitVec.and_zero]; rfl) (by simp only [Encoding.fields_8_8_8_8])

theorem Encoding.vand (d a b) : Encoding.Statement (.vand d a b) :=
  Encoding.row (x := 0x3E#8) (m := 0xFF#8 ++ 0x0#8 ++ 0x0#8 ++ 0x0#8) rfl
    (by simp only [Encoding.fields_8_8_8_8]) rfl rfl
    (by simp only [Encoding.mask_8_8_8_8, BitVec.and_zero]; rfl) (by simp only [Encoding.fields_8_8_8_8])

theorem Encoding.vor (d a b) : Encoding.Statement (.vor d a b) :=
  Encoding.row (x := 0x3F#8) (m := 0xFF#8 ++ 0x0#8 ++ 0x0#8 ++ 0x0#8) rfl
    (by simp only [Encoding.fields_8_8_8_8]) rfl rfl
    (by simp only [Encoding.mask_8_8_8_8, BitVec.and_zero]; rfl) (by simp only [Encoding.fields_8_8_8_8])

theorem Encoding.vxor (d a b) : Encoding.Statement (.vxor d a b) :=
  Encoding.row (x := 0x40#8) (m := 0xFF#8 ++ 0x0#8 ++ 0x0#8 ++ 0x0#8) rfl
    (by simp only [Encoding.fields_8_8_8_8]) rfl rfl
    (by simp only [Encoding.mask_8_8_8_8, BitVec.and_zero]; rfl) (by simp only [Encoding.fields_8_8_8_8])

theorem Encoding.vshl (d a b) : Encoding.Statement (.vshl d a b) :=
  Encoding.row (x := 0x41#8) (m := 0xFF#8 ++ 0x0#8 ++ 0x0#8 ++ 0x0#8) rfl
    (by simp only [Encoding.fields_8_8_8_8]) rfl rfl
    (by simp only [Encoding.mask_8_8_8_8, BitVec.and_zero]; rfl) (by simp only [Encoding.fields_8_8_8_8])

theorem Encoding.vshr (d a b) : Encoding.Statement (.vshr d a b) :=
  Encoding.row (x := 0x42#8) (m := 0xFF#8 ++ 0x0#8 ++ 0x0#8 ++ 0x0#8) rfl
    (by simp only [Encoding.fields_8_8_8_8]) rfl rfl
    (by simp only [Encoding.mask_8_8_8_8, BitVec.and_zero]; rfl) (by simp only [Encoding.fields_8_8_8_8])

theorem Encoding.vsra (d a b) : Encoding.Statement (.vsra d a b) :=
  Encoding.row (x := 0x43#8) (m := 0xFF#8 ++ 0x0#8 ++ 0x0#8 ++ 0x0#8) rfl
    (by simp only [Encoding.fields_8_8_8_8]) rfl rfl
    (by simp only [Encoding.mask_8_8_8_8, BitVec.and_zero]; rfl) (by simp only [Encoding.fields_8_8_8_8])

theorem Encoding.vmin (d a b) : Encoding.Statement (.vmin d a b) :=
  Encoding.row (x := 0x44#8) (m := 0xFF#8 ++ 0x0#8 ++ 0x0#8 ++ 0x0#8) rfl
    (by simp only [Encoding.fields_8_8_8_8]) rfl rfl
    (by simp only [Encoding.mask_8_8_8_8, BitVec.and_zero]; rfl) (by simp only [Encoding.fields_8_8_8_8])

theorem Encoding.vmax (d a b) : Encoding.Statement (.vmax d a b) :=
  Encoding.row (x := 0x45#8) (m := 0xFF#8 ++ 0x0#8 ++ 0x0#8 ++ 0x0#8) rfl
    (by simp only [Encoding.fields_8_8_8_8]) rfl rfl
    (by simp only [Encoding.mask_8_8_8_8, BitVec.and_zero]; rfl) (by simp only [Encoding.fields_8_8_8_8])

theorem Encoding.vminu (d a b) : Encoding.Statement (.vminu d a b) :=
  Encoding.row (x := 0x46#8) (m := 0xFF#8 ++ 0x0#8 ++ 0x0#8 ++ 0x0#8) rfl
    (by simp only [Encoding.fields_8_8_8_8]) rfl rfl
    (by simp only [Encoding.mask_8_8_8_8, BitVec.and_zero]; rfl) (by simp only [Encoding.fields_8_8_8_8])

theorem Encoding.vmaxu (d a b) : Encoding.Statement (.vmaxu d a b) :=
  Encoding.row (x := 0x47#8) (m := 0xFF#8 ++ 0x0#8 ++ 0x0#8 ++ 0x0#8) rfl
    (by simp only [Encoding.fields_8_8_8_8]) rfl rfl
    (by simp only [Encoding.mask_8_8_8_8, BitVec.and_zero]; rfl) (by simp only [Encoding.fields_8_8_8_8])

theorem Encoding.vabsd (d a b) : Encoding.Statement (.vabsd d a b) :=
  Encoding.row (x := 0x48#8) (m := 0xFF#8 ++ 0x0#8 ++ 0x0#8 ++ 0x0#8) rfl
    (by simp only [Encoding.fields_8_8_8_8]) rfl rfl
    (by simp only [Encoding.mask_8_8_8_8, BitVec.and_zero]; rfl) (by simp only [Encoding.fields_8_8_8_8])

theorem Encoding.vadds (d a b) : Encoding.Statement (.vadds d a b) :=
  Encoding.row (x := 0x49#8) (m := 0xFF#8 ++ 0x0#8 ++ 0x0#8 ++ 0x0#8) rfl
    (by simp only [Encoding.fields_8_8_8_8]) rfl rfl
    (by simp only [Encoding.mask_8_8_8_8, BitVec.and_zero]; rfl) (by simp only [Encoding.fields_8_8_8_8])

theorem Encoding.vsubs (d a b) : Encoding.Statement (.vsubs d a b) :=
  Encoding.row (x := 0x4A#8) (m := 0xFF#8 ++ 0x0#8 ++ 0x0#8 ++ 0x0#8) rfl
    (by simp only [Encoding.fields_8_8_8_8]) rfl rfl
    (by simp only [Encoding.mask_8_8_8_8, BitVec.and_zero]; rfl) (by simp only [Encoding.fields_8_8_8_8])

theorem Encoding.vpopc (d a) : Encoding.Statement (.vpopc d a) :=
  Encoding.row (x := 0x4B#8) (m := 0xFF#8 ++ 0x0#8 ++ 0x0#8 ++ 0xFF#8) rfl
    (by simp only [Encoding.fields_8_8_8_8]) rfl rfl
    (by simp only [Encoding.mask_8_8_8_8, BitVec.and_zero]; rfl) (by simp only [Encoding.fields_8_8_8_8])

theorem Encoding.vclz (d a) : Encoding.Statement (.vclz d a) :=
  Encoding.row (x := 0x4C#8) (m := 0xFF#8 ++ 0x0#8 ++ 0x0#8 ++ 0xFF#8) rfl
    (by simp only [Encoding.fields_8_8_8_8]) rfl rfl
    (by simp only [Encoding.mask_8_8_8_8, BitVec.and_zero]; rfl) (by simp only [Encoding.fields_8_8_8_8])

theorem Encoding.vbrev (d a) : Encoding.Statement (.vbrev d a) :=
  Encoding.row (x := 0x4D#8) (m := 0xFF#8 ++ 0x0#8 ++ 0x0#8 ++ 0xFF#8) rfl
    (by simp only [Encoding.fields_8_8_8_8]) rfl rfl
    (by simp only [Encoding.mask_8_8_8_8, BitVec.and_zero]; rfl) (by simp only [Encoding.fields_8_8_8_8])

theorem Encoding.vbfe (d a b) : Encoding.Statement (.vbfe d a b) :=
  Encoding.row (x := 0x4E#8) (m := 0xFF#8 ++ 0x0#8 ++ 0x0#8 ++ 0x0#8) rfl
    (by simp only [Encoding.fields_8_8_8_8]) rfl rfl
    (by simp only [Encoding.mask_8_8_8_8, BitVec.and_zero]; rfl) (by simp only [Encoding.fields_8_8_8_8])

theorem Encoding.vbfi (d a b) : Encoding.Statement (.vbfi d a b) :=
  Encoding.row (x := 0x4F#8) (m := 0xFF#8 ++ 0x0#8 ++ 0x0#8 ++ 0x0#8) rfl
    (by simp only [Encoding.fields_8_8_8_8]) rfl rfl
    (by simp only [Encoding.mask_8_8_8_8, BitVec.and_zero]; rfl) (by simp only [Encoding.fields_8_8_8_8])

theorem Encoding.vmov (d a) : Encoding.Statement (.vmov d a) :=
  Encoding.row (x := 0x50#8) (m := 0xFF#8 ++ 0x0#8 ++ 0x0#8 ++ 0xFF#8) rfl
    (by simp only [Encoding.fields_8_8_8_8]) rfl rfl
    (by simp only [Encoding.mask_8_8_8_8, BitVec.and_zero]; rfl) (by simp only [Encoding.fields_8_8_8_8])

theorem Encoding.vmovi (d i) : Encoding.Statement (.vmovi d i) :=
  Encoding.row (x := 0x51#8) (m := 0xFF#8 ++ 0x0#8 ++ 0x0#16) rfl
    (by simp only [Encoding.fields_8_8_16]) rfl rfl
    (by simp only [Encoding.mask_8_8_16, BitVec.and_zero]; rfl) (by simp only [Encoding.fields_8_8_16])

theorem Encoding.vmovhi (d i) : Encoding.Statement (.vmovhi d i) :=
  Encoding.row (x := 0x52#8) (m := 0xFF#8 ++ 0x0#8 ++ 0x0#16) rfl
    (by simp only [Encoding.fields_8_8_16]) rfl rfl
    (by simp only [Encoding.mask_8_8_16, BitVec.and_zero]; rfl) (by simp only [Encoding.fields_8_8_16])

theorem Encoding.vcmp (c m p a b) : Encoding.Statement (.vcmp c m p a b) :=
  Encoding.row (x := 0x53#8) (m := 0xFF#8 ++ 0x0#3 ++ 0x0#2 ++ 0x0#3 ++ 0x0#8 ++ 0x0#8) rfl
    (by simp only [Encoding.fields_8_3_2_3_8_8]) rfl rfl
    (by simp only [Encoding.mask_8_3_2_3_8_8, BitVec.and_zero]; rfl) (by simp only [Encoding.fields_8_3_2_3_8_8])

theorem Encoding.vcmpu (c m p a b) : Encoding.Statement (.vcmpu c m p a b) :=
  Encoding.row (x := 0x54#8) (m := 0xFF#8 ++ 0x0#3 ++ 0x0#2 ++ 0x0#3 ++ 0x0#8 ++ 0x0#8) rfl
    (by simp only [Encoding.fields_8_3_2_3_8_8]) rfl rfl
    (by simp only [Encoding.mask_8_3_2_3_8_8, BitVec.and_zero]; rfl) (by simp only [Encoding.fields_8_3_2_3_8_8])

theorem Encoding.vprmt (d a b) : Encoding.Statement (.vprmt d a b) :=
  Encoding.row (x := 0x55#8) (m := 0xFF#8 ++ 0x0#8 ++ 0x0#8 ++ 0x0#8) rfl
    (by simp only [Encoding.fields_8_8_8_8]) rfl rfl
    (by simp only [Encoding.mask_8_8_8_8, BitVec.and_zero]; rfl) (by simp only [Encoding.fields_8_8_8_8])

theorem Encoding.vcvti (d a s t) : Encoding.Statement (.vcvti d a s t) :=
  Encoding.row (x := 0x56#8) (m := 0xFF#8 ++ 0x0#8 ++ 0x0#8 ++ 0x0#4 ++ 0x0#4) rfl
    (by simp only [Encoding.fields_8_8_8_4_4]) rfl rfl
    (by simp only [Encoding.mask_8_8_8_4_4, BitVec.and_zero]; rfl) (by simp only [Encoding.fields_8_8_8_4_4])

theorem Encoding.vaddw (d a b) : Encoding.Statement (.vaddw d a b) :=
  Encoding.row (x := 0x57#8) (m := 0xFF#8 ++ 0x0#8 ++ 0x0#8 ++ 0x0#8) rfl
    (by simp only [Encoding.fields_8_8_8_8]) rfl rfl
    (by simp only [Encoding.mask_8_8_8_8, BitVec.and_zero]; rfl) (by simp only [Encoding.fields_8_8_8_8])

theorem Encoding.vselPk (p d a b) : Encoding.Statement (.vselPk p d a b) := by
  intro w h hp
  obtain rfl := Option.some.inj h
  have hf : fld (0xB#5 ++ p ++ d ++ a ++ b) 24 3 = p ∧ fld (0xB#5 ++ p ++ d ++ a ++ b) 16 8 = d ∧
      fld (0xB#5 ++ p ++ d ++ a ++ b) 8 8 = a ∧ fld (0xB#5 ++ p ++ d ++ a ++ b) 0 8 = b := by
    simp (disch := decide) only [fld, BitVec.extractLsb'_append_eq_of_add_le, BitVec.extractLsb'_append_eq_of_le,
      Nat.reduceSub, BitVec.extractLsb'_eq_self, and_self]
  have hm : (0xB#5 ++ p ++ d ++ a ++ b) &&& 0xF8000000#32 = 0x58000000#32 := by
    rw [show 0xF8000000#32 = 0x1F#5 ++ 0#3 ++ 0#8 ++ 0#8 ++ 0#8 from rfl]
    simp only [Encoding.mask_5_3_8_8_8, BitVec.and_zero]; rfl
  have ho : fld (0xB#5 ++ p ++ d ++ a ++ b) 24 8 = 0xB#5 ++ p := by
    rw [show 0xB#5 ++ p ++ d ++ a ++ b = (0xB#5 ++ p) ++ (d ++ a ++ b) by
      simp only [BitVec.append_assoc, BitVec.cast_eq]]
    simp (disch := decide) only [fld, BitVec.extractLsb'_append_eq_of_le]
    exact BitVec.extractLsb'_eq_self
  have hp : p ≠ 0#3 := by simpa [Instr.wellFormed] using hp
  have hr : ∀ p : BitVec 3, p ≠ 0#3 → reservedOp (0xB#5 ++ p).toNat = false := by decide
  have hrow : ∀ p : BitVec 3, p ≠ 0#3 → ∀ w, Encoding.rows (0xB#5 ++ p) w = fixedBits w 0xF8000000#32 0x58000000#32
      (.vselPk (fld w 24 3) (fld w 16 8) (fld w 8 8) (fld w 0 8)) := by
    intro p hp w
    have : p = 1#3 ∨ p = 2#3 ∨ p = 3#3 ∨ p = 4#3 ∨ p = 5#3 ∨ p = 6#3 ∨ p = 7#3 := by revert p; decide
    rcases this with rfl | rfl | rfl | rfl | rfl | rfl | rfl <;> rfl
  rw [Encoding.decode_eq ho (hr p hp), hrow p hp, fixedBits, if_pos hm, hf.1, hf.2.1, hf.2.2.1, hf.2.2.2]

theorem Encoding.fadd (d a b) : Encoding.Statement (.fadd d a b) :=
  Encoding.row (x := 0x60#8) (m := 0xFF#8 ++ 0x0#8 ++ 0x0#8 ++ 0x0#8) rfl
    (by simp only [Encoding.fields_8_8_8_8]) rfl rfl
    (by simp only [Encoding.mask_8_8_8_8, BitVec.and_zero]; rfl) (by simp only [Encoding.fields_8_8_8_8])

theorem Encoding.fsub (d a b) : Encoding.Statement (.fsub d a b) :=
  Encoding.row (x := 0x61#8) (m := 0xFF#8 ++ 0x0#8 ++ 0x0#8 ++ 0x0#8) rfl
    (by simp only [Encoding.fields_8_8_8_8]) rfl rfl
    (by simp only [Encoding.mask_8_8_8_8, BitVec.and_zero]; rfl) (by simp only [Encoding.fields_8_8_8_8])

theorem Encoding.fmul (d a b) : Encoding.Statement (.fmul d a b) :=
  Encoding.row (x := 0x62#8) (m := 0xFF#8 ++ 0x0#8 ++ 0x0#8 ++ 0x0#8) rfl
    (by simp only [Encoding.fields_8_8_8_8]) rfl rfl
    (by simp only [Encoding.mask_8_8_8_8, BitVec.and_zero]; rfl) (by simp only [Encoding.fields_8_8_8_8])

theorem Encoding.ffma (d a b) : Encoding.Statement (.ffma d a b) :=
  Encoding.row (x := 0x63#8) (m := 0xFF#8 ++ 0x0#8 ++ 0x0#8 ++ 0x0#8) rfl
    (by simp only [Encoding.fields_8_8_8_8]) rfl rfl
    (by simp only [Encoding.mask_8_8_8_8, BitVec.and_zero]; rfl) (by simp only [Encoding.fields_8_8_8_8])

theorem Encoding.fmin (d a b) : Encoding.Statement (.fmin d a b) :=
  Encoding.row (x := 0x64#8) (m := 0xFF#8 ++ 0x0#8 ++ 0x0#8 ++ 0x0#8) rfl
    (by simp only [Encoding.fields_8_8_8_8]) rfl rfl
    (by simp only [Encoding.mask_8_8_8_8, BitVec.and_zero]; rfl) (by simp only [Encoding.fields_8_8_8_8])

theorem Encoding.fmax (d a b) : Encoding.Statement (.fmax d a b) :=
  Encoding.row (x := 0x65#8) (m := 0xFF#8 ++ 0x0#8 ++ 0x0#8 ++ 0x0#8) rfl
    (by simp only [Encoding.fields_8_8_8_8]) rfl rfl
    (by simp only [Encoding.mask_8_8_8_8, BitVec.and_zero]; rfl) (by simp only [Encoding.fields_8_8_8_8])

theorem Encoding.fcmp (c m p a b) : Encoding.Statement (.fcmp c m p a b) :=
  Encoding.row (x := 0x66#8) (m := 0xFF#8 ++ 0x0#3 ++ 0x0#2 ++ 0x0#3 ++ 0x0#8 ++ 0x0#8) rfl
    (by simp only [Encoding.fields_8_3_2_3_8_8]) rfl rfl
    (by simp only [Encoding.mask_8_3_2_3_8_8, BitVec.and_zero]; rfl) (by simp only [Encoding.fields_8_3_2_3_8_8])

theorem Encoding.fclass (d a) : Encoding.Statement (.fclass d a) :=
  Encoding.row (x := 0x67#8) (m := 0xFF#8 ++ 0x0#8 ++ 0x0#8 ++ 0xFF#8) rfl
    (by simp only [Encoding.fields_8_8_8_8]) rfl rfl
    (by simp only [Encoding.mask_8_8_8_8, BitVec.and_zero]; rfl) (by simp only [Encoding.fields_8_8_8_8])

theorem Encoding.fscaleb (d a b) : Encoding.Statement (.fscaleb d a b) :=
  Encoding.row (x := 0x68#8) (m := 0xFF#8 ++ 0x0#8 ++ 0x0#8 ++ 0x0#8) rfl
    (by simp only [Encoding.fields_8_8_8_8]) rfl rfl
    (by simp only [Encoding.mask_8_8_8_8, BitVec.and_zero]; rfl) (by simp only [Encoding.fields_8_8_8_8])

theorem Encoding.ffrac (d a) : Encoding.Statement (.ffrac d a) :=
  Encoding.row (x := 0x69#8) (m := 0xFF#8 ++ 0x0#8 ++ 0x0#8 ++ 0xFF#8) rfl
    (by simp only [Encoding.fields_8_8_8_8]) rfl rfl
    (by simp only [Encoding.mask_8_8_8_8, BitVec.and_zero]; rfl) (by simp only [Encoding.fields_8_8_8_8])

theorem Encoding.frnd (d a) : Encoding.Statement (.frnd d a) :=
  Encoding.row (x := 0x6A#8) (m := 0xFF#8 ++ 0x0#8 ++ 0x0#8 ++ 0xFF#8) rfl
    (by simp only [Encoding.fields_8_8_8_8]) rfl rfl
    (by simp only [Encoding.mask_8_8_8_8, BitVec.and_zero]; rfl) (by simp only [Encoding.fields_8_8_8_8])

theorem Encoding.fcvt (d a s t) : Encoding.Statement (.fcvt d a s t) :=
  Encoding.row (x := 0x6B#8) (m := 0xFF#8 ++ 0x0#8 ++ 0x0#8 ++ 0x0#4 ++ 0x0#4) rfl
    (by simp only [Encoding.fields_8_8_8_4_4]) rfl rfl
    (by simp only [Encoding.mask_8_8_8_4_4, BitVec.and_zero]; rfl) (by simp only [Encoding.fields_8_8_8_4_4])

theorem Encoding.dadd (d a b) : Encoding.Statement (.dadd d a b) :=
  Encoding.row (x := 0x6C#8) (m := 0xFF#8 ++ 0x0#8 ++ 0x0#8 ++ 0x0#8) rfl
    (by simp only [Encoding.fields_8_8_8_8]) rfl rfl
    (by simp only [Encoding.mask_8_8_8_8, BitVec.and_zero]; rfl) (by simp only [Encoding.fields_8_8_8_8])

theorem Encoding.dsub (d a b) : Encoding.Statement (.dsub d a b) :=
  Encoding.row (x := 0x6D#8) (m := 0xFF#8 ++ 0x0#8 ++ 0x0#8 ++ 0x0#8) rfl
    (by simp only [Encoding.fields_8_8_8_8]) rfl rfl
    (by simp only [Encoding.mask_8_8_8_8, BitVec.and_zero]; rfl) (by simp only [Encoding.fields_8_8_8_8])

theorem Encoding.dmul (d a b) : Encoding.Statement (.dmul d a b) :=
  Encoding.row (x := 0x6E#8) (m := 0xFF#8 ++ 0x0#8 ++ 0x0#8 ++ 0x0#8) rfl
    (by simp only [Encoding.fields_8_8_8_8]) rfl rfl
    (by simp only [Encoding.mask_8_8_8_8, BitVec.and_zero]; rfl) (by simp only [Encoding.fields_8_8_8_8])

theorem Encoding.dfma (d a b) : Encoding.Statement (.dfma d a b) :=
  Encoding.row (x := 0x6F#8) (m := 0xFF#8 ++ 0x0#8 ++ 0x0#8 ++ 0x0#8) rfl
    (by simp only [Encoding.fields_8_8_8_8]) rfl rfl
    (by simp only [Encoding.mask_8_8_8_8, BitVec.and_zero]; rfl) (by simp only [Encoding.fields_8_8_8_8])

theorem Encoding.dcmp (c m p a b) : Encoding.Statement (.dcmp c m p a b) :=
  Encoding.row (x := 0x70#8) (m := 0xFF#8 ++ 0x0#3 ++ 0x0#2 ++ 0x0#3 ++ 0x0#8 ++ 0x0#8) rfl
    (by simp only [Encoding.fields_8_3_2_3_8_8]) rfl rfl
    (by simp only [Encoding.mask_8_3_2_3_8_8, BitVec.and_zero]; rfl) (by simp only [Encoding.fields_8_3_2_3_8_8])

theorem Encoding.dcvt (d a s t) : Encoding.Statement (.dcvt d a s t) :=
  Encoding.row (x := 0x71#8) (m := 0xFF#8 ++ 0x0#8 ++ 0x0#8 ++ 0x0#4 ++ 0x0#4) rfl
    (by simp only [Encoding.fields_8_8_8_4_4]) rfl rfl
    (by simp only [Encoding.mask_8_8_8_4_4, BitVec.and_zero]; rfl) (by simp only [Encoding.fields_8_8_8_4_4])

theorem Encoding.badd2 (d a b) : Encoding.Statement (.badd2 d a b) :=
  Encoding.row (x := 0x72#8) (m := 0xFF#8 ++ 0x0#8 ++ 0x0#8 ++ 0x0#8) rfl
    (by simp only [Encoding.fields_8_8_8_8]) rfl rfl
    (by simp only [Encoding.mask_8_8_8_8, BitVec.and_zero]; rfl) (by simp only [Encoding.fields_8_8_8_8])

theorem Encoding.bmul2 (d a b) : Encoding.Statement (.bmul2 d a b) :=
  Encoding.row (x := 0x73#8) (m := 0xFF#8 ++ 0x0#8 ++ 0x0#8 ++ 0x0#8) rfl
    (by simp only [Encoding.fields_8_8_8_8]) rfl rfl
    (by simp only [Encoding.mask_8_8_8_8, BitVec.and_zero]; rfl) (by simp only [Encoding.fields_8_8_8_8])

theorem Encoding.bfma2 (d a b) : Encoding.Statement (.bfma2 d a b) :=
  Encoding.row (x := 0x74#8) (m := 0xFF#8 ++ 0x0#8 ++ 0x0#8 ++ 0x0#8) rfl
    (by simp only [Encoding.fields_8_8_8_8]) rfl rfl
    (by simp only [Encoding.mask_8_8_8_8, BitVec.and_zero]; rfl) (by simp only [Encoding.fields_8_8_8_8])

theorem Encoding.hadd2 (d a b) : Encoding.Statement (.hadd2 d a b) :=
  Encoding.row (x := 0x75#8) (m := 0xFF#8 ++ 0x0#8 ++ 0x0#8 ++ 0x0#8) rfl
    (by simp only [Encoding.fields_8_8_8_8]) rfl rfl
    (by simp only [Encoding.mask_8_8_8_8, BitVec.and_zero]; rfl) (by simp only [Encoding.fields_8_8_8_8])

theorem Encoding.hmul2 (d a b) : Encoding.Statement (.hmul2 d a b) :=
  Encoding.row (x := 0x76#8) (m := 0xFF#8 ++ 0x0#8 ++ 0x0#8 ++ 0x0#8) rfl
    (by simp only [Encoding.fields_8_8_8_8]) rfl rfl
    (by simp only [Encoding.mask_8_8_8_8, BitVec.and_zero]; rfl) (by simp only [Encoding.fields_8_8_8_8])

theorem Encoding.hfma2 (d a b) : Encoding.Statement (.hfma2 d a b) :=
  Encoding.row (x := 0x77#8) (m := 0xFF#8 ++ 0x0#8 ++ 0x0#8 ++ 0x0#8) rfl
    (by simp only [Encoding.fields_8_8_8_8]) rfl rfl
    (by simp only [Encoding.mask_8_8_8_8, BitVec.and_zero]; rfl) (by simp only [Encoding.fields_8_8_8_8])

theorem Encoding.vdot2Bf (d a b) : Encoding.Statement (.vdot2Bf d a b) :=
  Encoding.row (x := 0x78#8) (m := 0xFF#8 ++ 0x0#8 ++ 0x0#8 ++ 0x0#8) rfl
    (by simp only [Encoding.fields_8_8_8_8]) rfl rfl
    (by simp only [Encoding.mask_8_8_8_8, BitVec.and_zero]; rfl) (by simp only [Encoding.fields_8_8_8_8])

theorem Encoding.vdot4E4 (d a b) : Encoding.Statement (.vdot4E4 d a b) :=
  Encoding.row (x := 0x79#8) (m := 0xFF#8 ++ 0x0#8 ++ 0x0#8 ++ 0x0#8) rfl
    (by simp only [Encoding.fields_8_8_8_8]) rfl rfl
    (by simp only [Encoding.mask_8_8_8_8, BitVec.and_zero]; rfl) (by simp only [Encoding.fields_8_8_8_8])

theorem Encoding.vdot4E5 (d a b) : Encoding.Statement (.vdot4E5 d a b) :=
  Encoding.row (x := 0x7A#8) (m := 0xFF#8 ++ 0x0#8 ++ 0x0#8 ++ 0x0#8) rfl
    (by simp only [Encoding.fields_8_8_8_8]) rfl rfl
    (by simp only [Encoding.mask_8_8_8_8, BitVec.and_zero]; rfl) (by simp only [Encoding.fields_8_8_8_8])

theorem Encoding.vdot8F4 (d a b) : Encoding.Statement (.vdot8F4 d a b) :=
  Encoding.row (x := 0x7B#8) (m := 0xFF#8 ++ 0x0#8 ++ 0x0#8 ++ 0x0#8) rfl
    (by simp only [Encoding.fields_8_8_8_8]) rfl rfl
    (by simp only [Encoding.mask_8_8_8_8, BitVec.and_zero]; rfl) (by simp only [Encoding.fields_8_8_8_8])

theorem Encoding.vdot4I8 (d a b) : Encoding.Statement (.vdot4I8 d a b) :=
  Encoding.row (x := 0x7C#8) (m := 0xFF#8 ++ 0x0#8 ++ 0x0#8 ++ 0x0#8) rfl
    (by simp only [Encoding.fields_8_8_8_8]) rfl rfl
    (by simp only [Encoding.mask_8_8_8_8, BitVec.and_zero]; rfl) (by simp only [Encoding.fields_8_8_8_8])

theorem Encoding.vdot2H (d a b) : Encoding.Statement (.vdot2H d a b) :=
  Encoding.row (x := 0x7D#8) (m := 0xFF#8 ++ 0x0#8 ++ 0x0#8 ++ 0x0#8) rfl
    (by simp only [Encoding.fields_8_8_8_8]) rfl rfl
    (by simp only [Encoding.mask_8_8_8_8, BitVec.and_zero]; rfl) (by simp only [Encoding.fields_8_8_8_8])

theorem Encoding.cvtpkBf (d a b) : Encoding.Statement (.cvtpkBf d a b) :=
  Encoding.row (x := 0x7E#8) (m := 0xFF#8 ++ 0x0#8 ++ 0x0#8 ++ 0x0#8) rfl
    (by simp only [Encoding.fields_8_8_8_8]) rfl rfl
    (by simp only [Encoding.mask_8_8_8_8, BitVec.and_zero]; rfl) (by simp only [Encoding.fields_8_8_8_8])

theorem Encoding.cvtpkH (d a b) : Encoding.Statement (.cvtpkH d a b) :=
  Encoding.row (x := 0x7F#8) (m := 0xFF#8 ++ 0x0#8 ++ 0x0#8 ++ 0x0#8) rfl
    (by simp only [Encoding.fields_8_8_8_8]) rfl rfl
    (by simp only [Encoding.mask_8_8_8_8, BitVec.and_zero]; rfl) (by simp only [Encoding.fields_8_8_8_8])

theorem Encoding.cvt8E4l (d a b) : Encoding.Statement (.cvt8E4l d a b) :=
  Encoding.row (x := 0x80#8) (m := 0xFF#8 ++ 0x0#8 ++ 0x0#8 ++ 0x0#8) rfl
    (by simp only [Encoding.fields_8_8_8_8]) rfl rfl
    (by simp only [Encoding.mask_8_8_8_8, BitVec.and_zero]; rfl) (by simp only [Encoding.fields_8_8_8_8])

theorem Encoding.cvt8E4h (d a b) : Encoding.Statement (.cvt8E4h d a b) :=
  Encoding.row (x := 0x81#8) (m := 0xFF#8 ++ 0x0#8 ++ 0x0#8 ++ 0x0#8) rfl
    (by simp only [Encoding.fields_8_8_8_8]) rfl rfl
    (by simp only [Encoding.mask_8_8_8_8, BitVec.and_zero]; rfl) (by simp only [Encoding.fields_8_8_8_8])

theorem Encoding.cvt8E5l (d a b) : Encoding.Statement (.cvt8E5l d a b) :=
  Encoding.row (x := 0x82#8) (m := 0xFF#8 ++ 0x0#8 ++ 0x0#8 ++ 0x0#8) rfl
    (by simp only [Encoding.fields_8_8_8_8]) rfl rfl
    (by simp only [Encoding.mask_8_8_8_8, BitVec.and_zero]; rfl) (by simp only [Encoding.fields_8_8_8_8])

theorem Encoding.cvt8E5h (d a b) : Encoding.Statement (.cvt8E5h d a b) :=
  Encoding.row (x := 0x83#8) (m := 0xFF#8 ++ 0x0#8 ++ 0x0#8 ++ 0x0#8) rfl
    (by simp only [Encoding.fields_8_8_8_8]) rfl rfl
    (by simp only [Encoding.mask_8_8_8_8, BitVec.and_zero]; rfl) (by simp only [Encoding.fields_8_8_8_8])

theorem Encoding.unpk (d a f s) : Encoding.Statement (.unpk d a f s) :=
  Encoding.row (x := 0x84#8) (m := 0xFF#8 ++ 0x0#8 ++ 0x0#8 ++ 0x0#4 ++ 0x0#4) rfl
    (by simp only [Encoding.fields_8_8_8_4_4]) rfl rfl
    (by simp only [Encoding.mask_8_8_8_4_4, BitVec.and_zero]; rfl) (by simp only [Encoding.fields_8_8_8_4_4])

theorem Encoding.dice (d) : Encoding.Statement (.dice d) :=
  Encoding.row (x := 0x85#8) (m := 0xFF#8 ++ 0x0#8 ++ 0xFFFF#16) rfl
    (by simp only [Encoding.fields_8_8_16]) rfl rfl
    (by simp only [Encoding.mask_8_8_16, BitVec.and_zero]; rfl) (by simp only [Encoding.fields_8_8_16])

theorem Encoding.shfl (d a b) : Encoding.Statement (.shfl d a b) :=
  Encoding.row (x := 0x88#8) (m := 0xFF#8 ++ 0x0#8 ++ 0x0#8 ++ 0x0#8) rfl
    (by simp only [Encoding.fields_8_8_8_8]) rfl rfl
    (by simp only [Encoding.mask_8_8_8_8, BitVec.and_zero]; rfl) (by simp only [Encoding.fields_8_8_8_8])

theorem Encoding.shflx (d a b) : Encoding.Statement (.shflx d a b) :=
  Encoding.row (x := 0x89#8) (m := 0xFF#8 ++ 0x0#8 ++ 0x0#8 ++ 0x0#8) rfl
    (by simp only [Encoding.fields_8_8_8_8]) rfl rfl
    (by simp only [Encoding.mask_8_8_8_8, BitVec.and_zero]; rfl) (by simp only [Encoding.fields_8_8_8_8])

theorem Encoding.shflu (d a b) : Encoding.Statement (.shflu d a b) :=
  Encoding.row (x := 0x8A#8) (m := 0xFF#8 ++ 0x0#8 ++ 0x0#8 ++ 0x0#8) rfl
    (by simp only [Encoding.fields_8_8_8_8]) rfl rfl
    (by simp only [Encoding.mask_8_8_8_8, BitVec.and_zero]; rfl) (by simp only [Encoding.fields_8_8_8_8])

theorem Encoding.shfld (d a b) : Encoding.Statement (.shfld d a b) :=
  Encoding.row (x := 0x8B#8) (m := 0xFF#8 ++ 0x0#8 ++ 0x0#8 ++ 0x0#8) rfl
    (by simp only [Encoding.fields_8_8_8_8]) rfl rfl
    (by simp only [Encoding.mask_8_8_8_8, BitVec.and_zero]; rfl) (by simp only [Encoding.fields_8_8_8_8])

theorem Encoding.swapp (d a b) : Encoding.Statement (.swapp d a b) :=
  Encoding.row (x := 0x8C#8) (m := 0xFF#8 ++ 0x0#8 ++ 0x0#8 ++ 0x0#8) rfl
    (by simp only [Encoding.fields_8_8_8_8]) rfl rfl
    (by simp only [Encoding.mask_8_8_8_8, BitVec.and_zero]; rfl) (by simp only [Encoding.fields_8_8_8_8])

theorem Encoding.vote (d k n p) : Encoding.Statement (.vote d k n p) :=
  Encoding.row (x := 0x8D#8) (m := 0xFF#8 ++ 0x0#8 ++ 0x3F#6 ++ 0x0#2 ++ 0x0#1 ++ 0x0#3 ++ 0xF#4) rfl
    (by simp only [Encoding.fields_8_8_6_2_1_3_4]) rfl rfl
    (by simp only [Encoding.mask_8_8_6_2_1_3_4, BitVec.and_zero]; rfl) (by simp only [Encoding.fields_8_8_6_2_1_3_4])

theorem Encoding.redux (d a r) : Encoding.Statement (.redux d a r) :=
  Encoding.row (x := 0x8E#8) (m := 0xFF#8 ++ 0x0#8 ++ 0x0#8 ++ 0x0#4 ++ 0xF#4) rfl
    (by simp only [Encoding.fields_8_8_8_4_4]) rfl rfl
    (by simp only [Encoding.mask_8_8_8_4_4, BitVec.and_zero]; rfl) (by simp only [Encoding.fields_8_8_8_4_4])

theorem Encoding.scan (d a r x) : Encoding.Statement (.scan d a r x) :=
  Encoding.row (x := 0x8F#8) (m := 0xFF#8 ++ 0x0#8 ++ 0x0#8 ++ 0x0#4 ++ 0x0#1 ++ 0x7#3) rfl
    (by simp only [Encoding.fields_8_8_8_4_1_3]) rfl rfl
    (by simp only [Encoding.mask_8_8_8_4_1_3, BitVec.and_zero]; rfl) (by simp only [Encoding.fields_8_8_8_4_1_3])

theorem Encoding.sint (d a) : Encoding.Statement (.sint d a) :=
  Encoding.row (x := 0x90#8) (m := 0xFF#8 ++ 0x0#8 ++ 0x0#8 ++ 0xFF#8) rfl
    (by simp only [Encoding.fields_8_8_8_8]) rfl rfl
    (by simp only [Encoding.mask_8_8_8_8, BitVec.and_zero]; rfl) (by simp only [Encoding.fields_8_8_8_8])

theorem Encoding.cost (d a) : Encoding.Statement (.cost d a) :=
  Encoding.row (x := 0x91#8) (m := 0xFF#8 ++ 0x0#8 ++ 0x0#8 ++ 0xFF#8) rfl
    (by simp only [Encoding.fields_8_8_8_8]) rfl rfl
    (by simp only [Encoding.mask_8_8_8_8, BitVec.and_zero]; rfl) (by simp only [Encoding.fields_8_8_8_8])

theorem Encoding.exp2 (d a) : Encoding.Statement (.exp2 d a) :=
  Encoding.row (x := 0x92#8) (m := 0xFF#8 ++ 0x0#8 ++ 0x0#8 ++ 0xFF#8) rfl
    (by simp only [Encoding.fields_8_8_8_8]) rfl rfl
    (by simp only [Encoding.mask_8_8_8_8, BitVec.and_zero]; rfl) (by simp only [Encoding.fields_8_8_8_8])

theorem Encoding.log2 (d a) : Encoding.Statement (.log2 d a) :=
  Encoding.row (x := 0x93#8) (m := 0xFF#8 ++ 0x0#8 ++ 0x0#8 ++ 0xFF#8) rfl
    (by simp only [Encoding.fields_8_8_8_8]) rfl rfl
    (by simp only [Encoding.mask_8_8_8_8, BitVec.and_zero]; rfl) (by simp only [Encoding.fields_8_8_8_8])

theorem Encoding.rcp (d a) : Encoding.Statement (.rcp d a) :=
  Encoding.row (x := 0x94#8) (m := 0xFF#8 ++ 0x0#8 ++ 0x0#8 ++ 0xFF#8) rfl
    (by simp only [Encoding.fields_8_8_8_8]) rfl rfl
    (by simp only [Encoding.mask_8_8_8_8, BitVec.and_zero]; rfl) (by simp only [Encoding.fields_8_8_8_8])

theorem Encoding.rsq (d a) : Encoding.Statement (.rsq d a) :=
  Encoding.row (x := 0x95#8) (m := 0xFF#8 ++ 0x0#8 ++ 0x0#8 ++ 0xFF#8) rfl
    (by simp only [Encoding.fields_8_8_8_8]) rfl rfl
    (by simp only [Encoding.mask_8_8_8_8, BitVec.and_zero]; rfl) (by simp only [Encoding.fields_8_8_8_8])

theorem Encoding.sqrt (d a) : Encoding.Statement (.sqrt d a) :=
  Encoding.row (x := 0x96#8) (m := 0xFF#8 ++ 0x0#8 ++ 0x0#8 ++ 0xFF#8) rfl
    (by simp only [Encoding.fields_8_8_8_8]) rfl rfl
    (by simp only [Encoding.mask_8_8_8_8, BitVec.and_zero]; rfl) (by simp only [Encoding.fields_8_8_8_8])

theorem Encoding.tanh (d a) : Encoding.Statement (.tanh d a) :=
  Encoding.row (x := 0x97#8) (m := 0xFF#8 ++ 0x0#8 ++ 0x0#8 ++ 0xFF#8) rfl
    (by simp only [Encoding.fields_8_8_8_8]) rfl rfl
    (by simp only [Encoding.mask_8_8_8_8, BitVec.and_zero]; rfl) (by simp only [Encoding.fields_8_8_8_8])

theorem Encoding.divf (d a b) : Encoding.Statement (.divf d a b) :=
  Encoding.row (x := 0x98#8) (m := 0xFF#8 ++ 0x0#8 ++ 0x0#8 ++ 0x0#8) rfl
    (by simp only [Encoding.fields_8_8_8_8]) rfl rfl
    (by simp only [Encoding.mask_8_8_8_8, BitVec.and_zero]; rfl) (by simp only [Encoding.fields_8_8_8_8])

theorem Encoding.qpack (d a f o) : Encoding.Statement (.qpack d a f o) :=
  Encoding.row (x := 0x99#8) (m := 0xFF#8 ++ 0x0#8 ++ 0x0#8 ++ 0x0#2 ++ 0x0#1 ++ 0x1F#5) rfl
    (by simp only [Encoding.fields_8_8_8_2_1_5]) rfl rfl
    (by simp only [Encoding.mask_8_8_8_2_1_5, BitVec.and_zero]; rfl) (by simp only [Encoding.fields_8_8_8_2_1_5])

theorem Encoding.qunpk (d a f) : Encoding.Statement (.qunpk d a f) :=
  Encoding.row (x := 0x9A#8) (m := 0xFF#8 ++ 0x0#8 ++ 0x0#8 ++ 0x0#2 ++ 0x3F#6) rfl
    (by simp only [Encoding.fields_8_8_8_2_6]) rfl rfl
    (by simp only [Encoding.mask_8_8_8_2_6, BitVec.and_zero]; rfl) (by simp only [Encoding.fields_8_8_8_2_6])

theorem Encoding.bscale (d a f o) : Encoding.Statement (.bscale d a f o) :=
  Encoding.row (x := 0x9B#8) (m := 0xFF#8 ++ 0x0#8 ++ 0x0#8 ++ 0x0#2 ++ 0x0#1 ++ 0x1F#5) rfl
    (by simp only [Encoding.fields_8_8_8_2_1_5]) rfl rfl
    (by simp only [Encoding.mask_8_8_8_2_1_5, BitVec.and_zero]; rfl) (by simp only [Encoding.fields_8_8_8_2_1_5])

theorem Encoding.crc32c (d a b) : Encoding.Statement (.crc32c d a b) :=
  Encoding.row (x := 0x9C#8) (m := 0xFF#8 ++ 0x0#8 ++ 0x0#8 ++ 0x0#8) rfl
    (by simp only [Encoding.fields_8_8_8_8]) rfl rfl
    (by simp only [Encoding.mask_8_8_8_8, BitVec.and_zero]; rfl) (by simp only [Encoding.fields_8_8_8_8])

theorem Encoding.ddiv (d a b) : Encoding.Statement (.ddiv d a b) :=
  Encoding.row (x := 0x9D#8) (m := 0xFF#8 ++ 0x0#8 ++ 0x0#8 ++ 0x0#8) rfl
    (by simp only [Encoding.fields_8_8_8_8]) rfl rfl
    (by simp only [Encoding.mask_8_8_8_8, BitVec.and_zero]; rfl) (by simp only [Encoding.fields_8_8_8_8])

theorem Encoding.dsqrt (d a) : Encoding.Statement (.dsqrt d a) :=
  Encoding.row (x := 0x9E#8) (m := 0xFF#8 ++ 0x0#8 ++ 0x0#8 ++ 0xFF#8) rfl
    (by simp only [Encoding.fields_8_8_8_8]) rfl rfl
    (by simp only [Encoding.mask_8_8_8_8, BitVec.and_zero]; rfl) (by simp only [Encoding.fields_8_8_8_8])

theorem Encoding.ldg (d a w o) : Encoding.Statement (.ldg d a w o) :=
  Encoding.row (x := 0xA0#8) (m := 0xFF#8 ++ 0x0#8 ++ 0x0#8 ++ 0x0#3 ++ 0x0#5) rfl
    (by simp only [Encoding.fields_8_8_8_3_5]) rfl rfl
    (by simp only [Encoding.mask_8_8_8_3_5, BitVec.and_zero]; rfl) (by simp only [Encoding.fields_8_8_8_3_5])

theorem Encoding.stg (d a w o) : Encoding.Statement (.stg d a w o) :=
  Encoding.row (x := 0xA1#8) (m := 0xFF#8 ++ 0x0#8 ++ 0x0#8 ++ 0x0#3 ++ 0x0#5) rfl
    (by simp only [Encoding.fields_8_8_8_3_5]) rfl rfl
    (by simp only [Encoding.mask_8_8_8_3_5, BitVec.and_zero]; rfl) (by simp only [Encoding.fields_8_8_8_3_5])

theorem Encoding.ldl (d a w o) : Encoding.Statement (.ldl d a w o) :=
  Encoding.row (x := 0xA2#8) (m := 0xFF#8 ++ 0x0#8 ++ 0x0#8 ++ 0x0#3 ++ 0x0#5) rfl
    (by simp only [Encoding.fields_8_8_8_3_5]) rfl rfl
    (by simp only [Encoding.mask_8_8_8_3_5, BitVec.and_zero]; rfl) (by simp only [Encoding.fields_8_8_8_3_5])

theorem Encoding.stl (d a w o) : Encoding.Statement (.stl d a w o) :=
  Encoding.row (x := 0xA3#8) (m := 0xFF#8 ++ 0x0#8 ++ 0x0#8 ++ 0x0#3 ++ 0x0#5) rfl
    (by simp only [Encoding.fields_8_8_8_3_5]) rfl rfl
    (by simp only [Encoding.mask_8_8_8_3_5, BitVec.and_zero]; rfl) (by simp only [Encoding.fields_8_8_8_3_5])

theorem Encoding.ldc (d a w o) : Encoding.Statement (.ldc d a w o) :=
  Encoding.row (x := 0xA4#8) (m := 0xFF#8 ++ 0x0#8 ++ 0x0#8 ++ 0x0#3 ++ 0x0#5) rfl
    (by simp only [Encoding.fields_8_8_8_3_5]) rfl rfl
    (by simp only [Encoding.mask_8_8_8_3_5, BitVec.and_zero]; rfl) (by simp only [Encoding.fields_8_8_8_3_5])

theorem Encoding.stc (d a w o) : Encoding.Statement (.stc d a w o) :=
  Encoding.row (x := 0xA5#8) (m := 0xFF#8 ++ 0x0#8 ++ 0x0#8 ++ 0x0#3 ++ 0x0#5) rfl
    (by simp only [Encoding.fields_8_8_8_3_5]) rfl rfl
    (by simp only [Encoding.mask_8_8_8_3_5, BitVec.and_zero]; rfl) (by simp only [Encoding.fields_8_8_8_3_5])

theorem Encoding.lda (d a w o) : Encoding.Statement (.lda d a w o) :=
  Encoding.row (x := 0xA6#8) (m := 0xFF#8 ++ 0x0#8 ++ 0x0#8 ++ 0x0#3 ++ 0x0#5) rfl
    (by simp only [Encoding.fields_8_8_8_3_5]) rfl rfl
    (by simp only [Encoding.mask_8_8_8_3_5, BitVec.and_zero]; rfl) (by simp only [Encoding.fields_8_8_8_3_5])

theorem Encoding.sta (d a w o) : Encoding.Statement (.sta d a w o) :=
  Encoding.row (x := 0xA7#8) (m := 0xFF#8 ++ 0x0#8 ++ 0x0#8 ++ 0x0#3 ++ 0x0#5) rfl
    (by simp only [Encoding.fields_8_8_8_3_5]) rfl rfl
    (by simp only [Encoding.mask_8_8_8_3_5, BitVec.and_zero]; rfl) (by simp only [Encoding.fields_8_8_8_3_5])

theorem Encoding.ldk (d a w o) : Encoding.Statement (.ldk d a w o) :=
  Encoding.row (x := 0xA8#8) (m := 0xFF#8 ++ 0x0#8 ++ 0x0#8 ++ 0x0#3 ++ 0x0#5) rfl
    (by simp only [Encoding.fields_8_8_8_3_5]) rfl rfl
    (by simp only [Encoding.mask_8_8_8_3_5, BitVec.and_zero]; rfl) (by simp only [Encoding.fields_8_8_8_3_5])

theorem Encoding.ldu (d a w o) : Encoding.Statement (.ldu d a w o) :=
  Encoding.row (x := 0xA9#8) (m := 0xFF#8 ++ 0x0#8 ++ 0x0#8 ++ 0x0#3 ++ 0x0#5) rfl
    (by simp only [Encoding.fields_8_8_8_3_5]) rfl rfl
    (by simp only [Encoding.mask_8_8_8_3_5, BitVec.and_zero]; rfl) (by simp only [Encoding.fields_8_8_8_3_5])

theorem Encoding.ldul (d a w o) : Encoding.Statement (.ldul d a w o) :=
  Encoding.row (x := 0xAA#8) (m := 0xFF#8 ++ 0x0#8 ++ 0x0#8 ++ 0x0#3 ++ 0x0#5) rfl
    (by simp only [Encoding.fields_8_8_8_3_5]) rfl rfl
    (by simp only [Encoding.mask_8_8_8_3_5, BitVec.and_zero]; rfl) (by simp only [Encoding.fields_8_8_8_3_5])

theorem Encoding.ldacq (d a w o) : Encoding.Statement (.ldacq d a w o) :=
  Encoding.row (x := 0xAB#8) (m := 0xFF#8 ++ 0x0#8 ++ 0x0#8 ++ 0x0#3 ++ 0x0#5) rfl
    (by simp only [Encoding.fields_8_8_8_3_5]) rfl rfl
    (by simp only [Encoding.mask_8_8_8_3_5, BitVec.and_zero]; rfl) (by simp only [Encoding.fields_8_8_8_3_5])

theorem Encoding.strel (d a w o) : Encoding.Statement (.strel d a w o) :=
  Encoding.row (x := 0xAC#8) (m := 0xFF#8 ++ 0x0#8 ++ 0x0#8 ++ 0x0#3 ++ 0x0#5) rfl
    (by simp only [Encoding.fields_8_8_8_3_5]) rfl rfl
    (by simp only [Encoding.mask_8_8_8_3_5, BitVec.and_zero]; rfl) (by simp only [Encoding.fields_8_8_8_3_5])

theorem Encoding.fence (k) : Encoding.Statement (.fence k) :=
  Encoding.row (x := 0xAD#8) (m := 0xFF#8 ++ 0x0#2 ++ 0x3FFFFF#22) rfl
    (by simp only [Encoding.fields_8_2_22]) rfl rfl
    (by simp only [Encoding.mask_8_2_22, BitVec.and_zero]; rfl) (by simp only [Encoding.fields_8_2_22])

theorem Encoding.pref (l a o) : Encoding.Statement (.pref l a o) :=
  Encoding.row (x := 0xAE#8) (m := 0x3FFF#14 ++ 0x0#2 ++ 0x0#8 ++ 0x7#3 ++ 0x0#5) rfl
    (by simp only [Encoding.fields_14_2_8_3_5]; rfl) rfl rfl
    (by simp only [Encoding.mask_14_2_8_3_5, BitVec.and_zero]; rfl) (by simp only [Encoding.fields_14_2_8_3_5])

theorem Encoding.cctl (c a) : Encoding.Statement (.cctl c a) :=
  Encoding.row (x := 0xAF#8) (m := 0xFF#8 ++ 0x0#4 ++ 0xF#4 ++ 0x0#8 ++ 0xFF#8) rfl
    (by simp only [Encoding.fields_8_4_4_8_8]) rfl rfl
    (by simp only [Encoding.mask_8_4_4_8_8, BitVec.and_zero]; rfl) (by simp only [Encoding.fields_8_4_4_8_8])

theorem Encoding.atomAdd (d a w b) : Encoding.Statement (.atomAdd d a w b) :=
  Encoding.row (x := 0xB0#8) (m := 0xFF#8 ++ 0x0#8 ++ 0x0#7 ++ 0x0#1 ++ 0x0#8) rfl
    (by simp only [Encoding.fields_8_8_7_1_8]) rfl rfl
    (by simp only [Encoding.mask_8_8_7_1_8, BitVec.and_zero]; rfl) (by simp only [Encoding.fields_8_8_7_1_8])

theorem Encoding.atomFadd (d a w b) : Encoding.Statement (.atomFadd d a w b) :=
  Encoding.row (x := 0xB1#8) (m := 0xFF#8 ++ 0x0#8 ++ 0x0#7 ++ 0x0#1 ++ 0x0#8) rfl
    (by simp only [Encoding.fields_8_8_7_1_8]) rfl rfl
    (by simp only [Encoding.mask_8_8_7_1_8, BitVec.and_zero]; rfl) (by simp only [Encoding.fields_8_8_7_1_8])

theorem Encoding.atomMin (d a w b) : Encoding.Statement (.atomMin d a w b) :=
  Encoding.row (x := 0xB2#8) (m := 0xFF#8 ++ 0x0#8 ++ 0x0#7 ++ 0x0#1 ++ 0x0#8) rfl
    (by simp only [Encoding.fields_8_8_7_1_8]) rfl rfl
    (by simp only [Encoding.mask_8_8_7_1_8, BitVec.and_zero]; rfl) (by simp only [Encoding.fields_8_8_7_1_8])

theorem Encoding.atomMax (d a w b) : Encoding.Statement (.atomMax d a w b) :=
  Encoding.row (x := 0xB3#8) (m := 0xFF#8 ++ 0x0#8 ++ 0x0#7 ++ 0x0#1 ++ 0x0#8) rfl
    (by simp only [Encoding.fields_8_8_7_1_8]) rfl rfl
    (by simp only [Encoding.mask_8_8_7_1_8, BitVec.and_zero]; rfl) (by simp only [Encoding.fields_8_8_7_1_8])

theorem Encoding.atomMinu (d a w b) : Encoding.Statement (.atomMinu d a w b) :=
  Encoding.row (x := 0xB4#8) (m := 0xFF#8 ++ 0x0#8 ++ 0x0#7 ++ 0x0#1 ++ 0x0#8) rfl
    (by simp only [Encoding.fields_8_8_7_1_8]) rfl rfl
    (by simp only [Encoding.mask_8_8_7_1_8, BitVec.and_zero]; rfl) (by simp only [Encoding.fields_8_8_7_1_8])

theorem Encoding.atomMaxu (d a w b) : Encoding.Statement (.atomMaxu d a w b) :=
  Encoding.row (x := 0xB5#8) (m := 0xFF#8 ++ 0x0#8 ++ 0x0#7 ++ 0x0#1 ++ 0x0#8) rfl
    (by simp only [Encoding.fields_8_8_7_1_8]) rfl rfl
    (by simp only [Encoding.mask_8_8_7_1_8, BitVec.and_zero]; rfl) (by simp only [Encoding.fields_8_8_7_1_8])

theorem Encoding.atomAnd (d a w b) : Encoding.Statement (.atomAnd d a w b) :=
  Encoding.row (x := 0xB6#8) (m := 0xFF#8 ++ 0x0#8 ++ 0x0#7 ++ 0x0#1 ++ 0x0#8) rfl
    (by simp only [Encoding.fields_8_8_7_1_8]) rfl rfl
    (by simp only [Encoding.mask_8_8_7_1_8, BitVec.and_zero]; rfl) (by simp only [Encoding.fields_8_8_7_1_8])

theorem Encoding.atomOr (d a w b) : Encoding.Statement (.atomOr d a w b) :=
  Encoding.row (x := 0xB7#8) (m := 0xFF#8 ++ 0x0#8 ++ 0x0#7 ++ 0x0#1 ++ 0x0#8) rfl
    (by simp only [Encoding.fields_8_8_7_1_8]) rfl rfl
    (by simp only [Encoding.mask_8_8_7_1_8, BitVec.and_zero]; rfl) (by simp only [Encoding.fields_8_8_7_1_8])

theorem Encoding.atomXor (d a w b) : Encoding.Statement (.atomXor d a w b) :=
  Encoding.row (x := 0xB8#8) (m := 0xFF#8 ++ 0x0#8 ++ 0x0#7 ++ 0x0#1 ++ 0x0#8) rfl
    (by simp only [Encoding.fields_8_8_7_1_8]) rfl rfl
    (by simp only [Encoding.mask_8_8_7_1_8, BitVec.and_zero]; rfl) (by simp only [Encoding.fields_8_8_7_1_8])

theorem Encoding.atomExch (d a w b) : Encoding.Statement (.atomExch d a w b) :=
  Encoding.row (x := 0xB9#8) (m := 0xFF#8 ++ 0x0#8 ++ 0x0#7 ++ 0x0#1 ++ 0x0#8) rfl
    (by simp only [Encoding.fields_8_8_7_1_8]) rfl rfl
    (by simp only [Encoding.mask_8_8_7_1_8, BitVec.and_zero]; rfl) (by simp only [Encoding.fields_8_8_7_1_8])

theorem Encoding.atomCas (d a w b) : Encoding.Statement (.atomCas d a w b) :=
  Encoding.row (x := 0xBA#8) (m := 0xFF#8 ++ 0x0#8 ++ 0x0#7 ++ 0x0#1 ++ 0x0#8) rfl
    (by simp only [Encoding.fields_8_8_7_1_8]) rfl rfl
    (by simp only [Encoding.mask_8_8_7_1_8, BitVec.and_zero]; rfl) (by simp only [Encoding.fields_8_8_7_1_8])

theorem Encoding.atomInc (d a w b) : Encoding.Statement (.atomInc d a w b) :=
  Encoding.row (x := 0xBB#8) (m := 0xFF#8 ++ 0x0#8 ++ 0x0#7 ++ 0x0#1 ++ 0x0#8) rfl
    (by simp only [Encoding.fields_8_8_7_1_8]) rfl rfl
    (by simp only [Encoding.mask_8_8_7_1_8, BitVec.and_zero]; rfl) (by simp only [Encoding.fields_8_8_7_1_8])

theorem Encoding.lock (a) : Encoding.Statement (.lock a) :=
  Encoding.row (x := 0xBC#8) (m := 0xFFFF#16 ++ 0x0#8 ++ 0xFF#8) rfl
    (by simp only [Encoding.fields_16_8_8]; rfl) rfl rfl
    (by simp only [Encoding.mask_16_8_8, BitVec.and_zero]; rfl) (by simp only [Encoding.fields_16_8_8])

theorem Encoding.unlock (a) : Encoding.Statement (.unlock a) :=
  Encoding.row (x := 0xBD#8) (m := 0xFFFF#16 ++ 0x0#8 ++ 0xFF#8) rfl
    (by simp only [Encoding.fields_16_8_8]; rfl) rfl rfl
    (by simp only [Encoding.mask_16_8_8, BitVec.and_zero]; rfl) (by simp only [Encoding.fields_16_8_8])

theorem Encoding.waitc (c i a b) : Encoding.Statement (.waitc c i a b) :=
  Encoding.row (x := 0xBE#8) (m := 0xFF#8 ++ 0x0#3 ++ 0x0#1 ++ 0xF#4 ++ 0x0#8 ++ 0x0#8) rfl
    (by simp only [Encoding.fields_8_3_1_4_8_8]) rfl rfl
    (by simp only [Encoding.mask_8_3_1_4_8_8, BitVec.and_zero]; rfl) (by simp only [Encoding.fields_8_3_1_4_8_8])

theorem Encoding.ladd (d a b) : Encoding.Statement (.ladd d a b) :=
  Encoding.row (x := 0xBF#8) (m := 0xFF#8 ++ 0x0#8 ++ 0x0#8 ++ 0x0#8) rfl
    (by simp only [Encoding.fields_8_8_8_8]) rfl rfl
    (by simp only [Encoding.mask_8_8_8_8, BitVec.and_zero]; rfl) (by simp only [Encoding.fields_8_8_8_8])

theorem Encoding.waitn (l s c t) : Encoding.Statement (.waitn l s c t) :=
  Encoding.row (x := 0xC0#8) (m := 0xFF#8 ++ 0x0#6 ++ 0x0#6 ++ 0x0#6 ++ 0x0#6) rfl
    (by simp only [Encoding.fields_8_6_6_6_6]) rfl rfl
    (by simp only [Encoding.mask_8_6_6_6_6, BitVec.and_zero]; rfl) (by simp only [Encoding.fields_8_6_6_6_6])

theorem Encoding.batch (d) : Encoding.Statement (.batch d) :=
  Encoding.row (x := 0xC1#8) (m := 0xFF#8 ++ 0x0#8 ++ 0xFFFF#16) rfl
    (by simp only [Encoding.fields_8_8_16]) rfl rfl
    (by simp only [Encoding.mask_8_8_16, BitVec.and_zero]; rfl) (by simp only [Encoding.fields_8_8_16])

theorem Encoding.waitb (p a) : Encoding.Statement (.waitb p a) :=
  Encoding.row (x := 0xC2#8) (m := 0x1FFF#13 ++ 0x0#3 ++ 0x0#8 ++ 0xFF#8) rfl
    (by simp only [Encoding.fields_13_3_8_8]; rfl) rfl rfl
    (by simp only [Encoding.mask_13_3_8_8, BitVec.and_zero]; rfl) (by simp only [Encoding.fields_13_3_8_8])

theorem Encoding.barinit (b e n) : Encoding.Statement (.barinit b e n) :=
  Encoding.row (x := 0xC3#8) (m := 0xFF#8 ++ 0x0#4 ++ 0x0#1 ++ 0x7#3 ++ 0x0#6 ++ 0x3FF#10) rfl
    (by simp only [Encoding.fields_8_4_1_3_6_10]) rfl rfl
    (by simp only [Encoding.mask_8_4_1_3_6_10, BitVec.and_zero]; rfl) (by simp only [Encoding.fields_8_4_1_3_6_10])

theorem Encoding.arrive (b) : Encoding.Statement (.arrive b) :=
  Encoding.row (x := 0xC4#8) (m := 0xFF#8 ++ 0x0#4 ++ 0xFFFFF#20) rfl
    (by simp only [Encoding.fields_8_4_20]) rfl rfl
    (by simp only [Encoding.mask_8_4_20, BitVec.and_zero]; rfl) (by simp only [Encoding.fields_8_4_20])

theorem Encoding.arrivex (b a) : Encoding.Statement (.arrivex b a) :=
  Encoding.row (x := 0xC5#8) (m := 0xFF#8 ++ 0x0#4 ++ 0xF#4 ++ 0x0#8 ++ 0xFF#8) rfl
    (by simp only [Encoding.fields_8_4_4_8_8]) rfl rfl
    (by simp only [Encoding.mask_8_4_4_8_8, BitVec.and_zero]; rfl) (by simp only [Encoding.fields_8_4_4_8_8])

theorem Encoding.barwait (b q p) : Encoding.Statement (.barwait b q p) :=
  Encoding.row (x := 0xC6#8) (m := 0xFF#8 ++ 0x0#4 ++ 0x0#1 ++ 0x0#3 ++ 0xFFFF#16) rfl
    (by simp only [Encoding.fields_8_4_1_3_16]) rfl rfl
    (by simp only [Encoding.mask_8_4_1_3_16, BitVec.and_zero]; rfl) (by simp only [Encoding.fields_8_4_1_3_16])

theorem Encoding.bartry (b q p) : Encoding.Statement (.bartry b q p) :=
  Encoding.row (x := 0xC7#8) (m := 0xFF#8 ++ 0x0#4 ++ 0x0#1 ++ 0x0#3 ++ 0xFFFF#16) rfl
    (by simp only [Encoding.fields_8_4_1_3_16]) rfl rfl
    (by simp only [Encoding.mask_8_4_1_3_16, BitVec.and_zero]; rfl) (by simp only [Encoding.fields_8_4_1_3_16])

theorem Encoding.gridbar : Encoding.Statement .gridbar := Encoding.closed rfl (by decide)

theorem Encoding.gset (g a p) : Encoding.Statement (.gset g a p) :=
  Encoding.row (x := 0xC9#8) (m := 0xFF#8 ++ 0x0#3 ++ 0x0#2 ++ 0x0#3 ++ 0xFFFF#16) rfl
    (by simp only [Encoding.fields_8_3_2_3_16]) rfl rfl
    (by simp only [Encoding.mask_8_3_2_3_16, BitVec.and_zero]; rfl) (by simp only [Encoding.fields_8_3_2_3_16])

theorem Encoding.xcopy (c r d l b) : Encoding.Statement (.xcopy c r d l b) :=
  Encoding.row (x := 0xD0#8) (m := 0xFF#8 ++ 0x0#8 ++ 0x0#5 ++ 0x0#1 ++ 0x0#3 ++ 0x0#4 ++ 0x7#3) rfl
    (by simp only [Encoding.fields_8_8_5_1_3_4_3]) rfl rfl
    (by simp only [Encoding.mask_8_8_5_1_3_4_3, BitVec.and_zero]; rfl) (by simp only [Encoding.fields_8_8_5_1_3_4_3])

theorem Encoding.xgather (c r l b) : Encoding.Statement (.xgather c r l b) :=
  Encoding.row (x := 0xD1#8) (m := 0xFF#8 ++ 0x0#8 ++ 0x0#5 ++ 0x1#1 ++ 0x0#3 ++ 0x0#4 ++ 0x7#3) rfl
    (by simp only [Encoding.fields_8_8_5_1_3_4_3]) rfl rfl
    (by simp only [Encoding.mask_8_8_5_1_3_4_3, BitVec.and_zero]; rfl) (by simp only [Encoding.fields_8_8_5_1_3_4_3])

theorem Encoding.xscatter (c r l b) : Encoding.Statement (.xscatter c r l b) :=
  Encoding.row (x := 0xD2#8) (m := 0xFF#8 ++ 0x0#8 ++ 0x0#5 ++ 0x1#1 ++ 0x0#3 ++ 0x0#4 ++ 0x7#3) rfl
    (by simp only [Encoding.fields_8_8_5_1_3_4_3]) rfl rfl
    (by simp only [Encoding.mask_8_8_5_1_3_4_3, BitVec.and_zero]; rfl) (by simp only [Encoding.fields_8_8_5_1_3_4_3])

theorem Encoding.xfill (c r l b) : Encoding.Statement (.xfill c r l b) :=
  Encoding.row (x := 0xD3#8) (m := 0xFF#8 ++ 0x0#8 ++ 0x0#5 ++ 0x1#1 ++ 0x0#3 ++ 0x0#4 ++ 0x7#3) rfl
    (by simp only [Encoding.fields_8_8_5_1_3_4_3]) rfl rfl
    (by simp only [Encoding.mask_8_8_5_1_3_4_3, BitVec.and_zero]; rfl) (by simp only [Encoding.fields_8_8_5_1_3_4_3])

theorem Encoding.xstat (d s i) : Encoding.Statement (.xstat d s i) :=
  Encoding.row (x := 0xD4#8) (m := 0xFF#8 ++ 0x0#8 ++ 0x0#4 ++ 0x0#4 ++ 0xFF#8) rfl
    (by simp only [Encoding.fields_8_8_4_4_8]) rfl rfl
    (by simp only [Encoding.mask_8_8_4_4_8, BitVec.and_zero]; rfl) (by simp only [Encoding.fields_8_8_4_4_8])

theorem Encoding.coll (o b t h r y s) : Encoding.Statement (.coll o b t h r y s) :=
  Encoding.row (x := 0xD5#8) (m := 0xFF#8 ++ 0x0#3 ++ 0x0#4 ++ 0x0#4 ++ 0x0#6 ++ 0x0#3 ++ 0x0#3 ++ 0x0#1) rfl
    (by simp only [Encoding.fields_8_3_4_4_6_3_3_1]) rfl rfl
    (by simp only [Encoding.mask_8_3_4_4_6_3_3_1, BitVec.and_zero]; rfl) (by simp only [Encoding.fields_8_3_4_4_6_3_3_1])

theorem Encoding.commq (d a s) : Encoding.Statement (.commq d a s) :=
  Encoding.row (x := 0xD6#8) (m := 0xFF#8 ++ 0x0#8 ++ 0x0#8 ++ 0x0#4 ++ 0xF#4) rfl
    (by simp only [Encoding.fields_8_8_8_4_4]) rfl rfl
    (by simp only [Encoding.mask_8_8_8_4_4, BitVec.and_zero]; rfl) (by simp only [Encoding.fields_8_8_8_4_4])

theorem Encoding.mstart (a b) : Encoding.Statement (.mstart a b) :=
  Encoding.row (x := 0xD7#8) (m := 0xFFFF#16 ++ 0x0#8 ++ 0x0#8) rfl
    (by simp only [Encoding.fields_16_8_8]; rfl) rfl rfl
    (by simp only [Encoding.mask_16_8_8, BitVec.and_zero]; rfl) (by simp only [Encoding.fields_16_8_8])

theorem Encoding.tdesc (t a) : Encoding.Statement (.tdesc t a) :=
  Encoding.row (x := 0xD8#8) (m := 0xFF#8 ++ 0x0#4 ++ 0xF#4 ++ 0x0#8 ++ 0xFF#8) rfl
    (by simp only [Encoding.fields_8_4_4_8_8]) rfl rfl
    (by simp only [Encoding.mask_8_4_4_8_8, BitVec.and_zero]; rfl) (by simp only [Encoding.fields_8_4_4_8_8])

theorem Encoding.mldw (w f) : Encoding.Statement (.mldw w f) :=
  Encoding.row (x := 0xE0#8) (m := 0xFF#8 ++ 0x0#4 ++ 0x0#4 ++ 0xFFFF#16) rfl
    (by simp only [Encoding.fields_8_4_4_16]) rfl rfl
    (by simp only [Encoding.mask_8_4_4_16, BitVec.and_zero]; rfl) (by simp only [Encoding.fields_8_4_4_16])

theorem Encoding.mswap : Encoding.Statement .mswap := Encoding.closed rfl (by decide)

theorem Encoding.mmaM32 (a c f t z m n) : Encoding.Statement (.mmaM32 a c f t z m n) :=
  Encoding.row (x := 0xE2#8) (m := 0xFF#8 ++ 0x0#4 ++ 0x0#4 ++ 0x0#4 ++ 0x0#2 ++ 0x0#1 ++ 0x0#3 ++ 0x0#3 ++ 0x7#3) rfl
    (by simp only [Encoding.fields_8_4_4_4_2_1_3_3_3]) rfl rfl
    (by simp only [Encoding.mask_8_4_4_4_2_1_3_3_3, BitVec.and_zero]; rfl) (by simp only [Encoding.fields_8_4_4_4_2_1_3_3_3])

theorem Encoding.mmaM64 (a c f t z m n) : Encoding.Statement (.mmaM64 a c f t z m n) :=
  Encoding.row (x := 0xE3#8) (m := 0xFF#8 ++ 0x0#4 ++ 0x0#4 ++ 0x0#4 ++ 0x0#2 ++ 0x0#1 ++ 0x0#3 ++ 0x0#3 ++ 0x7#3) rfl
    (by simp only [Encoding.fields_8_4_4_4_2_1_3_3_3]) rfl rfl
    (by simp only [Encoding.mask_8_4_4_4_2_1_3_3_3, BitVec.and_zero]; rfl) (by simp only [Encoding.fields_8_4_4_4_2_1_3_3_3])

theorem Encoding.mmaM128 (a c f t z m n) : Encoding.Statement (.mmaM128 a c f t z m n) :=
  Encoding.row (x := 0xE4#8) (m := 0xFF#8 ++ 0x0#4 ++ 0x0#4 ++ 0x0#4 ++ 0x0#2 ++ 0x0#1 ++ 0x0#3 ++ 0x0#3 ++ 0x7#3) rfl
    (by simp only [Encoding.fields_8_4_4_4_2_1_3_3_3]) rfl rfl
    (by simp only [Encoding.mask_8_4_4_4_2_1_3_3_3, BitVec.and_zero]; rfl) (by simp only [Encoding.fields_8_4_4_4_2_1_3_3_3])

theorem Encoding.mmaM256 (a c f t z m n) : Encoding.Statement (.mmaM256 a c f t z m n) :=
  Encoding.row (x := 0xE5#8) (m := 0xFF#8 ++ 0x0#4 ++ 0x0#4 ++ 0x0#4 ++ 0x0#2 ++ 0x0#1 ++ 0x0#3 ++ 0x0#3 ++ 0x7#3) rfl
    (by simp only [Encoding.fields_8_4_4_4_2_1_3_3_3]) rfl rfl
    (by simp only [Encoding.mask_8_4_4_4_2_1_3_3_3, BitVec.and_zero]; rfl) (by simp only [Encoding.fields_8_4_4_4_2_1_3_3_3])

theorem Encoding.mzero (t) : Encoding.Statement (.mzero t) :=
  Encoding.row (x := 0xE6#8) (m := 0xFF#8 ++ 0x0#4 ++ 0xFFFFF#20) rfl
    (by simp only [Encoding.fields_8_4_20]) rfl rfl
    (by simp only [Encoding.mask_8_4_20, BitVec.and_zero]; rfl) (by simp only [Encoding.fields_8_4_20])

theorem Encoding.mdrain (d c f s z m n) : Encoding.Statement (.mdrain d c f s z m n) :=
  Encoding.row (x := 0xE7#8) (m := 0xFF#8 ++ 0x0#4 ++ 0x0#4 ++ 0x0#4 ++ 0x0#2 ++ 0x0#1 ++ 0x0#3 ++ 0x0#3 ++ 0x7#3) rfl
    (by simp only [Encoding.fields_8_4_4_4_2_1_3_3_3]) rfl rfl
    (by simp only [Encoding.mask_8_4_4_4_2_1_3_3_3, BitVec.and_zero]; rfl) (by simp only [Encoding.fields_8_4_4_4_2_1_3_3_3])

theorem Encoding.marrive (b) : Encoding.Statement (.marrive b) :=
  Encoding.row (x := 0xE8#8) (m := 0xFF#8 ++ 0x0#4 ++ 0xFFFFF#20) rfl
    (by simp only [Encoding.fields_8_4_20]) rfl rfl
    (by simp only [Encoding.mask_8_4_20, BitVec.and_zero]; rfl) (by simp only [Encoding.fields_8_4_20])

theorem Encoding.mwait (b q m p) : Encoding.Statement (.mwait b q m p) :=
  Encoding.row (x := 0xE9#8) (m := 0xFF#8 ++ 0x0#4 ++ 0x0#1 ++ 0x0#1 ++ 0x0#3 ++ 0x7FFF#15) rfl
    (by simp only [Encoding.fields_8_4_1_1_3_15]) rfl rfl
    (by simp only [Encoding.mask_8_4_1_1_3_15, BitVec.and_zero]; rfl) (by simp only [Encoding.fields_8_4_1_1_3_15])

theorem Encoding.msett (t m) : Encoding.Statement (.msett t m) :=
  Encoding.row (x := 0xEA#8) (m := 0xFF#8 ++ 0x0#4 ++ 0x0#3 ++ 0x1FFFF#17) rfl
    (by simp only [Encoding.fields_8_4_3_17]) rfl rfl
    (by simp only [Encoding.mask_8_4_3_17, BitVec.and_zero]; rfl) (by simp only [Encoding.fields_8_4_3_17])

theorem Encoding.maddi (m s i) : Encoding.Statement (.maddi m s i) :=
  Encoding.row (x := 0xEB#8) (m := 0xFF#8 ++ 0x0#3 ++ 0x0#1 ++ 0xF#4 ++ 0x0#16) rfl
    (by simp only [Encoding.fields_8_3_1_4_16]) rfl rfl
    (by simp only [Encoding.mask_8_3_1_4_16, BitVec.and_zero]; rfl) (by simp only [Encoding.fields_8_3_1_4_16])

theorem Encoding.mloop (m o) : Encoding.Statement (.mloop m o) :=
  Encoding.row (x := 0xEC#8) (m := 0xFF#8 ++ 0x0#3 ++ 0x1F#5 ++ 0x0#16) rfl
    (by simp only [Encoding.fields_8_3_5_16]) rfl rfl
    (by simp only [Encoding.mask_8_3_5_16, BitVec.and_zero]; rfl) (by simp only [Encoding.fields_8_3_5_16])

theorem Encoding.mend : Encoding.Statement .mend := Encoding.closed rfl (by decide)

theorem Encoding.mguard (g n) : Encoding.Statement (.mguard g n) :=
  Encoding.row (x := 0xEE#8) (m := 0xFF#8 ++ 0x0#3 ++ 0x0#1 ++ 0xFFFFF#20) rfl
    (by simp only [Encoding.fields_8_3_1_20]) rfl rfl
    (by simp only [Encoding.mask_8_3_1_20, BitVec.and_zero]; rfl) (by simp only [Encoding.fields_8_3_1_20])

theorem Encoding.tget (d a) : Encoding.Statement (.tget d a) :=
  Encoding.row (x := 0xF0#8) (m := 0xFF#8 ++ 0x0#8 ++ 0x0#8 ++ 0xFF#8) rfl
    (by simp only [Encoding.fields_8_8_8_8]) rfl rfl
    (by simp only [Encoding.mask_8_8_8_8, BitVec.and_zero]; rfl) (by simp only [Encoding.fields_8_8_8_8])

theorem Encoding.tset (d a) : Encoding.Statement (.tset d a) :=
  Encoding.row (x := 0xF1#8) (m := 0xFF#8 ++ 0x0#8 ++ 0x0#8 ++ 0xFF#8) rfl
    (by simp only [Encoding.fields_8_8_8_8]) rfl rfl
    (by simp only [Encoding.mask_8_8_8_8, BitVec.and_zero]; rfl) (by simp only [Encoding.fields_8_8_8_8])

theorem Encoding.tstamp (d) : Encoding.Statement (.tstamp d) :=
  Encoding.row (x := 0xF2#8) (m := 0xFF#8 ++ 0x0#8 ++ 0xFFFF#16) rfl
    (by simp only [Encoding.fields_8_8_16]) rfl rfl
    (by simp only [Encoding.mask_8_8_16, BitVec.and_zero]; rfl) (by simp only [Encoding.fields_8_8_16])

theorem Encoding.tchk (a m) : Encoding.Statement (.tchk a m) :=
  Encoding.row (x := 0xF3#8) (m := 0xFF#8 ++ 0x0#8 ++ 0x3FF#10 ++ 0x0#6) rfl
    (by simp only [Encoding.fields_8_8_10_6]) rfl rfl
    (by simp only [Encoding.mask_8_8_10_6, BitVec.and_zero]; rfl) (by simp only [Encoding.fields_8_8_10_6])

theorem Encoding.tcap (d a w) : Encoding.Statement (.tcap d a w) :=
  Encoding.row (x := 0xF4#8) (m := 0xFF#8 ++ 0x0#8 ++ 0x0#8 ++ 0x0#4 ++ 0xF#4) rfl
    (by simp only [Encoding.fields_8_8_8_4_4]) rfl rfl
    (by simp only [Encoding.mask_8_8_8_4_4, BitVec.and_zero]; rfl) (by simp only [Encoding.fields_8_8_8_4_4])

theorem Encoding.trule (c) : Encoding.Statement (.trule c) :=
  Encoding.row (x := 0xF5#8) (m := 0x1FFFFFFF#29 ++ 0x0#3) rfl
    (by simp only [Encoding.fields_29_3]; rfl) rfl rfl
    (by simp only [Encoding.mask_29_3, BitVec.and_zero]; rfl) (by simp only [Encoding.fields_29_3])

theorem Encoding.lstat (d m) : Encoding.Statement (.lstat d m) := by
  intro w h _
  obtain rfl := Option.some.inj h
  have hm : (0xF6#8 ++ d ++ m ++ 0x0#8) &&& 0xFF0000FF#32 = 0xF6000000#32 := by
    rw [show 0xFF0000FF#32 = 0xFF#8 ++ 0#8 ++ 0#8 ++ 0xFF#8 from rfl]
    simp only [Encoding.mask_8_8_8_8, BitVec.and_zero]; rfl
  have hf := Encoding.fields_8_8_8_8 0xF6#8 d m 0x0#8
  rw [Encoding.decode_eq (x := 0xF6#8) hf.1 rfl]
  show (fixedBits _ _ _ _ <|> fixedBits _ _ _ _) = _
  rw [fixedBits, if_pos hm, hf.2.1, hf.2.2.1]; rfl

theorem Encoding.lstatMask (m) : Encoding.Statement (.lstatMask m) := by
  intro w h _
  obtain rfl := Option.some.inj h
  have hm : (0xF600#16 ++ m ++ 0x40#8) &&& 0xFFFF00FF#32 = 0xF6000040#32 := by
    rw [show 0xFFFF00FF#32 = 0xFFFF#16 ++ 0#8 ++ 0xFF#8 from rfl]
    simp only [Encoding.mask_16_8_8, BitVec.and_zero]; rfl
  have hn : ¬(0xF600#16 ++ m ++ 0x40#8) &&& 0xFF0000FF#32 = 0xF6000000#32 := by
    rw [show 0xFF0000FF#32 = 0xFF00#16 ++ 0#8 ++ 0xFF#8 from rfl]
    simp only [Encoding.mask_16_8_8, BitVec.and_zero]; decide
  have hf := Encoding.fields_16_8_8 0xF600#16 m 0x40#8
  rw [Encoding.decode_eq (x := 0xF6#8) hf.1 rfl]
  show (fixedBits _ _ _ _ <|> fixedBits _ _ _ _) = _
  rw [fixedBits, if_neg hn, fixedBits, if_pos hm, hf.2.1]; rfl

theorem Encoding.reservedOpcode (w : BitVec 32) : Encoding.Statement (.reservedOpcode w) := by
  intro v h hw
  obtain rfl := Option.some.inj h
  have : reservedOp (opcode w) = true := by
    have e : opcode w = w.toNat / 2 ^ 24 := by
      have := w.isLt
      simp only [opcode, fld, BitVec.extractLsb'_toNat, Nat.shiftRight_eq_div_pow]; omega
    rw [e]
    have hw : reservedCode (w.toNat / 2 ^ 24) = true := hw
    simp [reservedCode] at hw
    simp [reservedOp]
    omega
  simp only [decode, decodeWord, this]; rfl

theorem Encoding.powerGood : Encoding.Statement .powerGood := Encoding.event rfl

theorem Encoding.bringupRestart : Encoding.Statement .bringupRestart := Encoding.event rfl

theorem Encoding.enableWrite : Encoding.Statement .enableWrite := Encoding.event rfl

theorem Encoding.registerWrite : Encoding.Statement .registerWrite := Encoding.event rfl

theorem Encoding.tailWrite : Encoding.Statement .tailWrite := Encoding.event rfl

theorem Encoding.createContext : Encoding.Statement .createContext := Encoding.event rfl

theorem Encoding.destroyContext : Encoding.Statement .destroyContext := Encoding.event rfl

theorem Encoding.createRing : Encoding.Statement .createRing := Encoding.event rfl

theorem Encoding.createComm : Encoding.Statement .createComm := Encoding.event rfl

theorem Encoding.invalidate : Encoding.Statement .invalidate := Encoding.event rfl

theorem Encoding.checkpoint : Encoding.Statement .checkpoint := Encoding.event rfl

theorem Encoding.resetContext : Encoding.Statement .resetContext := Encoding.event rfl

theorem Encoding.resetRing : Encoding.Statement .resetRing := Encoding.event rfl

theorem Encoding.resetDumpArea : Encoding.Statement .resetDumpArea := Encoding.event rfl

theorem Encoding.resetTraceRing : Encoding.Statement .resetTraceRing := Encoding.event rfl

theorem Encoding.admitContract : Encoding.Statement .admitContract := Encoding.event rfl

theorem Encoding.readCounters : Encoding.Statement .readCounters := Encoding.event rfl

theorem Encoding.definePartition : Encoding.Statement .definePartition := Encoding.event rfl

theorem Encoding.updateContext : Encoding.Statement .updateContext := Encoding.event rfl

theorem Encoding.writeWatchpoint : Encoding.Statement .writeWatchpoint := Encoding.event rfl

theorem Encoding.releaseRing : Encoding.Statement .releaseRing := Encoding.event rfl

theorem Encoding.releaseComm : Encoding.Statement .releaseComm := Encoding.event rfl

theorem Encoding.releaseContract : Encoding.Statement .releaseContract := Encoding.event rfl

theorem Encoding.restore : Encoding.Statement .restore := Encoding.event rfl

theorem Encoding.getVersion : Encoding.Statement .getVersion := Encoding.event rfl

theorem Encoding.getCapabilities : Encoding.Statement .getCapabilities := Encoding.event rfl

theorem Encoding.negotiateAlgorithms : Encoding.Statement .negotiateAlgorithms := Encoding.event rfl

theorem Encoding.getCertificate : Encoding.Statement .getCertificate := Encoding.event rfl

theorem Encoding.challenge : Encoding.Statement .challenge := Encoding.event rfl

theorem Encoding.getMeasurements : Encoding.Statement .getMeasurements := Encoding.event rfl

theorem Encoding.hostWrite : Encoding.Statement .hostWrite := Encoding.event rfl

theorem Encoding.hostRead : Encoding.Statement .hostRead := Encoding.event rfl

theorem Encoding.atsInvalidation : Encoding.Statement .atsInvalidation := Encoding.event rfl

theorem Encoding.atsTranslationReply : Encoding.Statement .atsTranslationReply := Encoding.event rfl

theorem Encoding.priResponse : Encoding.Statement .priResponse := Encoding.event rfl

theorem Encoding.ringLaunch : Encoding.Statement .ringLaunch := Encoding.event rfl

theorem Encoding.ringNode : Encoding.Statement .ringNode := Encoding.event rfl

theorem Encoding.ringWait : Encoding.Statement .ringWait := Encoding.event rfl

theorem Encoding.ringSignal : Encoding.Statement .ringSignal := Encoding.event rfl

theorem Encoding.ringFence : Encoding.Statement .ringFence := Encoding.event rfl

theorem Encoding.ringMapping : Encoding.Statement .ringMapping := Encoding.event rfl

theorem Encoding.teamDispatch : Encoding.Statement .teamDispatch := Encoding.event rfl

theorem Encoding.dispatchStarvation : Encoding.Statement .dispatchStarvation := Encoding.event rfl

theorem Encoding.gridRuleSave : Encoding.Statement .gridRuleSave := Encoding.event rfl

theorem Encoding.launchCompletion : Encoding.Statement .launchCompletion := Encoding.event rfl

theorem Encoding.contractRelease : Encoding.Statement .contractRelease := Encoding.event rfl

theorem Encoding.contractOverrun : Encoding.Statement .contractOverrun := Encoding.event rfl

theorem Encoding.preemptionRequest : Encoding.Statement .preemptionRequest := Encoding.event rfl

theorem Encoding.drainDeadline : Encoding.Statement .drainDeadline := Encoding.event rfl

theorem Encoding.save : Encoding.Statement .save := Encoding.event rfl

theorem Encoding.teamRestore : Encoding.Statement .teamRestore := Encoding.event rfl

theorem Encoding.loadReply : Encoding.Statement .loadReply := Encoding.event rfl

theorem Encoding.storeAcknowledgement : Encoding.Statement .storeAcknowledgement := Encoding.event rfl

theorem Encoding.transformPipeReply : Encoding.Statement .transformPipeReply := Encoding.event rfl

theorem Encoding.walkCompletion : Encoding.Statement .walkCompletion := Encoding.event rfl

theorem Encoding.faultService : Encoding.Statement .faultService := Encoding.event rfl

theorem Encoding.monitorRecheck : Encoding.Statement .monitorRecheck := Encoding.event rfl

theorem Encoding.nodeCommit : Encoding.Statement .nodeCommit := Encoding.event rfl

theorem Encoding.nodeRollback : Encoding.Statement .nodeRollback := Encoding.event rfl

theorem Encoding.regulatorWindow : Encoding.Statement .regulatorWindow := Encoding.event rfl

theorem Encoding.florixRemoteRequest : Encoding.Statement .florixRemoteRequest := Encoding.event rfl

theorem Encoding.fabricTimeout : Encoding.Statement .fabricTimeout := Encoding.event rfl

theorem Encoding.florixPortFailure : Encoding.Statement .florixPortFailure := Encoding.event rfl

theorem Encoding.sramUncorr : Encoding.Statement .sramUncorr := Encoding.event rfl

theorem Encoding.unitFencing : Encoding.Statement .unitFencing := Encoding.event rfl

theorem Encoding.contextFault : Encoding.Statement .contextFault := Encoding.event rfl

theorem Encoding.streamFaultDelivery : Encoding.Statement .streamFaultDelivery := Encoding.event rfl

theorem Encoding.commandToEngine : Encoding.Statement .commandToEngine := Encoding.event rfl

theorem Encoding.chunkDelivery : Encoding.Statement .chunkDelivery := Encoding.event rfl

theorem Encoding.heldArrival : Encoding.Statement .heldArrival := Encoding.event rfl

theorem Encoding.engineStalemate : Encoding.Statement .engineStalemate := Encoding.event rfl

theorem Encoding.arbiterGrant : Encoding.Statement .arbiterGrant := Encoding.event rfl

theorem Encoding.mldwCompletion : Encoding.Statement .mldwCompletion := Encoding.event rfl

theorem Encoding.mswapExchange : Encoding.Statement .mswapExchange := Encoding.event rfl

theorem Encoding.passCompletion : Encoding.Statement .passCompletion := Encoding.event rfl

theorem Encoding.mzeroCompletion : Encoding.Statement .mzeroCompletion := Encoding.event rfl

theorem Encoding.drainCompletion : Encoding.Statement .drainCompletion := Encoding.event rfl

theorem Encoding.signatureReceipt : Encoding.Statement .signatureReceipt := Encoding.event rfl

theorem Encoding.chunkStep : Encoding.Statement .chunkStep := Encoding.event rfl

theorem Encoding.chunkCredit : Encoding.Statement .chunkCredit := Encoding.event rfl

theorem Encoding.collAbort : Encoding.Statement .collAbort := Encoding.event rfl

theorem Encoding.sequencerTimeout : Encoding.Statement .sequencerTimeout := Encoding.event rfl

theorem Encoding.splitStalemate : Encoding.Statement .splitStalemate := Encoding.event rfl

theorem Encoding.regroupMigration : Encoding.Statement .regroupMigration := Encoding.event rfl

theorem Encoding.syncPeriodic : Encoding.Statement .syncPeriodic := Encoding.event rfl

theorem Encoding.branchFlush : Encoding.Statement .branchFlush := Encoding.event rfl

theorem Encoding.mailboxUnknownCommand : Encoding.Statement .mailboxUnknownCommand := Encoding.event rfl

theorem Encoding.nvmeCompletion : Encoding.Statement .nvmeCompletion := Encoding.event rfl

theorem Encoding.florixPortUp : Encoding.Statement .florixPortUp := Encoding.event rfl

theorem Encoding.onPackageLinkFailure : Encoding.Statement .onPackageLinkFailure := Encoding.event rfl

theorem Encoding.healthCorrWindow : Encoding.Statement .healthCorrWindow := Encoding.event rfl

end Sys2Proof.Laws
end

