-- ==== Sys2Proof/Tests/Slice0.lean ====
section
/-! SUPPORT. Small tests: terms that are not well formed, words written out bit by bit from the encoding tables, one step of single
instructions with results from the spec's rules, and, for each statement with hypotheses, a state and operands that meet them. -/

open Sys2Proof Sys2Proof.Machine Sys2Proof.Claims

namespace Sys2Proof.Tests

/-! ## WellFormed -/

theorem test_wf_vselPk_p0 : (Instr.vselPk 0#3 1#8 2#8 3#8).wellFormed = false := by decide
theorem test_wf_vselPk_p1 : (Instr.vselPk 1#3 1#8 2#8 3#8).wellFormed = true := by decide
theorem test_wf_reserved_opcode_in_use : (Instr.reservedOpcode 0x04000000#32).wellFormed = false := by decide
theorem test_wf_reserved_opcode : (Instr.reservedOpcode 0x58000001#32).wellFormed = true := by decide

/-! ## Words from the encoding tables (R51 to R53, R60 to R73 and the table of each family) -/

-- IMM: opcode 0x01, i at 23:0 (R61).
theorem test_decode_imm : decode (0x01#8 ++ 0xABCDEF#24) = some (.imm 0xABCDEF#24) := by decide
-- NOP: 0x0400_0000 (R73).
theorem test_decode_nop : decode 0x04000000#32 = some .nop := by decide
-- TRAP: n at 19, p at 18:16, c at 15:0 (R404).
theorem test_decode_trap : decode (0x05#8 ++ 0#4 ++ 1#1 ++ 5#3 ++ 0x1234#16) = some (.trap 1#1 5#3 0x1234#16) := by decide
-- MFSR: d at 23:16, s at 15:8 (R75).
theorem test_decode_mfsr : decode (0x08#8 ++ 0x21#8 ++ 0x0D#8 ++ 0#8) = some (.mfsr 0x21#8 0x0D#8) := by decide
-- CALL: c at 23:16, o at 15:0 (R324).
theorem test_decode_call : decode (0x15#8 ++ 0xC2#8 ++ 0xFFFF#16) = some (.call 0xC2#8 0xFFFF#16) := by decide
-- REGROUP: b at 23:20, n at 19:12, o at 11:0 (R335).
theorem test_decode_regroup : decode (0x1A#8 ++ 3#4 ++ 17#8 ++ 0xFFE#12) = some (.regroup 3#4 17#8 0xFFE#12) := by decide
-- SADD: d, a, b in descending bytes (R177).
theorem test_decode_sadd : decode (0x20#8 ++ 0xC1#8 ++ 0xC2#8 ++ 0xF8#8) = some (.sadd 0xC1#8 0xC2#8 0xF8#8) := by decide
-- SMOVI: d at 23:16, i at 15:0 (R181).
theorem test_decode_smovi : decode (0x2E#8 ++ 0xC1#8 ++ 0x8001#16) = some (.smovi 0xC1#8 0x8001#16) := by decide
-- VCMP: c at 23:21, m at 20:19, p at 18:16, a, b (R183).
theorem test_decode_vcmp : decode (0x53#8 ++ 5#3 ++ 2#2 ++ 6#3 ++ 7#8 ++ 0xF0#8) = some (.vcmp 5#3 2#2 6#3 7#8 0xF0#8) := by decide
-- FADD (R195), DADD (R199), BADD2 (R201).
theorem test_decode_fadd : decode (0x60#8 ++ 1#8 ++ 2#8 ++ 3#8) = some (.fadd 1#8 2#8 3#8) := by decide
theorem test_decode_dadd : decode (0x6C#8 ++ 2#8 ++ 4#8 ++ 6#8) = some (.dadd 2#8 4#8 6#8) := by decide
theorem test_decode_badd2 : decode (0x72#8 ++ 1#8 ++ 2#8 ++ 3#8) = some (.badd2 1#8 2#8 3#8) := by decide
-- UNPK: f at 7:4, s at 3:0 (R206).
theorem test_decode_unpk : decode (0x84#8 ++ 1#8 ++ 2#8 ++ 4#4 ++ 7#4) = some (.unpk 1#8 2#8 4#4 7#4) := by decide
-- VOTE: k at 9:8, n at 7, p at 6:4 (R222).
theorem test_decode_vote : decode (0x8D#8 ++ 0xC4#8 ++ 0#6 ++ 2#2 ++ 1#1 ++ 3#3 ++ 0#4) = some (.vote 0xC4#8 2#2 1#1 3#3) := by decide
-- REDUX: r at 7:4 (R224).
theorem test_decode_redux : decode (0x8E#8 ++ 5#8 ++ 6#8 ++ 9#4 ++ 0#4) = some (.redux 5#8 6#8 9#4) := by decide
-- SINT (R212); QPACK: f at 7:6, o at 5 (R217).
theorem test_decode_sint : decode (0x90#8 ++ 5#8 ++ 6#8 ++ 0#8) = some (.sint 5#8 6#8) := by decide
theorem test_decode_qpack : decode (0x99#8 ++ 4#8 ++ 6#8 ++ 2#2 ++ 1#1 ++ 0#5) = some (.qpack 4#8 6#8 2#2 1#1) := by decide
-- STL: w at 7:5, o at 4:0 (R162).
theorem test_decode_stl : decode (0xA3#8 ++ 4#8 ++ 6#8 ++ 4#3 ++ 0x1F#5) = some (.stl 4#8 6#8 4#3 0x1F#5) := by decide
-- FENCE: k at 23:22 (R380); PREF: l at 17:16, 7:5 = 4 (R167); CCTL: c at 23:20 (R168).
theorem test_decode_fence : decode (0xAD#8 ++ 3#2 ++ 0#22) = some (.fence 3#2) := by decide
theorem test_decode_pref : decode (0xAE#8 ++ 0#6 ++ 1#2 ++ 4#8 ++ 4#3 ++ 2#5) = some (.pref 1#2 4#8 2#5) := by decide
theorem test_decode_cctl : decode (0xAF#8 ++ 2#4 ++ 0#4 ++ 0xF0#8 ++ 0#8) = some (.cctl 2#4 0xF0#8) := by decide
-- LOCK (R101); WAITC: c at 23:21, i at 20 (R105).
theorem test_decode_lock : decode (0xBC#8 ++ 0#8 ++ 0xC2#8 ++ 0#8) = some (.lock 0xC2#8) := by decide
theorem test_decode_waitc : decode (0xBE#8 ++ 4#3 ++ 1#1 ++ 0#4 ++ 0xC2#8 ++ 0xF0#8) = some (.waitc 4#3 1#1 0xC2#8 0xF0#8) := by decide
-- WAITN: l, s, c, t, six bits each (R170).
theorem test_decode_waitn : decode (0xC0#8 ++ 1#6 ++ 2#6 ++ 63#6 ++ 4#6) = some (.waitn 1#6 2#6 63#6 4#6) := by decide
-- BARINIT: b at 23:20, e at 19, n at 15:10 (R140); ARRIVEX: b at 23:20, a at 15:8 (R141).
theorem test_decode_barinit : decode (0xC3#8 ++ 9#4 ++ 1#1 ++ 0#3 ++ 32#6 ++ 0#10) = some (.barinit 9#4 1#1 32#6) := by decide
theorem test_decode_arrivex : decode (0xC5#8 ++ 9#4 ++ 0#4 ++ 0xC1#8 ++ 0#8) = some (.arrivex 9#4 0xC1#8) := by decide
-- GSET: g at 23:21, a at 20:19, p at 18:16 (R145).
theorem test_decode_gset : decode (0xC9#8 ++ 6#3 ++ 1#2 ++ 2#3 ++ 0#16) = some (.gset 6#3 1#2 2#3) := by decide
-- XSTAT: s at 15:12, i at 11:8 (R148); COMMQ: s at 7:4 (R293).
theorem test_decode_xstat : decode (0xD4#8 ++ 0xC1#8 ++ 8#4 ++ 5#4 ++ 0#8) = some (.xstat 0xC1#8 8#4 5#4) := by decide
theorem test_decode_commq : decode (0xD6#8 ++ 0xC1#8 ++ 0xC2#8 ++ 6#4 ++ 0#4) = some (.commq 0xC1#8 0xC2#8 6#4) := by decide
-- MSTART (R251), MLDW: w at 23:20, f at 19:16 (R252), MADDI: m at 23:21, s at 20 (R258).
theorem test_decode_mstart : decode (0xD7#8 ++ 0#8 ++ 0xC2#8 ++ 0xF8#8) = some (.mstart 0xC2#8 0xF8#8) := by decide
theorem test_decode_mldw : decode (0xE0#8 ++ 5#4 ++ 10#4 ++ 0#16) = some (.mldw 5#4 10#4) := by decide
theorem test_decode_maddi : decode (0xEB#8 ++ 7#3 ++ 1#1 ++ 0#4 ++ 0x8000#16) = some (.maddi 7#3 1#1 0x8000#16) := by decide
-- TGET (R46), TRULE: c at 2:0 (R49), LSTAT: m at 15:8 (R397).
theorem test_decode_tget : decode (0xF0#8 ++ 1#8 ++ 0xC3#8 ++ 0#8) = some (.tget 1#8 0xC3#8) := by decide
theorem test_decode_trule : decode (0xF5#8 ++ 0#21 ++ 4#3) = some (.trule 4#3) := by decide
theorem test_decode_lstat : decode (0xF6#8 ++ 9#8 ++ 0x3F#8 ++ 0#8) = some (.lstat 9#8 0x3F#8) := by decide
-- R55: a nonzero reserved bit decodes to nothing.
theorem test_decode_refuses : decode 0xAD000001#32 = none ∧ decode (0xF5#8 ++ 1#21 ++ 4#3) = none := by decide

/-! ## A small machine -/

/-- One split of a group of eight lanes at 0x10000, no register written. -/
def ex : Ex :=
  { lch := { hostLaunch with hdr := { hostLaunch.hdr with ls := 4096, ab := 8192, cb := 8192, wb := 8192, trap := some 0x100 } }
    tm := {}
    g := {}
    x := { pc := 0x10000#64, lset := 0xFF#64, amask := 0xFF#64, slices := 3#16 } }

/-- A context's word of memory at virtual page 2, physical page 0x30000, read and written. -/
def dataTlb : Tlb := { core := some 0, die := 0, ctx := 0, page := 2, leaf := 0x3001F#64, level := 3 }

/-- The machine in which the split of e has the turn. -/
def onEx (e : Ex) : State :=
  { dev := { ready := true, step := 6 }
    mem := { tlb := [dataTlb] }
    ctxs := [{ num := 0, root := 0x30000#64 }]
    launches := [e.lch], teams := [e.tm], groups := [e.g], splits := [e.x], cur := .split 0 0 0, nextId := 1 }

/-- e with scalars, given by register number. -/
def withS (e : Ex) (l : List (Nat × Word)) : Ex := { e with g := { e.g with sregs := l.map fun r => (r.1, (r.2, 0#16)) } }

/-- e with a vector register in its eight lanes, keyed in order. -/
def withV (e : Ex) (r : Nat) (l : List Word) : Ex :=
  { e with g := { e.g with vregs := l.zipIdx.map fun v => (r * 64 + v.2, (v.1, 0#16)) } }

/-- The next state of a word, and what the split sees there. -/
def after (i : Instr) (s : State) : Option Ex :=
  match exec i s with
  | .next t => exOf t
  | _ => none

/-! ## Single steps -/

/-- What a word leaves in scalar k. -/
def scalarOf (i : Instr) (e : Ex) (k : Nat) : Option Word := (after i (onEx e)).map fun t => (sreg t.g k).1
/-- What a word leaves in a lane of a vector register. -/
def laneOf (i : Instr) (e : Ex) (r j : Nat) : Option Word := (after i (onEx e)).map fun t => (vreg t.g r j).1
/-- Where the split continues. -/
def pcOf (i : Instr) (e : Ex) : Option DWord := (after i (onEx e)).map fun t => t.x.pc

-- R176, R177: sums wrap; a divisor of 0 gives all ones and records a divide-by-zero (R178).
theorem test_sadd_wraps : scalarOf (.sadd 0xC1#8 0xC2#8 0xC3#8) (withS ex [(2, 0xFFFFFFFF#32), (3, 2#32)]) 1 = some 1#32 := by decide
theorem test_ssub : scalarOf (.ssub 0xC1#8 0xC2#8 0xC3#8) (withS ex [(2, 5#32), (3, 7#32)]) 1 = some 0xFFFFFFFE#32 := by decide
theorem test_sdivu_by_zero : scalarOf (.sdivu 0xC1#8 0xC2#8 0xC3#8) (withS ex [(2, 5#32)]) 1 = some 0xFFFFFFFF#32 := by decide
theorem test_sdivu_status :
    ((after (.sdivu 0xC1#8 0xC2#8 0xC3#8) (onEx (withS ex [(2, 5#32)]))).map fun t => lstatOf t.g 7) = some 0x0202#32 := by decide
theorem test_ssra_by_40 : scalarOf (.ssra 0xC1#8 0xC2#8 0xC3#8) (withS ex [(2, 0x80000000#32), (3, 40#32)]) 1 = some 0xFFFFFFFF#32 := by
  decide
theorem test_sffs_zero : scalarOf (.sffs 0xC1#8 0xC2#8) ex 1 = some 32#32 := by decide
-- R181: the immediate is sign-extended, or imm24[15:0] : imm16 behind an IMM prefix.
theorem test_smovi : scalarOf (.smovi 0xC1#8 0x8001#16) ex 1 = some 0xFFFF8001#32 := by decide
theorem test_smovi_imm :
    scalarOf (.smovi 0xC1#8 0x8001#16) { ex with x := { ex.x with imm := 0x01001234#32 } } 1 = some 0x12348001#32 := by decide
-- R177, R180: vector words by lane.
theorem test_vadds_saturates : laneOf (.vadds 1#8 0#8 0xF0#8) (withV ex 0 [0x7FFFFFFF#32]) 1 0 = some 0x7FFFFFFF#32 := by decide
theorem test_vadds_down : laneOf (.vadds 1#8 0#8 0#8) (withV ex 0 [0x80000000#32]) 1 0 = some 0x80000000#32 := by decide
theorem test_vabsd : laneOf (.vabsd 1#8 0#8 0xF0#8) (withV ex 0 [0x80000000#32]) 1 0 = some 0x80000000#32 := by decide
theorem test_vclz : laneOf (.vclz 1#8 0#8) (withV ex 0 [0x00010000#32]) 1 0 = some 15#32 := by decide
theorem test_vadd_lane : laneOf (.vadd 1#8 0xF5#8 0xF5#8) ex 1 3 = some 6#32 := by decide
theorem test_vadd_inactive : laneOf (.vadd 1#8 0xF5#8 0xF5#8) { ex with x := { ex.x with amask := 0xF7#64 } } 1 3 = some 0#32 := by decide
-- R59, R183: a compare combined with AND.
theorem test_vcmp_and : ((after (.vcmp 2#3 1#2 1#3 0xF5#8 0xC1#8)
    (onEx { (withS ex [(1, 4#32)]) with g := { (withS ex [(1, 4#32)]).g with preds := [(1, 0xF6#64)] } })).map
      fun t => pred t.g 1 &&& 0xFF#64) = some 0x06#64 := by decide
-- R184: the predicate selects.
theorem test_vsel : laneOf (.vselPk 1#3 2#8 0xF5#8 0xF0#8) { ex with g := { preds := [(1, 0x08#64)] } } 2 3 = some 3#32 := by decide
-- R188: MAND narrows A, MSAV saves it.
theorem test_mand : ((after (.mand 1#1 1#3) (onEx { ex with g := { preds := [(1, 0x0F#64)] } })).map fun t => t.x.amask) = some 0xF0#64 := by
  decide
theorem test_msav : scalarOf (.msav 0xC2#8) ex 2 = some 0xFF#32 := by decide
-- R323, R324: targets count words from the PC; CALL links PC + 4.
theorem test_br_back : pcOf (.br 0xFFFF#16) ex = some 0xFFFC#64 := by decide
theorem test_call_link : scalarOf (.call 0xC2#8 4#16) ex 2 = some 0x10004#32 := by decide
theorem test_call_target : pcOf (.call 0xC2#8 4#16) ex = some 0x10010#64 := by decide
-- R325: BRD with the low slice true makes a split of the high slice.
theorem test_brd_forks : ((match exec (.brd 3#4 0#1 1#3 8#16) (onEx { ex with g := { preds := [(1, 0x0F#64)] } }) with
    | .next t => t.splits.map fun x => (x.pc, x.lset)
    | _ => []) = [(0x10020#64, 0x0F#64), (0x10004#64, 0xF0#64)]) := by decide
-- R327: REJOIN pops the pending entry of its mark.
theorem test_rejoin_pops : ((after (.rejoin 3#4)
    (onEx { ex with x := { ex.x with lset := 0x0F#64, amask := 0x0F#64, stack := [⟨0xF0#64, 0x10040#64, 3, false⟩] } })).map
      fun t => (t.x.pc, t.x.lset, t.x.st)) = some (0x10040#64, 0xF0#64, .deferred) := by decide
-- R74: %lane and %core.
theorem test_mfsr_lane : laneOf (.mfsr 2#8 0#8) ex 2 5 = some 5#32 := by decide
-- R397: LSTAT clears a selected sticky bit with its UNREP bit.
theorem test_lstat_clears : ((after (.lstat 2#8 0x02#8) (onEx { ex with g := { lstat := [(1, 0x0303#32)] } })).map
    fun t => ((vreg t.g 2 1).1, lstatOf t.g 1)) = some (0x0303#32, 0x0101#32) := by decide
-- R46: TSET of 0xF0 clears the tag; TGET reads it.
theorem test_tget : laneOf (.tget 2#8 1#8) { ex with g := { vregs := [(64, (7#32, 0x1234#16))] } } 2 0 = some 0x1234#32 := by decide
theorem test_tset : ((after (.tset 1#8 0xF0#8) (onEx { ex with g := { vregs := [(64, (7#32, 0x1234#16))] } })).map
    fun t => vreg t.g 1 0) = some (7#32, 0#16) := by decide
-- R221, R222, R223: shuffles, votes and reductions.
theorem test_shflx : laneOf (.shflx 2#8 1#8 0xC1#8) (withS (withV ex 1 [10#32, 11#32, 12#32]) []) 2 1 = some 11#32 := by decide
theorem test_shfl : laneOf (.shfl 2#8 1#8 0xF0#8) (withV ex 1 [10#32, 11#32]) 2 5 = some 10#32 := by decide
theorem test_vote_ballot : scalarOf (.vote 0xC2#8 2#2 0#1 1#3) { ex with g := { preds := [(1, 0x5A#64)] } } 2 = some 0x5A#32 := by decide
theorem test_redux_max : scalarOf (.redux 0xC2#8 1#8 2#4) (withV ex 1 [0xFFFFFFFF#32, 3#32]) 2 = some 3#32 := by decide
-- R195, R18: 1 + 2 = 3; 16777216 + 1 rounds to even; infinity minus infinity is invalid.
theorem test_fadd : laneOf (.fadd 2#8 0xC1#8 0xC2#8) (withS ex [(1, 0x3F800000#32), (2, 0x40000000#32)]) 2 0 = some 0x40400000#32 := by decide
theorem test_fadd_even : laneOf (.fadd 2#8 0xC1#8 0xC2#8) (withS ex [(1, 0x4B800000#32), (2, 0x3F800000#32)]) 2 0 = some 0x4B800000#32 := by
  decide
theorem test_fsub_invalid : ((after (.fsub 2#8 0xC1#8 0xC1#8) (onEx (withS ex [(1, 0x7F800000#32)]))).map
    fun t => lstatOf t.g 0 &&& 0x0101#32) = some 0x0101#32 := by decide
-- R197: minus infinity is class bit 0, a quiet NaN bit 9.
theorem test_fclass : laneOf (.fclass 2#8 0xC1#8) (withS ex [(1, 0xFF800000#32)]) 2 0 = some 1#32 := by decide
-- R19, R207: the draw after the state 1.
theorem test_dice : laneOf (.dice 2#8) { ex with g := { dice := [(0, 1#32)] } } 2 0 = some 270369#32 := by decide
-- R204: VDOT4.I8 of -1 with 1 in four bytes.
theorem test_vdot4I8 : laneOf (.vdot4I8 2#8 0xC1#8 0xC2#8) (withS ex [(1, 0xFFFFFFFF#32), (2, 0x01010101#32)]) 2 0 = some 0xFFFFFFFC#32 := by
  decide
-- R209: a transform-pipe word writes nothing before its reply.
theorem test_sqrt_pending : laneOf (.sqrt 2#8 0xC1#8) (withS ex [(1, 0x40800000#32)]) 2 0 = some 0#32 := by decide
-- R161: an LS byte loaded with its sign.
theorem test_ldl_sign : laneOf (.ldl 2#8 0xC1#8 1#3 3#5)
    { (withS ex []) with tm := { ls := [(0, (0x80FFFFFF#32, 9#16))] } } 2 0 = some 0xFFFFFF80#32 := by decide
-- R170: WAITN passes with its counters at their counts, and waits above them (R169).
theorem test_waitn : pcOf (.waitn 0#6 63#6 0#6 0#6) { ex with g := { stores := 9 } } = some 0x10004#64 := by decide
theorem test_waitn_parks : ((after (.waitn 0#6 8#6 0#6 0#6) (onEx { ex with g := { stores := 9 } })).map fun t => (t.x.pc, t.x.st)) =
    some (0x10000#64, .parked) := by decide
-- R139 to R142: the only arrival completes the phase.
theorem test_barinit : ((after (.barinit 2#4 1#1 5#6) (onEx ex)).map fun t => barOf t.tm 2) = some { exp := 5, e := true } := by decide
theorem test_arrive_completes : ((after (.arrive 2#4) (onEx { ex with tm := { bars := [(2, { exp := 1 })] } })).map fun t => barOf t.tm 2) =
    some { exp := 1, phase := true } := by decide
-- R145, R148: guards and status.
theorem test_gset : ((after (.gset 3#3 2#2 0#3) (onEx ex)).map fun t => guardOf t.tm 3) = some .true_ := by decide
theorem test_xstat_guard : scalarOf (.xstat 0xC1#8 5#4 3#4) { ex with tm := { guards := [(3, .false_)] } } 1 = some 2#32 := by decide
-- R404, R400: TRAP enters the handler after the word, with the code in %tinfo0; BKPT before it.
theorem test_trap : ((after (.trap 0#1 0#3 0x1234#16) (onEx ex)).map fun t => (t.x.pc, t.g.tpc, t.g.tcause, t.g.tinfo0)) =
    some (0x10100#64, 0x10004#64, 0x08#32, 0x1234#32) := by decide
theorem test_bkpt : ((after (.bkpt 7#16) (onEx ex)).map fun t => (t.g.tpc, t.g.tcause)) = some (0x10000#64, 0x09#32) := by decide
-- R72: a reserved opcode is ILL_OPCODE.
theorem test_ill_opcode : ((after (.reservedOpcode 0x58000001#32) (onEx ex)).map fun t => t.g.tcause) = some 0x01#32 := by decide
-- R326: BRD with A not L raises MASK_STATE.
theorem test_brd_mask_state : ((after (.brd 0#4 0#1 0#3 1#16) (onEx { ex with x := { ex.x with amask := 1#64 } })).map fun t => t.g.tcause) =
    some 0x64#32 := by decide
-- R403: RFE returns to %tpc with A.
theorem test_rfe : ((after .rfe (onEx { ex with g := { tpc := 0x10020#64, hs := some ⟨0, 0x0F#64, false, 0#64, 0#32, 0#32, 0#32, 0x10020#64⟩ } })).map
    fun t => (t.x.pc, t.x.amask)) = some (0x10020#64, 0x0F#64) := by decide

section Witnesses
set_option Elab.async false

/-! ## Witnesses: a state and operands that meet a statement's hypotheses -/

/-- The split of e may run word i with its own effect in the small machine. -/
abbrev here (e : Ex) (i : Instr) : Prop := exOf (onEx e) = some e ∧ runs (onEx e) e i = true

/-- e with its lanes' A as given. -/
def withA (e : Ex) (a : DWord) : Ex := { e with x := { e.x with amask := a } }

/-- The address pair s2, s3 naming 0x20000 in the mapped page. -/
def addressed : Ex := withS ex [(2, 0x20000#32)]

/-- What 0x20000 is mapped to. -/
def target : Target := ⟨0x30000, 0, 0, false, false, false⟩

theorem witness_ScalarIntegerWord :
    here ex (.sdivu 0xC1#8 0xC2#8 0xC3#8) ∧ scalarOperands (.sdivu 0xC1#8 0xC2#8 0xC3#8) = some (0xC1#8, 0xC2#8, some 0xC3#8) := by decide
theorem witness_VectorIntegerWord :
    here ex (.vmad 0#8 191#8 0xF5#8) ∧ vectorOperands (.vmad 0#8 191#8 0xF5#8) = some (0#8, 191#8, some 0xF5#8, true) := by decide
theorem witness_ImmediateWords :
    here ex (.smovi 0xC0#8 0xFFFF#16) ∧ here ex (.vmovi 191#8 0#16) ∧ here ex (.saddw 0xC0#8 0xC2#8 0xC4#8) ∧
      here ex (.vaddw 0#8 190#8 0xF5#8) := by decide
theorem witness_CompareWords : here ex (.vcmp 0#3 0#2 1#3 0#8 0xC0#8) ∧
    compareFields (.vcmp 0#3 0#2 1#3 0#8 0xC0#8) = some (0#3, 0#2, 1#3, 0#8, 0xC0#8) ∧
    comparePoison ex (.vcmp 0#3 0#2 1#3 0#8 0xC0#8) 0#8 0xC0#8 = false := by decide
/-- A machine whose s1 holds POISON. -/
def poisoned : Ex := { ex with g := { ex.g with sregs := [(1, (0#32, 0xFF00#16))] } }
theorem witness_CompareWords_poison : here poisoned (.scmp 5#3 2#2 7#3 0xC1#8 0xC0#8) ∧
    comparePoison poisoned (.scmp 5#3 2#2 7#3 0xC1#8 0xC0#8) 0xC1#8 0xC0#8 = true ∧
    (poisoned.lch.node && poisoned.lch.replayable) = false ∧ (findCtx (onEx poisoned) poisoned.lch.ctx).isSome = true := by decide
theorem witness_SelectWord : here ex (.vselPk 1#3 2#8 0xF5#8 0xF0#8) := by decide
theorem witness_SelectWord_encoding : 1#3 ≠ 0#3 ∧ (191#8).toNat < 0xC0 ∧ (191#8).toNat < ex.lch.hdr.regs ∧
    sourceIn ex.lch.hdr (0xEF#8).toNat ∧ sourceIn ex.lch.hdr (0xF8#8).toNat ∧ 0xEF#8 ≠ 0xF3#8 ∧ 0xF8#8 ≠ 0xF3#8 := by
  unfold sourceIn; decide
theorem witness_MaskWords : here ex (.mres 0xC2#8) ∧ here ex (.mand 1#1 7#3) ∧ here ex .enall ∧ ex.x.br = false ∧
    here { ex with x := { ex.x with br := true } } .enres ∧ here ex (.msav 0xC2#8) := by decide
theorem witness_PrefixAndNop : here ex (.imm 0xFFFFFF#24) ∧ here ex .nop ∧ here ex (.mod 1#1 1#1 0#1 1#1 0#1 1#1 0#5 6#3 5#3 15#4 5#3) := by decide
theorem witness_BranchWord : here ex (.bru 0#1 1#3 2#16) ∧ (ex.lch.unifTrap && true) = false ∧ here ex (.jmpi 0xC2#8) ∧
    (ex.lanes.any fun j => anyPoison ex 0xC2 j) = false ∧ ((operand64 ex false 0xC2 0).1).toNat % 4 = 0 := by decide
theorem witness_CallWord : here ex (.call 0xC2#8 0x8000#16) := by decide
theorem witness_DivergentBranch : here ex (.brd 3#4 0#1 1#3 8#16) ∧ ex.x.br = false ∧ ex.x.amask = ex.x.lset ∧
    spillFits (onEx ex) ex 1 = true := by decide
/-- The split's own lanes in the low half, the others deferred. -/
def halved (l : List DefEntry) : Ex := { ex with x := { ex.x with lset := 0x0F#64, amask := 0x0F#64, stack := l } }
theorem witness_Rejoin : here (halved [⟨0xF0#64, 0x10040#64, 3, false⟩]) (.rejoin 3#4) ∧
    (halved [⟨0xF0#64, 0x10040#64, 3, false⟩]).x.stack = [] ++ ⟨0xF0#64, 0x10040#64, 3, false⟩ :: [] ∧ 3 = (3#4).toNat ∧
    ∀ y ∈ ([] : List DefEntry), ¬(y.arr = false ∧ y.mark = (3#4).toNat) := by decide
theorem witness_Rejoin_back : here (halved [⟨0xF0#64, 0x10040#64, 3, true⟩]) (.rejoin 3#4) ∧
    (∀ y ∈ (halved [⟨0xF0#64, 0x10040#64, 3, true⟩]).x.stack, ¬(y.arr = false ∧ y.mark = (3#4).toNat)) ∧
    0 ∉ (halved [⟨0xF0#64, 0x10040#64, 3, true⟩]).g.joins.getD 3 [] := by decide
theorem witness_YieldAndExit : here ex .yield ∧ here ex .yieldD ∧ here (halved [⟨0xF0#64, 0x10040#64, 3, false⟩]) .yieldD ∧
    here (halved [⟨0xF0#64, 0x10040#64, 3, false⟩]) .exit ∧ ex.x.br = false := by decide
theorem witness_YieldAndExit_freed : exOf { onEx ex with splits := [ex.x, { ex.x with rank := 1, lset := 0xF0#64, amask := 0xF0#64 }] } = some ex ∧
    runs { onEx ex with splits := [ex.x, { ex.x with rank := 1, lset := 0xF0#64, amask := 0xF0#64 }] } ex .exit = true ∧
    ex.x.stack = [] ∧ ex.x.brBits = [] ∧ (∀ j ∈ ex.g.joins, j = []) := by decide
theorem witness_SpecialRegisters : here ex (.mfsr 190#8 0x0E#8) ∧ here ex (.mtsr 0x0D#8 0xF5#8) ∧
    (ex.lanes.any fun j => anyPoison ex 0xF5 j) = false := by decide
/-- The split of ex in its group's handler, which returns to 0x10020. -/
def handling : Ex := { ex with g := { tpc := 0x10020#64, hs := some ⟨0, 0x0F#64, false, 0#64, 0#32, 0#32, 0#32, 0x10020#64⟩ } }
theorem witness_SpecialRegisters_tpc : here handling (.mtsr 0x11#8 0xC2#8) ∧ here handling (.mtsr 0x12#8 0xEE#8) ∧
    anyPoison handling 0xC2 0 = false := by decide
theorem witness_StatusWord : here ex (.lstat 191#8 0x3F#8) ∧ here ex (.lstatMask 0xFF#8) := by decide
theorem witness_TagWords : here ex (.tget 0xC0#8 0xEF#8) ∧ here ex (.tset 191#8 0xF0#8) ∧ here ex (.tstamp 0xEF#8) ∧ here ex (.trule 4#3) ∧
    here ex (.tchk 1#8 0x1F#6) ∧ (checkedTags ex 1#8).any (inClass 0x1F#6) = false := by decide
theorem witness_LaneExchange : here ex (.swapp 2#8 1#8 0xC1#8) ∧ shuffleFields (.swapp 2#8 1#8 0xC1#8) = some (2#8, 1#8, 0xC1#8) ∧
    here ex (.vote 0xC4#8 2#2 1#1 3#3) ∧ here ex (.redux 0xC4#8 5#8 7#4) ∧ (7#4).toNat < 8 ∧ here ex (.scan 6#8 5#8 7#4 1#1) := by decide
theorem witness_FloatWord : here ex (.dfma 188#8 0#8 190#8) ∧ captureOff (onEx ex) ex = true ∧
    (floatLane (.dfma 188#8 0#8 190#8)).isSome = true := by decide
theorem witness_ClassAndDice : here ex (.fclass 191#8 0xF5#8) ∧ here ex (.dice 0#8) ∧ here ex (.mfsr 0#8 0x0D#8) := by decide
theorem witness_ClassAndDice_encoding : (191#8).toNat < 0xC0 ∧ (191#8).toNat < ex.lch.hdr.regs ∧ sourceIn ex.lch.hdr (0xF8#8).toNat := by
  unfold sourceIn; decide
theorem witness_TransformWord : here ex (.ddiv 188#8 2#8 190#8) ∧ captureOff (onEx ex) ex = true ∧
    (pipeResults (.ddiv 188#8 2#8 190#8)).isSome = true := by decide
theorem witness_Rounding : isExact (.fin true 3 (-1) false) = true ∧ (FVal.nan false true 1).isNaN = true ∧
    (roundTo .fp32 .rne false (.fin true 3 (-1) false) 0).ovr = false ∧ Fmt.hasInf .fp32 = true ∧
    (roundTo .fp32 .rtz false (.fin false 1 128 false) 0).ovr = true := by decide
theorem witness_LocalLoad : here (withS ex [(1, 4080#32)]) (.ldl 188#8 0xC1#8 6#3 0#5) ∧
    localFields (.ldl 188#8 0xC1#8 6#3 0#5) = some ⟨.ls, false, false, 188#8, 0xC1#8, 6#3, 0#5⟩ ∧
    localOk (onEx (withS ex [(1, 4080#32)])) (withS ex [(1, 4080#32)]) ⟨.ls, false, false, 188#8, 0xC1#8, 6#3, 0#5⟩ ∧
    countOf (withS ex [(1, 4080#32)]).g 0 < 255 := by
  refine ⟨by decide, rfl, fun j _ => ⟨rfl, 0, 4080, 4096, rfl, rfl, ?_, ?_⟩, by decide⟩ <;> decide
theorem witness_LocalStore : here (withV ex 1 [0#32, 4#32, 8#32, 12#32, 16#32, 20#32, 24#32, 28#32]) (.sta 2#8 1#8 4#3 0#5) ∧
    localOk (onEx (withV ex 1 [0#32, 4#32, 8#32, 12#32, 16#32, 20#32, 24#32, 28#32]))
      (withV ex 1 [0#32, 4#32, 8#32, 12#32, 16#32, 20#32, 24#32, 28#32]) ⟨.ab, true, false, 2#8, 1#8, 4#3, 0#5⟩ := by
  refine ⟨by decide, fun j h => ?_⟩
  have h : j ∈ [0, 1, 2, 3, 4, 5, 6, 7] := h
  simp only [List.mem_cons, List.not_mem_nil, or_false] at h
  rcases h with rfl | rfl | rfl | rfl | rfl | rfl | rfl | rfl <;>
    exact ⟨rfl, 0, _, 8192, rfl, by decide, by decide, by decide⟩
theorem witness_LocalAdd : here (withS ex [(1, 4092#32)]) (.ladd 2#8 0xC1#8 0xF5#8) ∧
    (∀ j ∈ ex.lanes, anyPoison (withS ex [(1, 4092#32)]) 0xC1 j = false) ∧ 4092 % 4 = 0 ∧ 4092 + 4 ≤ ex.lch.hdr.ls := by decide
theorem still_onEx (e : Ex) : stillMemory (onEx e) := ⟨rfl, rfl, rfl, rfl⟩
theorem portFree_onEx (e : Ex) : portFree (onEx e) e := ⟨rfl, fun _ h => nomatch h⟩
theorem takesTags_onEx (e : Ex) (pa : Nat) : takesTags (onEx e).mem pa := .inr (by change (0xFF02#16 : BitVec 16) ≠ 0xFF01#16; decide)
theorem placed_read (j : Nat) : lanePlaced (onEx addressed) addressed 0xC2 4 1 0x20000#64 target j :=
  ⟨rfl, by decide, by decide, by decide⟩
theorem placed_write (j : Nat) : lanePlaced (onEx addressed) addressed 0xC2 4 2 0x20000#64 target j :=
  ⟨rfl, by decide, by decide, by decide⟩
theorem witness_GlobalLoad : here addressed (.ldacq 2#8 0xC2#8 4#3 0#5) ∧
    globalFields (.ldacq 2#8 0xC2#8 4#3 0#5) = some ⟨.glob, false, false, 2#8, 0xC2#8, 4#3, 0#5⟩ ∧
    (∀ j ∈ addressed.lanes, lanePlaced (onEx addressed) addressed 0xC2 4 1
      (globalAddr addressed ⟨.glob, false, false, 2#8, 0xC2#8, 4#3, 0#5⟩ j) target j) ∧
    addressed.lanes ≠ [] ∧ unstaged addressed ∧ stillMemory (onEx addressed) ∧ portFree (onEx addressed) addressed ∧
    isRemote (onEx addressed) target = false := by
  exact ⟨by decide, rfl, fun j _ => placed_read j, by decide, rfl, still_onEx _, portFree_onEx _, rfl⟩
/-- The small machine with the page of a peer, device 1, behind 0x20000. -/
def onPeer (e : Ex) : State :=
  { onEx e with
    dev := { ready := true, step := 6, routes := [(1, [0])] }
    mem := { tlb := [{ dataTlb with leaf := 0x000100000003019F#64 }] } }
def peerTarget : Target := targetOf 0x000100000003019F 3 0x20000
theorem witness_GlobalLoad_remote : exOf (onPeer addressed) = some addressed ∧ runs (onPeer addressed) addressed (.ldg 2#8 0xC2#8 4#3 0#5) = true ∧
    translate (onPeer addressed) 0 0 0x20000#64 1 = .ok peerTarget ∧ isRemote (onPeer addressed) peerTarget = true := by decide
theorem witness_GlobalStore : here addressed (.strel 2#8 0xC2#8 4#3 0#5) ∧
    globalFields (.strel 2#8 0xC2#8 4#3 0#5) = some ⟨.glob, true, false, 2#8, 0xC2#8, 4#3, 0#5⟩ ∧
    (∀ j ∈ addressed.lanes, lanePlaced (onEx addressed) addressed 0xC2 4 2
      (globalAddr addressed ⟨.glob, true, false, 2#8, 0xC2#8, 4#3, 0#5⟩ j) target j) ∧
    released (onEx addressed) addressed (scopeOf addressed) = true ∧ target.tier < 3 ∧
    ∀ set, (((addressed.lanes.filter fun _ => target.tier < 2).map fun _ => target.pa / 64).dedup.filter fun l => l % 256 = set).length ≤ 8 := by
  refine ⟨by decide, rfl, fun j _ => placed_write j, by decide, by decide, fun set => ?_⟩
  refine Nat.le_trans (List.length_filter_le _ _) ?_
  decide
/-- The same with lane 0 alone active. -/
def single : Ex := withA addressed 1#64
theorem placed_single (j kind : Nat) (h : kind = 1 ∨ kind = 2) : lanePlaced (onEx single) single 0xC2 4 kind 0x20000#64 target j := by
  rcases h with rfl | rfl <;> exact ⟨rfl, by decide, by decide, by decide⟩
theorem witness_GlobalStore_remote : exOf (onPeer single) = some single ∧ runs (onPeer single) single (.stg 2#8 0xC2#8 4#3 0#5) = true ∧
    translate (onPeer single) 0 0 0x20000#64 2 = .ok peerTarget ∧ ruleOf single ≠ 4 ∧
    (single.lanes.map fun _ => homeKey (onPeer single) peerTarget / 4).Nodup := by decide
theorem witness_Atomic : here single (.atomCas 2#8 0x61#7 0#1 0xC4#8) ∧
    atomicFields (.atomCas 2#8 0x61#7 0#1 0xC4#8) = some (.cas, 2#8, 0x61#7, 0#1, 0xC4#8) := by decide
theorem witness_Atomic_add : here single (.atomAdd 2#8 0x61#7 0#1 0xC4#8) ∧
    (∀ j ∈ single.lanes, lanePlaced (onEx single) single (2 * (0x61#7).toNat) 4 2 (operand64 single false (2 * (0x61#7).toNat) j).1 target j ∧
      target.tier < 2 ∧ 0xFF00#16 ∉ (atomArg single .add false 0xC4 j).tags) ∧
    (∀ j ∈ single.lanes, ∀ k ∈ single.lanes, target.pa = target.pa → j = k) ∧ takesTags (onEx single).mem target.pa ∧
    mapGet 0 (onEx single).mem.poolUsed (stackOf target.pa) + 128 ≤ poolSize (stackOf target.pa) := by
  refine ⟨by decide, fun j _ => ⟨placed_single j 2 (.inr rfl), by decide, ?_⟩, by decide, takesTags_onEx _ _, by decide⟩
  change 0xFF00#16 ∉ (atomArg single .add false 0xC4 0).tags
  decide
theorem witness_FenceAndCache : here ex (.fence 3#2) ∧ released (onEx ex) ex (scopeOf ex) = true ∧ (onEx ex).mem.flights = [] ∧
    here addressed (.pref 1#2 0xC2#8 0#5) ∧ (∀ j ∈ addressed.lanes, anyPoison addressed 0xC2 j = false) ∧
    here addressed (.cctl 2#4 0xC2#8) ∧ mapWf ({} : L1Word) (onEx addressed).mem.l1 = true ∧ memoryWf (onEx addressed).mem.bytes = true ∧
    here ex (.waitn 0#6 63#6 62#6 0#6) ∧ ex.g.loads ≤ (0#6).toNat := by decide
theorem witness_FenceAndCache_owned :
    let s : State := { onEx addressed with mem := { tlb := [dataTlb], l1 := [(0x30000 / 4, { valid := true, owned := true })] } }
    (∀ x ∈ s.mem.l1, x.2.unreg = false ∧ (x.2.owned = true → x.2.valid = true)) ∧ (ownersOf s.mem 0x30000).length ≤ 1 ∧
      mapWf ({} : L1Word) s.mem.l1 = true := by decide
theorem witness_LockWord : here single (.lock 0xC2#8) ∧ lanePlaced (onEx single) single 0xC2 4 2 (operand64 single false 0xC2 0).1 target 0 ∧
    target.tier = 0 ∧ unstaged single ∧ stillMemory (onEx single) ∧ portFree (onEx single) single ∧ ∀ q ∈ (onEx single).mem.locks, q.pa ≠ target.pa :=
  ⟨by decide, placed_single 0 2 (.inr rfl), rfl, rfl, still_onEx _, portFree_onEx _, fun _ h => nomatch h⟩
/-- The small machine with the word at 0x30000 locked by the split's own group, no one waiting. -/
def lockedMachine : State := { onEx single with mem := { (onEx single).mem with locks := [⟨0x30000, 0, 0, 0, 0, [], none⟩] } }
theorem witness_LockWord_unlock : exOf lockedMachine = some single ∧ runs lockedMachine single (.unlock 0xC2#8) = true ∧
    lockedMachine.mem.locks.find? (fun q => q.pa = target.pa) = some ⟨0x30000, single.lch.ctx, single.tm.ordinal, single.g.gi, 0, [], none⟩ ∧
    released lockedMachine single (scopeOf single) = true := by decide
theorem witness_WaitCondition : here single (.waitc 0#3 0#1 0xC2#8 0xF0#8) ∧
    lanePlaced (onEx single) single 0xC2 4 1 (operand64 single false 0xC2 0).1 target 0 ∧ anyPoison single 0xF0 0 = false ∧ target.tier = 0 ∧
    (cellAt (onEx single) target 0).2 ≠ 0xFF00#16 ∧ intCondition 0#3 (homeCell (onEx single).mem target.pa).1.toNat 0 = true ∧
    portFree (onEx single) single :=
  ⟨by decide, placed_single 0 1 (.inl rfl), by decide, rfl, by decide, by decide, portFree_onEx _⟩
theorem witness_CaptureLoad : here ex (.tcap 0xC4#8 0xC2#8 15#4) ∧ (findCtx (onEx ex) ex.lch.ctx).isSome = true ∧ [0] ≠ [] ∧
    ¬(0xC0 ≤ (0xC4#8).toNat ∧ (0xC2#8).toNat < 0xC0 ∧ ex.lanes = []) ∧ unstaged ex ∧ stillMemory (onEx ex) ∧ portFree (onEx ex) ex :=
  ⟨by decide, by decide, by decide, by decide, rfl, still_onEx _, portFree_onEx _⟩
theorem witness_BarrierArrival : here ex (.barinit 15#4 1#1 63#6) ∧ ¬((barOf ex.tm 15).exp = 63 ∧ (barOf ex.tm 15).e = true) ∧
    (∀ c ∈ ex.tm.queue ++ ex.tm.running, c.bar ≠ 15) := by decide
/-- A team whose barrier 2 expects n arrivals. -/
def expecting (n : Nat) : Ex := { ex with tm := { bars := [(2, { exp := n })] } }
theorem witness_BarrierArrival_completes : here (expecting 1) (.arrivex 2#4 0xF0#8) ∧
    arrivalOf (expecting 1) (.arrivex 2#4 0xF0#8) = some (2, 0, true, true, none) ∧ arrivalPoison (expecting 1) (.arrivex 2#4 0xF0#8) = false ∧
    ¬((modGuard (expecting 1)).isSome ∨ ∃ h ∈ (expecting 1).tm.heldArr, h.gi = 0 ∧ h.bar = 2) ∧
    (∀ y ∈ (onEx (expecting 1)).splits, y.tid = 0 → y.park ≠ .regroup) := by decide
theorem witness_BarrierArrival_phase : phaseComplete { (barOf (expecting 1).tm 2) with arr := 1 } ∧
    ¬phaseComplete { (barOf (expecting 2).tm 2) with arr := 1 } := by unfold phaseComplete; decide
theorem witness_BarrierWait : here ex (.barwait 2#4 1#1 1#3) ∧ (barOf ex.tm 2).phase ≠ (1#1 = 1#1) ∧ here ex (.bartry 2#4 0#1 1#3) ∧
    here ex (.batch 0xF0#8) ∧ ex.g.batches.length < 16 ∧ here ex (.waitb 1#3 0xF0#8) ∧ ∀ b ∈ ex.g.batches, 0 < b.num := by decide
theorem witness_GuardAndStatus : here ex (.gset 7#3 0#2 0#3) ∧ here ex (.gset 7#3 1#2 1#3) ∧ guardOf ex.tm 7 = .unresolved ∧
    ex.lanes.head? = some 0 ∧ here ex (.xstat 0xC1#8 6#4 0#4) := by decide
theorem witness_GroupMeeting : here (expecting 1) (.regroup 2#4 17#8 0xFFE#12) ∧ ex.x.br = false ∧ ex.x.amask = ex.x.lset ∧ ex.x.stack = [] ∧
    ((onEx (expecting 1)).splits.filter fun y => y.tid = 0 && y.gi = 0).length = 1 ∧ (barOf (expecting 1).tm 2).exp ≠ 0 := by decide
/-- A COOP launch. -/
def coop : Ex := { ex with lch := { ex.lch with coop := true } }
theorem witness_GroupMeeting_grid : here coop .gridbar ∧ coop.lch.coop = true ∧ coop.x.granted = false ∧ released (onEx coop) coop 4 = true ∧
    coop.g.exited = false ∧ coop.lch.undisp = [] ∧ coop.lch.savedTeams = [] := by decide
theorem witness_CopyWord_leaderless : here ex (.xcopy 0xC4#8 1#5 1#1 1#3 2#4) ∧ ∀ j ∈ ex.lanes, predBit ex.g 1 j = false := by decide
theorem witness_CollectiveWords_commq : here ex (.commq 0xC1#8 0xC2#8 6#4) ∧ (sreg ex.g 2).2 ≠ 0xFF00#16 ∧
    (sreg ex.g 2).1 &&& 0xFC00F000#32 = 0#32 := by decide
theorem witness_MatrixStart : here (withS ex [(3, 0x40000000#32)]) (.tdesc 15#4 0xC2#8) ∧ tileOk 0x4000000000000000 = true ∧
    tileBounds ex.lch.hdr 0x4000000000000000 = none ∧ (operand64 (withS ex [(3, 0x40000000#32)]) false 0xC2 0).1 = 0x4000000000000000 ∧
    here addressed (.mstart 0xC2#8 0xF0#8) ∧ (0x20000#64).toNat % 4 = 0 ∧ addressed.tm.seqState = .idle := by decide
/-- A split with an XFILL record of one word of LS at 0x20000, p1 true and barrier 2 in use. -/
def filler : Ex := { addressed with g := { addressed.g with preds := [(1, 1#64)] }, tm := { bars := [(2, { exp := 1 })] } }
def fillBytes : Memory := [(0x3000E, 4#8), (0x3000F, 1#8), (0x30010, 1#8), (0x30020, 8#8), (0x30024, 4#8), (0x30029, 1#8)]
def fillMachine : State := { onEx filler with mem := { bytes := fillBytes, tlb := [dataTlb] } }
def fillRecord : List Byte :=
  List.replicate 14 0#8 ++ [4, 1, 1] ++ List.replicate 15 0#8 ++ [8, 0, 0, 0, 4, 0, 0, 0, 0, 1] ++ List.replicate 214 0#8
theorem witness_CopyWord : exOf fillMachine = some filler ∧ runs fillMachine filler (.xfill 0xC4#8 1#5 1#3 2#4) = true ∧
    filler.lanes.find? (fun j => predBit filler.g 1 j) = some 0 ∧ lanePlaced fillMachine filler 0xC2 256 1 0x20000#64 target 0 ∧
    stillMemory fillMachine ∧ released fillMachine filler 4 = true ∧
    fillRecord = ((List.range 64).flatMap fun n => bytesOf 4 (cellAt fillMachine target n).1.toNat) ∧ copyRegs .fill fillRecord = 2 ∧
    (∀ m, m < 3 → (cellAt fillMachine target m).2 ≠ 0xFF00#16) ∧ regsIn filler.lch.hdr 0xC4 2 = true ∧
    copyMalformed (makeCmd filler .fill true fillRecord [0#32, 7#32] 2) = false ∧ (barOf filler.tm 2).exp ≠ 0 ∧
    copyBoundsCheck filler.lch.hdr (makeCmd filler .fill true fillRecord [0#32, 7#32] 2) = none := by
  refine ⟨by decide, by decide, by decide, ⟨rfl, by decide, by decide, by decide⟩, ⟨rfl, rfl, rfl, rfl⟩, ?_⟩
  decide +kernel
/-- A communicator of two devices, this one its rank 0. -/
def pair : Comm := { handle := 5, ctx := 0, nmem := 2, rank := 0, cls := 0, logc := 12, seqr := 0, key := 9#64, members := [0, 1], activeSlot := true }
def joined : Ex := { withS ex [(2, 5#32)] with tm := { bars := [(2, { exp := 2 })] } }
def collMachine : State := { onEx joined with comms := [pair] }
theorem witness_CollectiveWords : exOf collMachine = some joined ∧ runs collMachine joined (.coll 0#3 2#4 0#4 2#6 0#3 0#3 0#1) = true ∧
    notAlone collMachine joined = false ∧ (sreg joined.g 2).2 ≠ 0xFF00#16 ∧
    collCheck collMachine joined (wordOf (.coll 0#3 2#4 0#4 2#6 0#3 0#3 0#1)) 2 0 (sreg joined.g 2).1 = none ∧
    joined.tm.gathers = [] ∧ collMachine.colls = [] ∧ commIn collMachine 0 5 = some pair ∧ findComm collMachine 5 = some pair ∧
    (∀ g ∈ collMachine.groups, g.tid = 0 → g.exited = false → g.gi ∈ [joined.g.gi]) ∧ collsOf collMachine 5 = [] ∧ 2 ≤ pair.nmem := by decide
theorem witness_CollectiveWords_waits :
    let s : State := { collMachine with groups := [joined.g, { joined.g with gi := 1 }] }
    exOf s = some joined ∧ (∃ g ∈ s.groups, g.tid = 0 ∧ g.exited = false ∧ g.gi ∉ [joined.g.gi]) := by decide
/-- A team whose sequencer runs, with a format block for E4M3 at LS 0 and a tile in each buffer. -/
def streamTeam : Team :=
  { seqState := .running, seqPc := 0x10000#64, shadow := some ⟨0x1001000080000000#64, [3#8]⟩, active := some ⟨0x1001000080000000#64, [3#8]⟩
    tiles := [(0, 0x4000000000000000#64), (1, 0x1001000080000000#64), (2, 0x2000200100000000#64), (3, 0x3000200100000000#64)]
    ls := [(0, (3#32, 0#16)), (2, (3#32, 0#16)), (4, (0x00000707#32, 0#16)), (6, (0xFFFFFFFF#32, 0#16)), (7, (0xFB000000#32, 0#16))] }
def streamEx : Ex := { ex with tm := streamTeam }
def onStream : State := { onEx streamEx with cur := .stream 0 }
def sx : Sx := ⟨streamEx.lch, streamTeam⟩
/-- The stream of sx may run word i. -/
abbrev streams (i : Instr) : Prop := onStream.cur = .stream sx.tm.tid ∧ sxOf onStream sx.tm.tid = some sx ∧ streamRuns onStream sx i = true
theorem witness_PrefixAndNop_stream : streams (.imm 0#24) ∧ streams (.hint 0#5 0#1 0#1 0#1 0#1) ∧ streams .nop := by decide
theorem witness_PrefixAndNop_illegal : prefixIllegal 0x02001C00#32 ∧ prefixIllegal 0x02000008#32 ∧ prefixIllegal 0x03000001#32 := by
  unfold prefixIllegal; decide
theorem witness_MatrixPost : streams (.mldw 1#4 0#4) ∧ sx.tm.posted.length < 4 ∧ sx.tm.repost = [] ∧ postedOn onStream (quadOf sx.tm.core) < 16 ∧
    (mldwCheck sx 1 0).isOk = true ∧ streams .mswap ∧ sx.tm.shadow.isSome = true ∧ streams (.mzero 3#4) ∧ tileOf sx.tm 3 ≠ 0#64 ∧
    tileSpace (tileOf sx.tm 3) = 3 := by decide
theorem witness_MatrixPost_mma : streams (.mmaM32 2#4 3#4 0#4 0#2 1#1 0#3 0#3) ∧ (mmaCheck sx 32 2 3 0 0 true 0 0).isOk = true := by decide
theorem witness_MatrixPost_mdrain : streams (.mdrain 2#4 3#4 0#4 0#2 0#1 0#3 0#3) ∧ (mdrainCheck sx 2 3 0 32 false 0 0).isOk = true := by decide
theorem witness_StreamControl : streams (.mwait 2#4 1#1 0#1 0#3) ∧ (barOf sx.tm 2).phase ≠ (1#1 = 1#1) ∧ streams (.maddi 7#3 1#1 0x8000#16) ∧
    streams (.mloop 7#3 0xFFFF#16) ∧ streams (.mguard 2#3 0#1) ∧ streams .mend ∧ (∃ g ∈ onStream.groups, g.tid = 0 ∧ g.exited = false) := by
  decide
theorem witness_StreamControl_marrive :
    let x : Sx := ⟨ex.lch, { streamTeam with bars := [(2, { exp := 1 })] }⟩
    let s : State := { onStream with teams := [x.tm] }
    sxOf s 0 = some x ∧ streamRuns s x (.marrive 2#4) = true ∧ x.tm.posted = [] ∧ (barOf x.tm 2).arr < (barOf x.tm 2).exp ∧
      ∀ y ∈ s.splits, y.tid = 0 → y.park ≠ .regroup := by decide
theorem witness_ReturnFromException : here handling .rfe ∧ handling.g.hs.isSome = true ∧ handling.g.tpc.toNat % 4 = 0 ∧ handling.g.held = [] := by
  decide
theorem witness_TrapsEnterTheHandler : here ex (.trap 0#1 0#3 0xFFFF#16) ∧ (ex.lanes.filter fun j => predBit ex.g 0 j != false) ≠ [] ∧
    ex.lch.hdr.trap = some 0x100 ∧ ex.g.hs = none ∧ here ex (.bkpt 1#16) ∧ issues (onEx ex) ex (.reservedOpcode 0x58000000#32) = true ∧
    (Instr.reservedOpcode 0x58000000#32).wellFormed = true := by decide
theorem witness_TrapsEnterTheHandler_noEntry :
    let e : Ex := { ex with lch := { ex.lch with hdr := { ex.lch.hdr with trap := none } } }
    here e (.bkpt 1#16) ∧ e.lch.hdr.trap = none ∧ ((findCtx (onEx e) 0).map fun c => c.fault) = some none := by decide

/-! ## Witnesses of the statements about events -/

/-- Page tables at 0x30000 that map 0x20000 to the host's page 5 and 0x30000 to this device's page 4. -/
def tables : Memory :=
  [(0x30000, 0x01#8), (0x30001, 0x10#8), (0x30002, 0x03#8), (0x31000, 0x01#8), (0x31001, 0x20#8), (0x31002, 0x03#8), (0x32000, 0x01#8),
   (0x32001, 0x30#8), (0x32002, 0x03#8), (0x33010, 0x1F#8), (0x33011, 0x01#8), (0x33012, 0x05#8), (0x33018, 0x1F#8), (0x3301A, 0x04#8)]

/-- The small machine with these tables and a trace ring at 0x20000. -/
def tabled : State :=
  { onEx ex with
    mem := { bytes := tables, hostMem := [(0x50006, 0x82#8)], ats := [(0, 5)], tlb := [dataTlb] }
    ctxs := [{ num := 0, root := 0x30000#64, trace := 0x20000#64 }] }

theorem still_tabled : stillMemory tabled := ⟨rfl, rfl, rfl, rfl⟩

theorem walks_tabled : ∀ n, n < 32 → ∀ kind, kind = 1 ∨ kind = 2 →
    translateNow tabled 0 0 (0x20000#64 + BitVec.ofNat 64 (4 * n)) kind = .ok ⟨0x50000 + 4 * n, 2, 0, false, false, false⟩ := by
  have h : ∀ n, n < 32 → ∀ kind, kind < 3 → kind ≠ 0 →
      translateNow tabled 0 0 (0x20000#64 + BitVec.ofNat 64 (4 * n)) kind = .ok ⟨0x50000 + 4 * n, 2, 0, false, false, false⟩ := by decide
  intro n hn kind hk
  exact h n hn kind (by omega) (by omega)

theorem trace_tabled (c : Ctx) (hc : c = { num := 0, root := 0x30000#64, trace := 0x20000#64 }) (type : Nat) (h : type = 1 ∨ type = 7) :
    tracePlace tabled c 0x50000 0 0 type := by
  subst hc
  refine ⟨by decide, by decide, by decide, by decide, fun k kind hk h4 hkind => ?_, by decide, ?_, by decide, by decide⟩
  · obtain ⟨n, rfl⟩ : ∃ n, k = 4 * n := ⟨k / 4, by omega⟩
    exact ⟨_, walks_tabled n (by omega) kind hkind, rfl, rfl⟩
  · rcases h with rfl | rfl <;> decide

theorem witness_RepliesAndPackets :
    let f : Flight := { id := 7, kind := .load, tid := 0, gi := 0, rank := 0, pc := 0#64, scalars := [], cells := [(64, (5#32, 0#16))]
                        events := [], regs := [1], counter := some 0, isRemote := false, acquire := true }
    let s : State := { onEx ex with mem := { flights := [f] } }
    (s.mem.flights.find? fun q => q.id = 7) = some f ∧ findTeam s f.tid = some ex.tm ∧ findGroup s f.tid f.gi = some ex.g ∧
      ex.g.exited = false ∧ f.replay = false ∧ f.unreg = [] ∧ f.fills = [] ∧ (f.cells.map fun c => c.1).Nodup := by decide
theorem witness_RepliesAndPackets_store :
    let f : Flight := { id := 7, kind := .store, tid := 0, gi := 0, rank := 0, pc := 0#64, scalars := [], cells := [], events := [], regs := []
                        counter := some 1, isRemote := false, acquire := false, unreg := [(0, 0x30000)] }
    let s : State := { onEx ex with mem := { flights := [f], l1 := [(0x30000 / 4, { valid := true, owned := true, unreg := true })] } }
    (s.mem.flights.find? fun q => q.id = 7) = some f ∧ f.kind = .store ∧ s.mem.monitors = [] ∧ mapWf ({} : L1Word) s.mem.l1 = true ∧
      (∀ w ∈ f.unreg, w.1 = ex.tm.core ∧ w.2 % 4 = 0 ∧ w.2 < 2 ^ 50 ∧ (l1Get s.mem w.1 w.2).owned = true) := by decide
theorem witness_RepliesAndPackets_sync :
    let s : State := { tabled with groups := [{ ex.g with packets := 256 }] }
    splitsOf s 0 0 = [ex.x] ∧ exAt s 0 0 0 = some { ex with g := { ex.g with packets := 256 } } ∧ ex.x.brBits = [] ∧ stillMemory s ∧
      tracePlace s { num := 0, root := 0x30000#64, trace := 0x20000#64 } 0x50000 0 0 7 :=
  ⟨by decide, by decide, rfl, still_tabled, trace_tabled _ rfl 7 (.inr rfl)⟩
theorem witness_RepliesAndPackets_branch :
    let s : State := { tabled with splits := [{ ex.x with brBits := List.replicate 64 true }] }
    (exAt s 0 0 0).isSome = true ∧ (List.replicate 64 true).length = 64 ∧ stillMemory s ∧
      tracePlace s { num := 0, root := 0x30000#64, trace := 0x20000#64 } 0x50000 0 0 1 :=
  ⟨by decide, by decide, still_tabled, trace_tabled _ rfl 1 (.inl rfl)⟩

def walker : Walk := { id := 7, ctx := 0, page := 2, va := 0x20000#64, kind := 1, who := .split 0 0 0, lanes := 1#64, core := 0 }
theorem witness_Translations_walk :
    let s : State := { tabled with mem := { tabled.mem with walks := [walker], tlb := [] } }
    (s.mem.walks.find? fun q => q.id = 7 && walking s.mem q) = some walker ∧ (findCtx s 0).isSome = true ∧ stillMemory s ∧
      s.mem.walks.filter (fun q => q.ctx = walker.ctx && q.page = walker.page && dieOf q.core = dieOf walker.core) = [walker] ∧
      (s.mem.tlb.filter fun q => q.core = some walker.core && q.die = dieOf walker.core).length < 128 ∧ walkVa s 0x30000#64 walker.va = .leaf 0x5011F#64 3 ∧ waitsNoMore s { s.mem with walks := [] } walker.who := by
  refine ⟨by decide, by decide, ⟨rfl, rfl, rfl, rfl⟩, by decide, by decide, by decide, by unfold waitsNoMore; decide⟩
theorem witness_Translations_walk_fails :
    let w : Walk := { walker with page := 4, va := 0x40000#64 }
    let s : State := { tabled with mem := { tabled.mem with walks := [w], tlb := [] } }
    (s.mem.walks.find? fun q => q.id = 7 && walking s.mem q) = some w ∧ walkVa s 0x30000#64 w.va = .fail 0x21#8 3 ∧ s.mem.faults = [] := by decide
def faultOf (who : Requester) : FaultRec := ⟨7, 0, 0, 0, 0x40000#64, 1, 3, 1#64, 0, 0, 0x21#8, [⟨who, 1#64, 0x40000#64⟩]⟩
theorem witness_Translations_service :
    let s : State := { tabled with mem := { tabled.mem with faults := [faultOf (.split 0 0 0)] } }
    (s.mem.faults.find? fun q => q.id = 7) = some (faultOf (.split 0 0 0)) ∧ (faultOf (.split 0 0 0)).asks = [⟨.split 0 0 0, 1#64, 0x40000#64⟩] ∧
      waitsNoMore s { s.mem with faults := [] } (.split 0 0 0) ∧ inRegion s 0x33020 = true ∧ stillMemory s ∧
      roomy s.mem [(0x33020, (0x4001F#32, 0#16)), (0x33024, (0#32, 0#16))] := by
  refine ⟨by decide, by decide, by unfold waitsNoMore; decide, by decide, ⟨rfl, rfl, rfl, rfl⟩, ?_⟩
  intro w h
  simp only [List.mem_cons, List.not_mem_nil, or_false] at h
  rcases h with rfl | rfl <;> exact ⟨.inr (by decide), by decide⟩
theorem witness_Translations_ring :
    let s : State := { tabled with mem := { tabled.mem with faults := [faultOf (.ring 3)] }, rings := [{ idx := 3 }] }
    (s.mem.faults.find? fun q => q.id = 7) = some (faultOf (.ring 3)) := by decide
theorem witness_Translations_ats :
    let q : AtsReq := ⟨5, false, .split 0 0 0, 0, 0, 0x20000#64, 1#64⟩
    let s : State := { tabled with mem := { tabled.mem with atsReqs := [q] } }
    (s.mem.atsReqs.filter fun k => k.page = 5 && dieOf k.core = 0 && k.pri = false) = [q] ∧ waitsNoMore s { s.mem with atsReqs := [] } q.who ∧
      (s.mem.faults = []) := by
  refine ⟨by decide, by unfold waitsNoMore; decide, rfl⟩
theorem witness_Translations_recheck :
    let q : Monitor := ⟨0x50000, 0, false, 0#32, .split 0 0 0⟩
    let s : State := { tabled with mem := { tabled.mem with rechecks := [q] } }
    (s.mem.rechecks.find? fun k => k.waiter = .split 0 0 0) = some q ∧ stillMemory s ∧ stagedLine s.mem 0 (q.pa / 64) = none ∧ q.cond < 8 :=
  ⟨by decide, ⟨rfl, rfl, rfl, rfl⟩, by decide, by decide⟩

theorem witness_OutsideAccess_write :
    let s := onEx ex
    stillMemory s ∧ ∀ x, 0x30003 ≤ x → x < 0x30003 + 2 → inRegion s (x / 4 * 4) = true ∧ takesTags s.mem x ∧
      mapGet 0 s.mem.poolUsed (stackOf (x / 4 * 4)) + 2 ≤ poolSize (stackOf (x / 4 * 4)) := by
  refine ⟨⟨rfl, rfl, rfl, rfl⟩, fun x h1 h2 => ?_⟩
  have h : x = 0x30003 ∨ x = 0x30004 := by omega
  rcases h with rfl | rfl <;> exact ⟨by decide, .inr (by decide), by decide⟩
theorem witness_OutsideAccess :
    let s := onEx ex
    stillMemory s ∧ (∀ k, k < 8 → inRegion s (0x30000 + k) = true ∧ inRegion s ((0x30000 + k) / 4 * 4) = true) ∧
      takesTags s.mem 0x30000 ∧ mapGet 0 s.mem.poolUsed (stackOf 0x30000) + 2 ≤ poolSize (stackOf 0x30000) ∧
      remoteOp 0xBA = some .cas ∧ inRegion s (2 ^ 47) = false :=
  ⟨⟨rfl, rfl, rfl, rfl⟩, by decide, .inr (by decide), by decide, by decide, by decide⟩

/-- Ring 3 of context 0 at 0x30000, in the page of this device, with one command. -/
def ring3 : Ring := { idx := 3, base := 0x30000#64, tail := 1#32, slot := some 0 }
def ringMachine (cmd : Memory) : State := { tabled with mem := { tabled.mem with bytes := tables ++ cmd }, rings := [ring3] }
/-- The context of the tables. -/
def ctx0 : Ctx := { num := 0, root := 0x30000#64, trace := 0x20000#64 }
theorem still_ring (cmd : Memory) : stillMemory (ringMachine cmd) := ⟨rfl, rfl, rfl, rfl⟩
theorem witness_RingCommands_fence :
    ringAt (ringMachine [(0x40000, 5#8)]) 3 = .cmd ring3 ctx0 .fence ∧ ring3.begun = [] ∧ stillMemory (ringMachine [(0x40000, 5#8)]) :=
  ⟨by decide +kernel, rfl, still_ring _⟩
theorem witness_RingCommands_signal :
    let s := ringMachine [(0x40000, 4#8), (0x40004, 9#8), (0x40009, 1#8), (0x4000A, 3#8)]
    ringAt s 3 = .cmd ring3 ctx0 (.signal 9#32 0x30100#64) ∧ translateNow s 0 0 0x30100#64 2 = .ok ⟨0x40100, 0, 0, false, false, false⟩ ∧
      stillMemory s ∧ roomy s.mem [(0x40100, (9#32, 0#16))] := by
  refine ⟨by decide +kernel, by decide, still_ring _, fun w h => ?_⟩
  simp only [List.mem_cons, List.not_mem_nil, or_false] at h
  subst h
  exact ⟨.inr (by decide), by decide⟩
theorem witness_RingCommands_wait :
    let s := ringMachine [(0x40000, 3#8), (0x40009, 1#8), (0x4000A, 3#8)]
    ringAt s 3 = .cmd ring3 ctx0 (.wait 0 false 0#32 0x30100#64) ∧
      ringWord s 0 0x30100#64 = .ok (⟨0x40100, 0, 0, false, false, false⟩, (0#32, 0xFF02#16)) ∧ condHolds 0 false 0#32 0#32 = true ∧
      condHolds 0 false 0#32 1#32 = false ∧ stillMemory s :=
  ⟨by decide +kernel, by decide +kernel, by decide, by decide, still_ring _⟩
theorem witness_RingCommands_map :
    let s : State := { tabled with rings := [{ ring3 with slot := none }] }
    findRing s 3 = some { ring3 with slot := none } ∧ mapEligible s { ring3 with slot := none } = true ∧
      (∀ k ∈ s.rings, k.slot = none → mapEligible s k = true → k.idx ≠ 3 → k.cls > 1) ∧ (∀ k ∈ s.rings, k.cls ≤ 2 ∧ k.mapped < 2 ^ 64) ∧
      ∀ k ∈ s.rings, k.slot ≠ some 31 := by decide
/-- A group that fits somewhere is placed, whatever the free choice. -/
theorem placed_one (s : State) (h : Header) (sh : Bool) (tk : List Taken) (hc : (upTo 4).filterMap (placePair tk h sh) ≠ []) :
    (placeGroups s h sh 1 tk).isSome = true := by
  have hl : 0 < ((upTo 4).filterMap (placePair tk h sh)).length := List.length_pos_iff.mpr hc
  simp only [placeGroups, if_neg (Nat.ne_of_gt hl), List.getElem?_eq_getElem (Nat.mod_lt (Config.choice s.fresh) hl), Option.isSome_some]
theorem stores_empty (s : State) (core : Nat) (h : s.teams = []) : storesFit s core {} = true := by
  simp only [storesFit, storeUsed, h, List.filter_nil, List.map_nil, List.foldl_nil]
  decide
theorem fits_one (s : State) (l : Launch) (core : Nat) (h1 : coreOpen s l core = true) (h2 : imageFits s l = true)
    (h3 : storesFit s core l.hdr = true) (h4 : l.hdr.groups = 1)
    (hc : (upTo 4).filterMap (placePair (takenOn s core) l.hdr l.shadow) ≠ []) : (fitsOn s l core).isSome = true := by
  unfold fitsOn
  rw [h1, h2, h3, h4]
  exact placed_one _ _ _ _ hc
/-- A descriptor at 0x30200 of one team, its header at 0x30100, and a ring command of a kind that launches it. -/
def launchBytes (kind : Byte) : Memory :=
  [(0x40000, kind), (0x40011, 2#8), (0x40012, 3#8), (0x40100, 0x4D#8), (0x40101, 0x4B#8), (0x40102, 0x48#8), (0x40103, 0x52#8),
   (0x40108, 0xFF#8), (0x40109, 0xFF#8), (0x4010A, 0xFF#8), (0x4010B, 0xFF#8), (0x40110, 8#8), (0x40111, 1#8), (0x40112, 1#8), (0x40113, 1#8),
   (0x40114, 1#8), (0x40209, 1#8), (0x4020A, 3#8), (0x40220, 1#8), (0x40224, 1#8), (0x40228, 1#8), (0x4022C, 1#8), (0x4022D, 1#8)]
def launchArgs : LaunchArgs := ⟨false, 0#32, 0#64, 0x30200#64, 0#64⟩
/-- A launch of a descriptor of zeros, whatever its code object's identifier. -/
def plainLaunch (c : Word) : Launch := { codeObj := c }
theorem plain_of (r : DevRes (Option Launch))
    (h : (match r with | .ok (some l) => decide ({ l with codeObj := 0#32 } = plainLaunch 0#32) | _ => false) = true) :
    ∃ c, r = .ok (some (plainLaunch c)) := by
  match r, h with
  | .ok (some l), h => exact ⟨l.codeObj, by
      have h := of_decide_eq_true h
      have e : l = { ({ l with codeObj := 0#32 } : Launch) with codeObj := l.codeObj } := rfl
      rw [h] at e
      rw [e]
      rfl⟩
theorem early_zero (s : State) (l : Launch) (h1 : l.shadow = false) (h2 : l.coop = false)
    (h : (fitsOn { s with teams := [], groups := [], splits := [] } { l with cw := 1, ch := 1 } 0).isSome = true) : earlyStatus s l = 0 := by
  have ha : ((upTo 192).any fun c => (fitsOn { s with teams := [], groups := [], splits := [] } { l with cw := 1, ch := 1 } c).isSome) = true :=
    List.any_eq_true.mpr ⟨0, mem_upTo.mpr (by decide), h⟩
  unfold earlyStatus
  simp only [ha]
  simp only [h1, h2]
  rfl
theorem begins_launch (kind : Byte) (c : Word) : begins (ringMachine (launchBytes kind)) ring3 launchArgs (plainLaunch c) := by
  refine ⟨rfl, fun _ h => (nomatch h), rfl, fun u hu => ?_⟩
  unfold readsOf at hu
  have hd : u.dev = tabled.dev := by rw [hu]; rfl
  have ho : coreOpen { u with teams := [], groups := [], splits := [] }
      { begunLaunch (ringMachine (launchBytes kind)) ring3 launchArgs (plainLaunch c) with cw := 1, ch := 1 } 0 = true := by
    unfold coreOpen
    simp only [hd]
    rfl
  have hf : (fitsOn { u with teams := [], groups := [], splits := [] }
      { begunLaunch (ringMachine (launchBytes kind)) ring3 launchArgs (plainLaunch c) with cw := 1, ch := 1 } 0).isSome = true := by
    refine fits_one _ _ 0 ho rfl (stores_empty _ 0 rfl) rfl ?_
    change (upTo 4).filterMap (placePair [] {} false) ≠ []
    decide
  exact early_zero _ _ rfl rfl hf
theorem witness_RingCommands_launch :
    let s := ringMachine (launchBytes 1#8)
    ringAt s 3 = .cmd ring3 ctx0 (.launch launchArgs) ∧ stillMemory s ∧
      ∃ l, readLaunch s 0 0x30200#64 = .ok (some l) ∧ begins s ring3 launchArgs l := by
  obtain ⟨c, hc⟩ := plain_of (readLaunch (ringMachine (launchBytes 1#8)) 0 0x30200#64) (by decide +kernel)
  exact ⟨by decide +kernel, still_ring _, _, hc, begins_launch _ c⟩
/-- A machine of no team with one launch of one team that may be dispatched. -/
def waitingLaunch : Launch := { id := 4, undisp := [0] }
def dispatchMachine : State := { tabled with launches := [waitingLaunch], teams := [], groups := [], splits := [] }
theorem witness_LaunchesAndContracts_dispatch :
    ∃ ps s1, findLaunch dispatchMachine 4 = some waitingLaunch ∧ waitingLaunch.undisp = 0 :: [] ∧ waitingLaunch.coop = false ∧
      waitingLaunch.cw = 1 ∧ waitingLaunch.ch = 1 ∧ dispatchable dispatchMachine waitingLaunch = true ∧
      itsTurn dispatchMachine waitingLaunch = true ∧ fitsOn dispatchMachine waitingLaunch 0 = some (ps, s1) := by
  have h : (fitsOn dispatchMachine waitingLaunch 0).isSome = true :=
    fits_one _ _ 0 (by decide) rfl (stores_empty _ 0 rfl) rfl (by decide)
  obtain ⟨p, hp⟩ := Option.isSome_iff_exists.mp h
  exact ⟨p.1, p.2, by decide, rfl, rfl, rfl, rfl, by decide, by decide, hp⟩
/-- The same with every core fenced, so that nothing can be placed. -/
theorem witness_LaunchesAndContracts_starved :
    let s : State := { dispatchMachine with dev := { dispatchMachine.dev with fencedCores := upTo 192 } }
    findLaunch s 4 = some waitingLaunch ∧ wantsCore s waitingLaunch = true ∧ nextFits s waitingLaunch = false := by decide +kernel
theorem witness_LaunchesAndContracts_gridRule :
    let u : Team := { tid := 9, launch := 4 }
    let s : State :=
      { dispatchMachine with
        dev := { dispatchMachine.dev with fencedCores := upTo 192 }
        teams := [u], groups := [{ tid := 9 }], splits := [{ ex.x with tid := 9, st := .parked, park := .lock }] }
    findLaunch s 4 = some waitingLaunch ∧ waitingLaunch.undisp ≠ [] ∧ canPlace s waitingLaunch = false ∧ u ∈ s.teams ∧ u.launch = 4 ∧
      u.stopping = false ∧ u.retired = false ∧ gridParked s u = true := by decide +kernel
/-- A span of the page that the tables map to the host. -/
theorem inHost_tables (s : State) (h : ∀ n, n < 32 →
    translateNow s 0 0 (0x20000#64 + BitVec.ofNat 64 (4 * n)) 2 = .ok ⟨0x50000 + 4 * n, 2, 0, false, false, false⟩) (n : Nat) (hn : n ≤ 128) :
    inHost s 0 0x20000#64 n 0x50000 := by
  refine ⟨by decide, fun k hk h4 => ?_⟩
  obtain ⟨m, rfl⟩ : ∃ m, k = 4 * m := ⟨k / 4, by omega⟩
  exact ⟨_, h m (by omega), rfl, rfl⟩
theorem witness_LaunchesAndContracts_completion :
    let l : Launch := { id := 4, crec := 0x20000#64, cword := 0x20040#64 }
    let s : State := { dispatchMachine with launches := [l] }
    findLaunch s 4 = some l ∧ l.complete = false ∧ l.recDone = false ∧ acknowledged s 0 ∧ teamsOver s l = true ∧ ctxLive s 0 = true ∧
      inHost s 0 l.crec 64 0x50000 ∧
      translateNow s 0 0 l.cword 2 = .ok ⟨0x50040, 2, 0, false, false, false⟩ ∧ stillMemory s ∧ 0x50000 + 64 ≤ 0x50040 :=
  ⟨by decide, rfl, rfl, fun _ h => (nomatch h), by decide, by decide, inHost_tables _ (by decide) 64 (by decide), by decide,
    ⟨rfl, rfl, rfl, rfl⟩, by decide⟩
theorem witness_LaunchesAndContracts_commit :
    let l : Launch := { id := 4, node := true, replayable := true }
    let g : Staged := ⟨4, 0x1000, List.replicate 16 (7#32, 0#16)⟩
    let s : State := { dispatchMachine with launches := [l], mem := { tabled.mem with staged := [g] } }
    findLaunch s 4 = some l ∧ teamsOver s l = true ∧ ctxLive s 0 = true ∧ (s.mem.staged.filter fun g => g.launch = l.id) = [g] ∧
      g.words.length = 16 ∧ stillMemory s ∧ (∀ q ∈ s.mem.locks, q.stage ≠ some l.id) ∧
      roomy s.mem ((upTo 16).map fun k => (64 * g.line + 4 * k, g.words.getD k (0#32, 0#16))) := by
  refine ⟨by decide, by decide, by decide, by decide, by decide, ⟨rfl, rfl, rfl, rfl⟩, fun _ h => (nomatch h), fun w _ => ⟨.inr ?_, ?_⟩⟩
  · change (0xFF02#16 : BitVec 16) ≠ 0xFF01#16
    decide
  · rename_i h
    obtain ⟨k, _, rfl⟩ := List.mem_map.mp h
    change 0 + 16 ≤ poolSize _
    unfold poolSize
    split <;> decide
theorem witness_LaunchesAndContracts_rollback :
    let l : Launch := { id := 4, rollback := some {} }
    let s : State := { dispatchMachine with launches := [l] }
    findLaunch s 4 = some l ∧ l.rollback = some {} ∧ ctxLive s l.ctx = true ∧ nothingToRepost s (fun u => u.launch = l.id) :=
  ⟨by decide, rfl, by decide, fun _ h => (nomatch h)⟩
theorem witness_LaunchesAndContracts_contract :
    let c : Contract := { num := 1, ring := 3, p := 9, c := 1, d := 8, part := 0 }
    let s : State := { tabled with rings := [{ ring3 with slot := none }], contracts := [c] }
    findContract s 1 = some c ∧ (s.contracts.filter fun k => k.num = c.num) = [c] ∧ c.gone = false ∧ c.running = none ∧ c.released = false ∧
      (s.rings.filter fun q => q.pinned).length < 24 ∧ (∀ k ∈ s.rings, k.idx = 3 → k.slot = none) := by decide
theorem witness_LaunchesAndContracts_overrun :
    let c : Contract := { num := 1, ring := 3, p := 9, c := 1, d := 8, part := 0, running := some 4 }
    let l : Launch := { id := 4, rt := true }
    let s : State := { tabled with contracts := [c], launches := [l] }
    findContract s 1 = some c ∧ c.running = some 4 ∧ findLaunch s 4 = some l ∧ l.rt = true := by decide

theorem witness_SavesAndFaults_request :
    let u : Team := { retWords := 10 }
    let l : Launch := { hint := 20 }
    let s : State := { tabled with teams := [u], launches := [l] }
    findTeam s 0 = some u ∧ findLaunch s u.launch = some l ∧ l.coop = false ∧ u.retired = false ∧ u.stopping = false := by decide
theorem witness_SavesAndFaults_deadline :
    let u : Team := { drain := true }
    let s : State := { tabled with teams := [u] }
    findTeam s 0 = some u ∧ u.drain = true ∧ u.retired = false := by decide
theorem witness_SavesAndFaults_restore :
    let m : Image := { id := 7, ctx := 0, gen := 0, flags := 0, len := 0, base := none, team := { tid := 9, launch := 4 },
                       groups := [{ tid := 9 }], splits := [{ ex.x with tid := 9 }], flights := [] }
    let l : Launch := { id := 4, savedTeams := [7] }
    let s : State := { dispatchMachine with launches := [l], images := [m] }
    ∃ ps s1, (s.images.find? fun m => m.id = 7) = some m ∧ findLaunch s m.team.launch = some l ∧ mayRestore s l = true ∧
      nextImage s l m = true ∧ m.base = none ∧
      fitsOn s l 0 = some (ps, s1) ∧ m.groups.length = l.hdr.groups ∧ m.team.seqState = .idle ∧ m.team.seqPark = .none ∧
      (∀ g ∈ s.groups, g.gridArrived = false ∧ g.tid ≠ 9) := by
  intro m l s
  have h : (fitsOn s l 0).isSome = true := fits_one _ _ 0 (by decide) rfl (stores_empty _ 0 rfl) rfl (by decide)
  obtain ⟨p, hp⟩ := Option.isSome_iff_exists.mp h
  exact ⟨p.1, p.2, by decide, by decide, by decide, by decide +kernel, rfl, hp, rfl, rfl, rfl, fun _ h => (nomatch h)⟩
theorem witness_SavesAndFaults_contextFault :
    let f : CtxFault := { cause := 0x21#8 }
    let c : Ctx := { num := 0, root := 0x30000#64, fault := some f, dump := 0x20000#64, dumpLen := 4096 }
    let l : Launch := { id := 4 }
    let s : State := { dispatchMachine with ctxs := [c], launches := [l] }
    findCtx s 0 = some c ∧ c.fault = some f ∧ f.served = false ∧ s.launches.filter (fun k => k.ctx = c.num) = [l] ∧ l.complete = false ∧
      stillMemory s ∧ c.dumpPos = 0 ∧ 124 ≤ c.dumpLen ∧ inHost s c.num c.dump 124 0x50000 :=
  ⟨by decide, rfl, rfl, by decide, rfl, ⟨rfl, rfl, rfl, rfl⟩, rfl, by decide,
    inHost_tables _ (by decide) 124 (by decide)⟩
theorem witness_SavesAndFaults_errors :
    let s : State := { tabled with launches := [{ node := true, replayable := true }] }
    (findTeam s 0).isSome = true ∧ (findLaunch s 0).isSome = true ∧ ([0] : List Nat).Nodup ∧
      ¬((∀ c ∈ fencedBy { a := 191 }, c ∈ s.dev.fencedCores) ∧ (false = true → fencedBy { a := 191 } ≠ [] → 191 ∈ s.dev.fencedQuads)) ∧
      (∀ u ∈ s.teams, ¬(u.retired = false ∧ u.core ∈ fencedBy { a := 191 })) ∧ (s.teams.map fun k => k.tid).Nodup ∧ 35 < 36 := by decide

theorem witness_SavesAndFaults_health :
    let s : State := { tabled with dev := { tabled.dev with sramCorr := [(191, 1024)] } }
    mapWf (0 : Nat) s.dev.sramCorr = true ∧ (∀ e ∈ s.dev.sramCorr, e.1 ≠ 191 → e.2 ≤ 1024) ∧ 1024 < mapGet 0 s.dev.sramCorr 191 + 1 ∧
      191 ∉ s.dev.fencedCores ∧ (191, false) ∉ s.dev.fencing := by decide

theorem witness_HostRegisters_powerGood :
    State.reset.dev.ready = false ∧ State.reset.dev.err = false ∧ State.reset.dev.step = 1 ∧ loaded State.reset.dev = [] ∧
      ([] : List (Nat × DWord)).Nodup ∧ State.reset.dev.ready = false := by decide
theorem witness_HostRegisters_step2 :
    let d : Dev := { State.reset.dev with step := 2 }
    d.ready = false ∧ d.err = false ∧ ∀ f ∈ loaded d, signed d f := ⟨rfl, rfl, fun _ h => (nomatch h)⟩
theorem witness_HostRegisters_step2_revoked :
    let d : Dev := { State.reset.dev with step := 2, revoked := 0xF#4, bootPart := some [⟨[1#8], [2#8], 3⟩] }
    d.ready = false ∧ d.err = false ∧ ∃ f ∈ loaded d, ¬signed d f := by
  refine ⟨rfl, rfl, _, List.mem_singleton.mpr rfl, fun ⟨k, hk, h, _⟩ => ?_⟩
  revert k
  decide
theorem witness_HostRegisters_tail :
    let s : State := { tabled with rings := [ring3] }
    findRing s 3 = some ring3 ∧ 17#32 ≠ ring3.tail ∧ 2 ^ ring3.logn < (18#32 - ring3.tail).toNat ∧ ¬2 ^ ring3.logn < (16#32 - ring3.head).toNat := by
  decide
theorem witness_HostRegisters_window : (tabled.ctxs.map fun c => c.num).Nodup ∧ (∀ c ∈ tabled.ctxs, c.num < 64) ∧ 2 ≤ tabled.dev.step ∧
    tabled.dev.ready = true ∧ ∃ k, k < [0#8].length ∧ 0x1000 ≤ 0x10FF + k ∧ 0x10FF + k < 0x1100 := by
  refine ⟨by decide, by decide, by decide, rfl, 0, by decide⟩

/-- A mailbox request: the first bytes, and zeros up to 256. -/
def request (l : List Byte) : List Byte := l ++ List.replicate (256 - l.length) 0#8
/-- A machine whose mailbox holds a request, with DOORBELL rung. -/
def inMailbox (s : State) (l : List Byte) : State :=
  { s with dev := { s.dev with busy := true, request := l.zipIdx.map fun b => (b.2, b.1) } }
theorem area_get (l : List Byte) (n k : Nat) : mapGet 0#8 ((l.zipIdx n).map fun b => (b.2, b.1)) (n + k) = l.getD k 0#8 := by
  induction l generalizing n k with
  | nil => rfl
  | cons b l ih =>
    rcases k with _ | k
    · simp [mapGet]
    · have h := ih (n + 1) k
      rw [show n + 1 + k = n + (k + 1) by omega] at h
      simp only [List.zipIdx_cons, List.map_cons, mapGet, show ¬n = n + (k + 1) by omega, if_false, h, List.getD_cons_succ]
theorem upTo_get (n k : Nat) : (upTo n)[k]? = if k < n then some k else none := by
  induction n with
  | zero => rfl
  | succ n ih =>
    have hl : (upTo n).length = n := by
      clear ih
      induction n with
      | zero => rfl
      | succ n ih => simp [upTo, ih]
    simp only [upTo, List.getElem?_append, hl, ih]
    by_cases h1 : k < n
    · simp [h1, show k < n + 1 by omega]
    · by_cases h2 : k = n
      · simp [h2]
      · simp [h1, show ¬k < n + 1 by omega, show k - n ≠ 0 by omega]
theorem held_inMailbox (s : State) (l : List Byte) (h : l.length ≤ 256) : heldRequest (inMailbox s l).dev = request l := by
  apply List.ext_getElem?
  intro k
  have hg := area_get l 0 k
  simp only [Nat.zero_add] at hg
  simp only [heldRequest, inMailbox, request, List.getElem?_map, List.getElem?_append, List.getElem?_replicate, upTo_get]
  by_cases hk : k < 256
  · by_cases hl : k < l.length
    · simp only [hk, hl, if_true, Option.map_some, hg, List.getD_eq_getElem?_getD]
      simp [hl]
    · simp only [hk, hl, if_true, if_false, Option.map_some, hg, List.getD_eq_getElem?_getD,
        List.getElem?_eq_none (Nat.le_of_not_lt hl), show k - l.length < 256 - l.length by omega]
      rfl
  · simp only [hk, if_false, Option.map_none, show ¬k < l.length by omega, show ¬k - l.length < 256 - l.length by omega]
/-- A request is formed where its first bytes are. -/
theorem formed_request (l : List Byte) (cmd : Nat) (named : List (Nat × Nat)) (hl : l.length ≤ 256)
    (h : l.getD 0 0#8 = BitVec.ofNat 8 cmd ∧ ∀ k, k < l.length →
      k = 0 ∨ (4 ≤ k ∧ k < 8) ∨ (∃ p ∈ named, p.1 ≤ k ∧ k < p.1 + p.2) ∨ l.getD k 0#8 = 0#8) : formed (request l) cmd named := by
  have hz : ∀ k, (request l).getD k 0#8 = l.getD k 0#8 := by
    intro k
    simp only [request, List.getD_eq_getElem?_getD, List.getElem?_append, List.getElem?_replicate]
    by_cases hk : k < l.length
    · simp [hk]
    · have : l[k]? = none := List.getElem?_eq_none (by omega)
      simp only [hk, this, if_false]
      split <;> rfl
  refine ⟨by simp [request]; omega, (hz 0).trans h.1, fun k _ => ?_⟩
  rw [hz k]
  by_cases hk : k < l.length
  · exact h.2 k hk
  · exact .inr (.inr (.inr (by simp [List.getD_eq_getElem?_getD, List.getElem?_eq_none (Nat.le_of_not_lt hk)])))
theorem asked_request (s : State) (l : List Byte) (cmd : Nat) (named : List (Nat × Nat)) (h1 : s.dev.ready = true)
    (h2 : s.dev.going = false) (h3 : s.dev.spoiled = false) (hl : l.length ≤ 256) (h : l.getD 0 0#8 = BitVec.ofNat 8 cmd ∧ ∀ k, k < l.length →
      k = 0 ∨ (4 ≤ k ∧ k < 8) ∨ (∃ p ∈ named, p.1 ≤ k ∧ k < p.1 + p.2) ∨ l.getD k 0#8 = 0#8) : asked (inMailbox s l) cmd named := by
  refine ⟨h1, rfl, h2, h3, ?_⟩
  rw [held_inMailbox s l hl]
  exact formed_request l cmd named hl h
theorem witness_MailboxContexts_create :
    let s : State := inMailbox { tabled with ctxs := [], dev := { tabled.dev with enableWritten := true } }
      [1, 0, 0, 0, 0, 0, 0, 0, 0, 0, 0, 0, 0, 0, 0, 0, 0, 0, 0, 0, 0, 0, 0, 0, 0, 0, 0, 0, 0, 0, 0, 0, 0, 0, 0, 0, 0, 0, 0, 0, 0, 0, 1]
    let r := heldRequest s.dev
    asked s 1 [(8, 17), (32, 60)] ∧ createForm s r = true ∧ s.dev.enableWritten = true ∧ stillMemory s ∧
      (∀ c ∈ s.ctxs, c.num ≠ 63) ∧ sharesOk s none (wide r 64) (wide r 72) = true ∧ wide r 80 = 0#64 := by
  exact ⟨asked_request _ _ _ _ rfl rfl rfl (by decide) (by decide), by decide +kernel, rfl, ⟨rfl, rfl, rfl, rfl⟩, by decide, by decide +kernel,
    by decide +kernel⟩
theorem witness_MailboxContexts_destroy :
    let s : State := inMailbox { tabled with launches := [], teams := [], groups := [], splits := [] } [2]
    asked s 2 [(8, 1)] ∧ findCtx s (field (heldRequest s.dev) 8 1) = some ctx0 ∧ ctx0.checkpointing = false ∧ s.mem.posts = [] ∧ s.colls = [] ∧
      s.teams = [] ∧ s.images = [] ∧ s.contracts = [] := by
  exact ⟨asked_request _ _ _ _ rfl rfl rfl (by decide) (by decide), by decide +kernel, rfl, rfl, rfl, rfl, rfl, rfl⟩
theorem witness_MailboxContexts_update :
    let s : State := inMailbox tabled [0xB, 0, 0, 0, 0, 0, 0, 0, 0, 0xB, 0, 0, 0, 0, 0, 0, 0, 0, 0, 0, 0, 0, 0, 0, 1]
    let r := heldRequest s.dev
    asked s 0xB ([(8, 2)] ++ [(64, 8)] ++ [(72, 8)] ++ [] ++ [(24, 1)]) ∧ field r 9 1 < 16 ∧ field r 24 1 ≤ 1 ∧
      field r 64 8 < 2 ^ 48 ∧ (field r 9 1).testBit 2 = false ∧ findCtx s (field r 8 1) = some ctx0 ∧ stillMemory s ∧
      sharesOk s (some 0) (wide r 64) (wide r 72) = true := by
  exact ⟨asked_request _ _ _ _ rfl rfl rfl (by decide) (by decide), by decide +kernel, by decide +kernel, by decide +kernel, by decide +kernel,
    by decide +kernel, ⟨rfl, rfl, rfl, rfl⟩, by decide +kernel⟩
theorem witness_MailboxContexts_ring :
    let s : State := inMailbox tabled [3, 0, 0, 0, 0, 0, 0, 0, 0, 2, 16, 0, 0, 0, 0, 0, 0x40]
    let r := heldRequest s.dev
    asked s 3 [(8, 3), (16, 8)] ∧ field r 16 8 % 64 = 0 ∧ 4 ≤ field r 10 1 ∧ field r 10 1 ≤ 16 ∧ field r 9 1 ≤ 2 ∧
      findCtx s (field r 8 1) ≠ none ∧ ∀ q ∈ s.rings, q.idx ≠ 1023 := by
  exact ⟨asked_request _ _ _ _ rfl rfl rfl (by decide) (by decide), by decide +kernel⟩
theorem witness_MailboxContexts_reset :
    let c : Ctx := { ctx0 with fault := some { cause := 0x21#8, served := true } }
    let s := fun (k : Byte) => inMailbox { tabled with ctxs := [c] } [7, 0, 0, 0, 0, 0, 0, 0, k]
    asked (s 0#8) 7 [(8, 2)] ∧ asked (s 2#8) 7 [(8, 2)] ∧ asked (s 3#8) 7 [(8, 2)] ∧ field (heldRequest (s 3#8).dev) 8 1 = 3 ∧
      findCtx (s 0#8) (field (heldRequest (s 0#8).dev) 9 1) = some c ∧ (c.fault.map fun f => f.served) = some true ∧ stillMemory (s 3#8) := by
  exact ⟨asked_request _ _ _ _ rfl rfl rfl (by decide) (by decide), asked_request _ _ _ _ rfl rfl rfl (by decide) (by decide),
    asked_request _ _ _ _ rfl rfl rfl (by decide) (by decide), by decide +kernel, by decide +kernel, by decide, ⟨rfl, rfl, rfl, rfl⟩⟩
theorem witness_MailboxContexts_traceReset : inHost tabled 0 (ctx0.trace + 8#64) 16 0x50008 := by
  refine ⟨by decide, fun k hk h4 => ?_⟩
  obtain ⟨m, rfl⟩ : ∃ m, k = 4 * m := ⟨k / 4, by omega⟩
  have e : ctx0.trace + 8#64 + BitVec.ofNat 64 (4 * m) = 0x20000#64 + BitVec.ofNat 64 (4 * (m + 2)) := by
    apply BitVec.eq_of_toNat_eq
    simp only [ctx0, BitVec.toNat_add, BitVec.toNat_ofNat]
    omega
  rw [e]
  exact ⟨_, walks_tabled (m + 2) (by omega) 2 (.inr rfl), rfl, show 0x50000 + 4 * (m + 2) = 0x50008 + 4 * m by omega⟩
theorem witness_MailboxContexts_ringReset :
    let b : State := { tabled with rings := [{ ring3 with tail := 0#32 }] }
    let s := inMailbox b [7, 0, 0, 0, 0, 0, 0, 0, 1, 0, 3]
    let u := inMailbox b [0xD, 0, 0, 0, 0, 0, 0, 0, 0, 0, 3]
    let r := heldRequest s.dev
    asked s 7 [(8, 4)] ∧ asked u 0xD [(8, 4)] ∧ field r 8 1 = 1 ∧ field (heldRequest u.dev) 8 1 = 0 ∧
      findRing s (field r 10 2) = some { ring3 with tail := 0#32 } ∧ ring3.ctx = field r 9 1 ∧ ring3.head = 0#32 ∧ s.contracts = [] := by
  exact ⟨asked_request _ _ _ _ rfl rfl rfl (by decide) (by decide), asked_request _ _ _ _ rfl rfl rfl (by decide) (by decide), by decide +kernel⟩
theorem witness_MailboxContexts_releases :
    let c : Contract := { num := 1, ring := 3, p := 9, c := 1, d := 8, part := 0 }
    let b : State := { tabled with rings := [ring3], contracts := [c], comms := [pair] }
    let s := inMailbox b [0xD, 0, 0, 0, 0, 0, 0, 0, 1, 0, 5]
    let u := inMailbox b [0xD, 0, 0, 0, 0, 0, 0, 0, 2, 0, 1]
    let r := heldRequest s.dev
    let q := heldRequest u.dev
    asked s 0xD [(8, 4)] ∧ asked u 0xD [(8, 4)] ∧ commIn s (field r 9 1) (field r 10 2) = some pair ∧ findContract u (field q 10 2) = some c ∧
      findRing u c.ring = some ring3 ∧ ring3.ctx = field q 9 1 ∧ c.running = none ∧ c.pending = false := by
  exact ⟨asked_request _ _ _ _ rfl rfl rfl (by decide) (by decide), asked_request _ _ _ _ rfl rfl rfl (by decide) (by decide), by decide +kernel⟩
theorem witness_MailboxWork_refused :
    let s := inMailbox tabled [1, 0, 0, 0, 0, 0, 0, 0, 2, 1, 1, 1, 1, 1, 1, 1, 1, 1, 1, 1, 1, 1, 1, 1, 1, 1]
    let u := inMailbox tabled [15]
    s.dev.ready = true ∧ s.dev.busy = true ∧ s.dev.spoiled = false ∧ (heldRequest s.dev).getD 0 0#8 = BitVec.ofNat 8 1 ∧
      ¬formed (heldRequest s.dev) 1 [(8, 17), (32, 60)] ∧ u.dev.busy = true ∧ 14 < field (heldRequest u.dev) 0 1 := by
  refine ⟨rfl, rfl, rfl, by decide +kernel, fun h => ?_, rfl, by decide +kernel⟩
  have := h.2.2 25 (by decide)
  revert this
  decide +kernel
theorem witness_MailboxWork_comm :
    let s := inMailbox tabled [4, 0, 0, 0, 0, 0, 0, 0, 0, 3, 16, 0xFF, 1]
    let r := heldRequest s.dev
    asked s 4 [(8, 24)] ∧ field r 9 1 ≤ 3 ∧ field r 10 1 ≤ 16 ∧ field r 11 1 = 0xFF ∧ field r 12 2 = 1 ∧ field r 14 2 < 1 ∧
      (upTo 1).map (fun k => readNum s.mem.hostMem (field r 24 8 + 2 * k) 2) = [s.dev.devNum] ∧ findCtx s (field r 8 1) ≠ none ∧
      s.comms = [] := by
  exact ⟨asked_request _ _ _ _ rfl rfl rfl (by decide) (by decide), by decide +kernel⟩
theorem witness_MailboxWork_invalidate :
    let s := inMailbox tabled [5]
    asked s 5 [(8, 1), (16, 16)] ∧ field (heldRequest s.dev) 16 8 % 65536 = 0 ∧ findCtx s (field (heldRequest s.dev) 8 1) ≠ none ∧
      s.mem.flights = [] ∧ s.mem.posts = [] := by
  exact ⟨asked_request _ _ _ _ rfl rfl rfl (by decide) (by decide), by decide +kernel⟩
theorem witness_MailboxWork_checkpoint :
    let s := inMailbox tabled [6, 0, 0, 0, 0, 0, 0, 0, 0, 1]
    let r := heldRequest s.dev
    asked s 6 [(8, 2), (12, 13), (32, 8)] ∧ field r 9 1 ≤ 1 ∧ field r 24 1 ≤ 64 ∧ findCtx s (field r 8 1) = some ctx0 ∧
      ctx0.fault = none ∧ ctx0.checkpointing = false ∧ (s.teams.map fun u => u.tid).Nodup := by
  exact ⟨asked_request _ _ _ _ rfl rfl rfl (by decide) (by decide), by decide +kernel⟩
theorem witness_MailboxWork_checkpointWrite :
    let c : Ctx := { ctx0 with checkpointing := true }
    let s : State :=
      { tabled with dev := { tabled.dev with busy := true, going := true, request := [(0, 6#8)] }, ctxs := [c], teams := [], launches := [] }
    s.dev.ready = true ∧ s.dev.going = true ∧ formed (heldRequest s.dev) 6 [(8, 2), (12, 13), (32, 8)] ∧ field (heldRequest s.dev) 24 1 = 0 ∧
      findCtx s (field (heldRequest s.dev) 8 1) = some c ∧ s.dev.nvme = none ∧ ctxTeams s 0 = [] ∧ commitDue s 0 = false := by
  refine ⟨rfl, rfl, ?_, by decide +kernel⟩
  unfold formed
  decide +kernel
theorem witness_MailboxWork_restore :
    let s : State := inMailbox { tabled with teams := [], launches := [] } [14, 0, 0, 0, 0, 0, 0, 0, 0, 1]
    asked s 14 [(8, 2), (12, 12), (25, 1), (40, 8)] ∧ findCtx s 0 = some ctx0 ∧ ctxTeams s 0 = [] ∧ ∀ m ∈ s.images, m.ctx ≠ 0 := by
  exact ⟨asked_request _ _ _ _ rfl rfl rfl (by decide) (by decide), by decide⟩
theorem witness_MailboxWork_nvme :
    let k : Checkpoint := ⟨0, 0, 0, 0, 1, [], [], [], [], [], [], []⟩
    let s := fun (b : Bool) => { tabled with dev := { tabled.dev with nvme := some ⟨b, k, none⟩, busy := true, request := [(0, 14#8)] } }
    (s false).dev.nvme = some ⟨false, k, none⟩ ∧ (s true).dev.nvme = some ⟨true, k, none⟩ ∧ (s true).dev.spoiled = false ∧
      field (heldRequest (s true).dev) 0 1 = 14 ∧ ¬checkpointReads ((k.manifest ++ k.blobs.flatten).take 4096) (cutLike k.blobs []) :=
  ⟨rfl, rfl, rfl, by decide +kernel, fun h => absurd h.1.1 (by decide)⟩
/-- An image of 64 bytes under GEN 5, as a drive returns it. -/
def blobHead : List Byte := bytesOf 4 0x474D4953 ++ bytesOf 4 1 ++ bytesOf 8 5 ++ List.replicate 44 0#8
def blob : List Byte := blobHead ++ bytesOf 4 (crc32c blobHead)
theorem blob_reads : imageReads blob ∧ field blob 8 8 = 5 := by
  unfold imageReads
  decide +kernel
theorem crc_lt (bs : List Byte) : crc32c bs < 2 ^ 32 := by
  have hb : ∀ c, c < 2 ^ 32 → crcBit c < 2 ^ 32 := by
    intro c h
    unfold crcBit
    split
    · exact Nat.xor_lt_two_pow (by omega) (by decide)
    · omega
  have hf : ∀ (bs : List Byte) c, c < 2 ^ 32 → bs.foldl crcByte c < 2 ^ 32 := by
    intro bs
    induction bs with
    | nil => exact fun c h => h
    | cons b bs ih =>
      intro c h
      exact ih _ (hb _ (hb _ (hb _ (hb _ (hb _ (hb _ (hb _ (hb _ (Nat.xor_lt_two_pow h (by have := b.isLt; omega))))))))))
  exact Nat.xor_lt_two_pow (hf bs _ (by decide)) (by decide)
theorem num_four (n : Nat) (h : n < 2 ^ 32) : numOf (bytesOf 4 n) = n := by
  simp only [bytesOf, upTo, List.nil_append, List.cons_append, List.map_cons, List.map_nil, numOf, byteAt, BitVec.toNat_ofNat, Nat.shiftRight_eq_div_pow]
  omega
theorem field_prefix (a b : List Byte) (lo n : Nat) (h : lo + n ≤ a.length) : field (a ++ b) lo n = field a lo n := by
  unfold field
  rw [List.drop_append_of_le_length (by omega), List.take_append_of_le_length (by rw [List.length_drop]; omega)]
/-- The manifest of a context 0 with GEN 5 and one image of 64 bytes. -/
def manifestStart : List Byte :=
  bytesOf 4 0x4B435043 ++ bytesOf 2 1 ++ bytesOf 1 0 ++ bytesOf 1 0 ++ bytesOf 4 5 ++ bytesOf 4 1 ++ bytesOf 8 64
def manifestBody : List Byte := manifestStart ++ List.replicate 4068 0#8
def manifest : List Byte := manifestBody ++ bytesOf 4 (crc32c manifestBody)
theorem body_length : manifestBody.length = 4092 := by
  rw [manifestBody, List.length_append, List.length_replicate]
  rfl
theorem manifest_length : manifest.length = 4096 := by
  rw [manifest, List.length_append, body_length]
  rfl
theorem manifest_reads : manifestReads manifest 5 1 := by
  have hs : ∀ lo n, lo + n ≤ 24 → field manifest lo n = field manifestStart lo n := by
    intro lo n h
    rw [manifest, manifestBody, List.append_assoc]
    exact field_prefix _ _ _ _ h
  have hc : field manifest 4092 4 = crc32c (manifest.take 4092) := by
    rw [manifest, List.take_left' body_length]
    unfold field
    rw [List.drop_left' body_length]
    exact num_four _ (crc_lt _)
  refine ⟨?_, ?_, ?_, ?_, hc⟩
  all_goals rw [hs _ _ (by decide)]; decide
/-- A checkpoint with that image, of a team of launch 4, and the machine whose drive has returned it to RESTORE: its launch table, at
0x60000 of the host's memory, gives launch 4 the descriptor at 0x30200. -/
def oldLaunch : Launch := { id := 4 }
def savedImage : Image :=
  { id := 7, ctx := 0, gen := 5, flags := 0, len := 64, base := none, team := { tid := 9, launch := 4 }, groups := [], splits := []
    flights := [] }
def returned : Checkpoint := ⟨0, 0, 0, 0, 5, [], [blob], [savedImage], [], [], [], [oldLaunch]⟩
def adoptMachine : State :=
  let b := ringMachine (launchBytes 1#8)
  inMailbox { b with
      mem := { b.mem with hostMem := [(0x60000, 4#8), (0x60009, 2#8), (0x6000A, 3#8)] }
      dev := { b.dev with nvme := some ⟨true, returned, some (manifest ++ blob)⟩ } }
    ([14] ++ List.replicate 24 0#8 ++ [1] ++ List.replicate 16 0#8 ++ [6])
theorem adopt_request : field (heldRequest adoptMachine.dev) 0 1 = 14 ∧ field (heldRequest adoptMachine.dev) 8 1 = 0 ∧
    field (heldRequest adoptMachine.dev) 25 1 = 1 ∧ field (heldRequest adoptMachine.dev) 40 8 = 0x60000 := by decide +kernel
theorem adopt_table : readNum adoptMachine.mem.hostMem 0x60000 4 = 4 ∧ readNum adoptMachine.mem.hostMem 0x60008 8 = 0x30200 := by
  decide +kernel
theorem adopt_launch : ∃ c, readLaunch adoptMachine 0 0x30200#64 = .ok (some (plainLaunch c)) := plain_of _ (by decide +kernel)
theorem adopt_reads : checkpointReads ((manifest ++ blob).take 4096) (cutLike returned.blobs ((manifest ++ blob).drop 4096)) ∧
    cutLike returned.blobs ((manifest ++ blob).drop 4096) = [blob] := by
  have hb : cutLike returned.blobs ((manifest ++ blob).drop 4096) = [blob] := by
    rw [List.drop_left' manifest_length]
    change [blob.take blob.length] = [blob]
    rw [List.take_length]
  rw [hb, List.take_left' manifest_length]
  have hg : field manifest 8 4 = 5 := manifest_reads.2.2.1
  refine ⟨⟨by rw [hg]; exact manifest_reads, fun b h => ?_⟩, rfl⟩
  rw [List.mem_singleton.mp h, hg]
  exact blob_reads
theorem witness_MailboxWork_adopt :
    let s := adoptMachine
    let bs := manifest ++ blob
    let host := fun (o w : Nat) => readNum s.mem.hostMem (0x60000 + o) w
    s.dev.nvme = some ⟨true, returned, some bs⟩ ∧ s.dev.spoiled = false ∧ s.dev.ready = true ∧ s.dev.busy = true ∧
      savedImage.team.launch = oldLaunch.id ∧ host 0 4 = oldLaunch.id ∧
      (∀ q ∈ s.launches.filter (fun q => !(q.id = 4 && q.ctx = 0 && q.complete)), q.id ≠ 4) ∧
      ∃ l, readLaunch s 0 (BitVec.ofNat 64 (host 8 8)) = .ok (some l) ∧ l.savedTeams = [] ∧
        let back : Launch :=
          { l with
            id := 4, ctx := 0, ring := none, cls := oldLaunch.cls, crec := BitVec.ofNat 64 (host 16 8), cword := BitVec.ofNat 64 (host 24 8)
            cval := BitVec.ofNat 32 (host 4 4), saves := oldLaunch.saves, teamsDone := oldLaunch.teamsDone, gridGen := oldLaunch.gridGen
            age := s.clock, begun := true }
        earlyStatus { s with
          dev := { s.dev with nvme := some ⟨true, returned, some bs⟩ }, launches := [], nextId := 5
          ctxs := ctxsWith s 0 fun c => { c with gen := 5 } } { back with undisp := upTo (back.gx * back.gy * back.gz) } = 0 := by
  obtain ⟨c, hc⟩ := adopt_launch
  refine ⟨rfl, rfl, rfl, rfl, rfl, adopt_table.1, by decide, plainLaunch c, ?_, rfl, ?_⟩
  · change readLaunch adoptMachine 0 (BitVec.ofNat 64 (readNum adoptMachine.mem.hostMem 0x60008 8)) = _
    rw [adopt_table.2]
    exact hc
  · refine early_zero _ _ rfl rfl (fits_one _ _ 0 rfl rfl (stores_empty _ 0 rfl) rfl ?_)
    change (upTo 4).filterMap (placePair [] {} false) ≠ []
    decide
theorem witness_MailboxWork_admit :
    let s : State := inMailbox { tabled with dev := { tabled.dev with enable := 2#5, partitions := [(0, 1#192)] }, rings := [ring3] }
      [8, 0, 0, 0, 0, 0, 0, 0, 3, 0, 0, 0, 0, 0, 0, 0, 0, 0, 0, 0, 2, 0, 0, 0, 1, 0, 0, 0, 0, 0, 0, 0, 0, 0, 0, 0, 1]
    let r := heldRequest s.dev
    let cores := ((upTo 192).filter fun c => (mapGet 0#192 s.dev.partitions (field r 10 1)).getLsbD c).length
    asked s 8 [(8, 3), (16, 24)] ∧ findRing s (field r 8 2) = some ring3 ∧ field r 32 8 ≤ field r 16 8 ∧ 0 < field r 24 8 ∧
      s.dev.enable.getLsbD 1 = true ∧ loadOk cores [(field r 24 8, field r 16 8)] = true ∧
      deadlineOk cores (field r 24 8) (field r 32 8) (field r 10 1) = true := by
  intro s r cores
  have hn : cores = 1 := by decide +kernel
  have hc : field r 24 8 = 1 := by decide +kernel
  have hd : field r 32 8 = 2 ^ 32 := by decide +kernel
  refine ⟨?_, by decide +kernel, by decide +kernel, by decide +kernel, by decide, by decide +kernel, ?_⟩
  · exact asked_request _ _ _ _ rfl rfl rfl (by decide) (by decide)
  · rw [hn, hc, hd]
    have := (Config.smax (field r 10 1)).isLt
    simp only [deadlineOk, Bool.and_eq_true, decide_eq_true_eq]
    omega
theorem witness_MailboxWork_counters :
    let w := inMailbox tabled [12, 0, 0, 0, 0, 0, 0, 0, 191, 0, 7]
    asked (inMailbox tabled [9, 0, 0, 0, 0, 0, 0, 0, 0, 15]) 9 [(8, 2)] ∧ (countersOf tabled 0 15 0 0).isSome = true ∧
      asked (inMailbox tabled [10, 0, 0, 0, 0, 0, 0, 0, 15]) 10 [(8, 1), (16, 24)] ∧ tabled.contracts = [] ∧
      asked w 12 [(8, 3), (16, 24)] ∧
      findCtx w (field (heldRequest w.dev) 16 8 / 2 ^ 58) ≠ none ∧ 191 ∉ w.dev.fencedCores := by
  exact ⟨asked_request _ _ _ _ rfl rfl rfl (by decide) (by decide), by decide, asked_request _ _ _ _ rfl rfl rfl (by decide) (by decide), rfl,
    asked_request _ _ _ _ rfl rfl rfl (by decide) (by decide), by decide +kernel, by decide⟩

/-- The queued XFILL, and a team with it in its queue or running with its chunk out. -/
def fillCmd : Cmd := makeCmd filler .fill true fillRecord [0#32, 7#32] 2
def queued : State := { fillMachine with teams := [{ filler.tm with queue := [fillCmd] }] }
def runningCmd : Cmd := { fillCmd with onEngine := some 0, seat := 1 }
def engineMachine (c : Cmd) : State := { fillMachine with teams := [{ filler.tm with running := [c] }] }
theorem witness_TransferEngines_queue :
    findTeam queued 0 = some { filler.tm with queue := [fillCmd] } ∧ filler.tm.stopping = false ∧ findLaunch queued 0 = some filler.lch ∧
      ctxLive queued 0 = true ∧ filler.lch.rollback = none ∧ teamLives queued 0 ∧ fillCmd.guard = none ∧
      min (onEngineCount queued 0 0) (onEngineCount queued 0 1) < 64 := by
  refine ⟨by decide +kernel, rfl, by decide, by decide, rfl, ⟨_, List.mem_singleton.mpr rfl, rfl, rfl⟩, by decide +kernel, by decide +kernel⟩
theorem witness_TransferEngines_issue :
    let s := engineMachine runningCmd
    let u : Team := { filler.tm with running := [runningCmd] }
    findTeam s 0 = some u ∧ (u.running.find? fun k => k.csn = 0) = some runningCmd ∧ 0 ∉ runningCmd.out ∧ 0 ∉ runningCmd.done ∧
      0 < runningCmd.chunks ∧ servedNext (eventOf s { a := 0 }) 0 0 = some ⟨filler.lch, u, runningCmd⟩ ∧ runningCmd.begun = [] ∧
      (chunkReach (eventOf s { a := 0 }) ⟨filler.lch, u, runningCmd⟩ 0).toOption = some ([], []) := by decide +kernel
/-- What a chunk moves, where it moves. -/
def chunkOf (s : State) (a : EvArg) (w : Who) : Option (List Piece × Eng) :=
  match chunkRun (eventOf s a) w a.c with
  | .ok (ws, ps, h) =>
    if h.asks = [] then
      match writeChunk w ws h with
      | .ok g => some (ps, g)
      | .error _ => none
    else none
  | .error _ => none
theorem chunkOf_moves (s : State) (a : EvArg) (w : Who) (r : List Piece × Eng) (h : chunkOf s a w = some r) : chunkMoves s a w r.1 r.2 := by
  unfold chunkOf at h
  split at h
  · rename_i ws ps q hr
    split at h
    · rename_i hq
      split at h
      · rename_i g hg
        cases h
        exact ⟨ws, q, hr, hq, hg⟩
      · cases h
    · cases h
  · cases h
/-- A fill of nothing inside its extent, whose chunk is out. -/
def outCmd : Cmd := { runningCmd with out := [0] }
def outTeam : Team := { filler.tm with running := [outCmd] }
def outMachine : State := engineMachine outCmd
def chunkDone : Option (List Piece × Eng) := chunkOf outMachine { a := 0 } ⟨filler.lch, outTeam, outCmd⟩
theorem chunkDone_watches : (chunkDone.map fun r => watchesOff r.2.st outTeam.core) = some true := by decide +kernel
theorem chunkDone_leaves : (chunkDone.map fun r => (r.2.st.devFail, (findTeam r.2.st 0).map fun v => v.running, r.2.st.groups, r.2.st.splits)) =
    some (none, some outTeam.running, [filler.g], [filler.x]) := by decide +kernel
theorem outMachine_holds : findTeam outMachine 0 = some outTeam ∧ (outTeam.running.find? fun k => k.csn = 0) = some outCmd ∧
    0 ∈ outCmd.out ∧ outMachine.mem.posts = [] := by decide +kernel
theorem witness_TransferEngines_chunk :
    ∃ ps g v, findTeam outMachine 0 = some outTeam ∧ (outTeam.running.find? fun k => k.csn = 0) = some outCmd ∧ 0 ∈ outCmd.out ∧
      outMachine.mem.posts = [] ∧ chunkMoves outMachine { a := 0 } ⟨filler.lch, outTeam, outCmd⟩ ps g ∧ g.st.devFail = none ∧ watchesOff g.st outTeam.core = true ∧
      findTeam g.st 0 = some v ∧ v.running = outTeam.running ∧ teamLives g.st 0 ∧ noRegroup g.st 0 := by
  obtain ⟨r, hr, h⟩ := Option.map_eq_some_iff.mp chunkDone_leaves
  have h0 : watchesOff r.2.st outTeam.core = true := by
    have := chunkDone_watches
    rw [hr] at this
    exact Option.some.inj this
  obtain ⟨h1, h⟩ := Prod.mk.inj h
  obtain ⟨h2, h⟩ := Prod.mk.inj h
  obtain ⟨h3, h4⟩ := Prod.mk.inj h
  obtain ⟨v, hv, hr'⟩ := Option.map_eq_some_iff.mp h2
  obtain ⟨m1, m2, m3, m4⟩ := outMachine_holds
  refine ⟨r.1, r.2, v, m1, m2, m3, m4, chunkOf_moves _ _ _ _ hr, h1, h0, hv, hr', ⟨filler.g, ?_, rfl, rfl⟩, fun y hy _ => ?_⟩
  · rw [h3]
    exact List.mem_singleton.mpr rfl
  · rw [h4] at hy
    rw [List.mem_singleton.mp hy]
    decide
theorem witness_TransferEngines_moves :
    fillCmd.rec_.dims = [⟨8, 4, 1, 0⟩] ∧ fillCmd.rec_.tf = 4 ∧ fillCmd.edge = [] ∧ fillCmd.coords = [0] ∧ fillCmd.kind = .fill ∧
      fillCmd.rec_.ts = 1 ∧ fillCmd.rec_.tbase = 0 := by decide +kernel
theorem witness_TransferEngines_held :
    let u : Team := { bars := [(2, { exp := 2 })], heldArr := [⟨0, 2, none, true, 0, true⟩] }
    let s : State := { onEx ex with teams := [u] }
    findTeam s 0 = some u ∧ u.heldArr[0]? = some ⟨0, 2, none, true, 0, true⟩ ∧ (barOf u 2).arr < (barOf u 2).exp ∧
      ∀ y ∈ s.splits, y.tid = 0 → y.park ≠ .regroup := by decide
theorem witness_TransferEngines_stalemate :
    let u : Team := { queue := List.replicate 16 { fillCmd with guard := some 3 } }
    let x : Split := { ex.x with st := .parked, park := .engine }
    let s : State := { onEx ex with teams := [u], splits := [x] }
    (findTeam s 0).map (fun u => u.queue.length) = some 16 ∧ guardOf u 3 = .unresolved ∧ s.splits.filter (fun y => y.tid = 0) = [x] ∧
      ex.g.hs = none ∧ ex.lch.hdr.trap = some 0x100 ∧ traceOff s 0 = true := by decide +kernel

/-- A stream team with an operation posted, granted or not. -/
def postedTeam (op : MatOp) (g : Bool) : Team := { streamTeam with posted := [{ op := op, pc := 0x10000#64, word := 0#32, granted := g }] }
def matrixMachine (op : MatOp) (g : Bool) : State := { onEx streamEx with teams := [postedTeam op g] }
def bound : Binding := ⟨0x1001000080000000#64, [3#8]⟩
theorem granted_matrix (op : MatOp) :
    granted (matrixMachine op true) 0 ex.lch (postedTeam op true) { op := op, pc := 0x10000#64, word := 0#32, granted := true } [] :=
  ⟨rfl, rfl, rfl, rfl, ⟨ex.g, List.mem_singleton.mpr rfl, rfl, rfl⟩, fun v hv => by rw [List.mem_singleton.mp hv]; rfl⟩
theorem witness_MatrixUnit_grant :
    let s := matrixMachine (.mldw bound) false
    (findTeam s 0).isSome = true ∧ ((eligible s 0 false).map fun x => x.1) = [0] ∧ unitFree s 0 false = true := by decide
theorem witness_MatrixUnit_mldw : (opDesc bound.bd).isSome = true ∧
    ∀ d, opDesc bound.bd = some d → ∀ k, k < 256 → rowOk (postedTeam (.mldw bound) true) .wb bound.tile d k = true := by
  refine ⟨by decide, fun d hd => ?_⟩
  have : d = ⟨3, false, 0, 0, 0, 0⟩ := by
    have h : opDesc bound.bd = some ⟨3, false, 0, 0, 0, 0⟩ := by decide
    exact Option.some.inj (hd.symm.trans h)
  subst this
  decide +kernel
/-- The format block of the stream team. -/
def block : List Byte := formatBlock streamTeam 0
def passOp : MatOp := .mma 32 0x2000200100000000#64 0x3000200100000000#64 block bound 0 true 0 0
theorem witness_MatrixUnit_pass : (opDesc (fmtA block)).isSome = true ∧ (opDesc bound.bd).isSome = true ∧
    (∀ i, i < 32 → rowOk (postedTeam passOp true) .ab 0x2000200100000000#64 ⟨3, false, 0, 0, 0, 0⟩ (0 + i) = true) ∧
    16 ≤ tilePitch 0x3000200100000000#64 ∧ tileBase 0x3000200100000000#64 % 4 = 0 ∧ fmtStat block = 0xFFFFFFFF ∧
    watchesOff (matrixMachine passOp true) 0 = true ∧ hasRing (matrixMachine passOp true) 0 = false ∧ ex.lch.shadow = false := by
  decide +kernel
theorem witness_MatrixUnit_drain : (drainRow block).isSome = true ∧ ((drainRow block).map fun r => (r.per, r.pitch)) = some (1, 16) ∧
    16 ≤ tilePitch 0x2000200100000000#64 ∧ 16 ≤ tilePitch 0x3000200100000000#64 ∧ fmtCd block 2 = 0 := by decide +kernel
theorem witness_MatrixUnit_fault :
    let u : Team := { streamTeam with seqFault := some { cause := 0x8A#8 } }
    let s : State := { onEx streamEx with teams := [u] }
    findTeam s 0 = some u ∧ findLaunch s 0 = some ex.lch ∧ leastBy (fun k : Group => k.gi) (liveGroups s 0) = some ex.g ∧
      leastBy (fun y : Split => y.id.toNat) (splitsOf s 0 0) = some ex.x ∧ ex.x.st = .ready ∧ ex.g.hs = none ∧ traceOff s 0 = true ∧
      isK 0x8A#8 = false ∧ s.mem.locks = [] := by decide

/-- A collective of pair's context in a team whose barrier 2 expects two arrivals. -/
def coll (st : CollState) : Coll :=
  { id := 7, handle := 5, seq := 0, tid := 0, launch := 0, ordinal := 0, ctx := 0, word := wordOf (.coll 0#3 2#4 0#4 2#6 0#3 0#3 0#1), root := 0
    bar := 2, map := [], tag := 0#16, st := st }
def collTeam : Team := { bars := [(2, { exp := 2 })] }
def collState (c : Coll) : State := { onEx ex with teams := [collTeam], comms := [pair], colls := [c] }
theorem onlyColl_state : onlyColl (collState (coll .handshake)) (coll .handshake) pair collTeam := by
  unfold onlyColl teamLives
  decide
theorem witness_CollectivesAndMeetings : onlyColl (collState (coll .handshake)) (coll .handshake) pair collTeam ∧ 1 < pair.nmem ∧
    (∀ v ∈ (coll .handshake).sigs, v.1 ≠ 1 ∧ v.2 = collSignature (coll .handshake)) :=
  ⟨onlyColl_state, by decide, fun _ h => (nomatch h)⟩
theorem witness_CollectivesAndMeetings_credit : findColl (collState (coll .running)) 7 = some (coll .running) ∧
    findComm (collState (coll .running)) 5 = some pair ∧ (coll .running).st ≠ .done := by decide
/-- The communicator with chunks of 128 bytes, which keep the witnesses small. -/
def brief : Comm := { pair with logc := 7 }
/-- An ALLGATHER of n 32-bit elements of a cached page between two devices, device 0's own. -/
def gather (n steps : Nat) (got : List (Nat × List Cell)) : Coll :=
  { coll .running with
    word := wordOf (.coll 5#3 2#4 0#4 2#6 0#3 0#3 0#1), map := bytesOf 8 0x20100 ++ bytesOf 8 0x20200 ++ bytesOf 8 n
    steps := steps, got := got, credits := [(1, 1)], passed := [1] }
/-- Its machine, with a regulator of one line a window. -/
def gatherMachine (c : Coll) : State :=
  { collState c with
    comms := [brief]
    mem := { tlb := [{ dataTlb with core := none }] }, ctxs := [{ num := 0, root := 0x30000#64, regl := 0x100010000#64 }] }
/-- What its next SRC chunk reads. -/
def gatherReads (c : Coll) : Option (List (Nat × List Cell) × Reading) :=
  (collElems ⟨c, brief⟩ (CollCtx.srcChunk ⟨c, brief⟩) ⟨eventOf (gatherMachine c) { a := 7 }, [], []⟩).toOption
theorem witness_CollectivesAndMeetings_payload :
    let c := gather 1 0 []
    let x : CollCtx := ⟨c, brief⟩
    findColl (gatherMachine c) 7 = some c ∧ findComm (gatherMachine c) 5 = some brief ∧ c.st = .running ∧ 1 ≠ brief.rank ∧ 1 < brief.nmem ∧
      (c.have_ 1).length + [((5#32, 0x123#16) : Cell)].length ≤ x.cells * x.sent 1 brief.rank ∧ c.now = none := by decide +kernel
theorem witness_CollectivesAndMeetings_sends :
    let c := gather 1 0 []
    let x : CollCtx := ⟨c, brief⟩
    let s0 := eventOf (gatherMachine c) { a := 7 }
    x.ready s0 = true ∧ 0 ∈ x.steps_ ∧ chosen s0 x = true ∧ x.allWritten = false ∧
      (gatherReads c).map (fun r => (r.2.asks, decide ((stepIssues s0 x r.2.secs).1 = (stepRequests s0 x r.2.secs).length))) = some ([], true) := by
  decide +kernel
theorem witness_CollectivesAndMeetings_sendsPart :
    let c := gather 17 0 []
    let x : CollCtx := ⟨c, brief⟩
    let s0 := eventOf (gatherMachine c) { a := 7 }
    x.ready s0 = true ∧ 0 ∈ x.steps_ ∧ chosen s0 x = true ∧
      (gatherReads c).map (fun r => (r.2.asks, decide ((stepIssues s0 x r.2.secs).1 = (stepRequests s0 x r.2.secs).length))) = some ([], false) := by
  decide +kernel
theorem witness_CollectivesAndMeetings_writes :
    let c := gather 1 1 [(0, [(5#32, 0x123#16)])]
    let x : CollCtx := ⟨c, brief⟩
    let s := gatherMachine c
    let s0 := eventOf s { a := 7, b := 1 }
    let ws := collWords x (x.dstChunk 0).1
    let T : Target := { pa := 0x30200, tier := 0, dev := 0, memside := false, staged := false, hostShared := false }
    let secs := ws.map fun _ => homeKey s0 T / 32
    x.ready s0 = true ∧ 1 ∈ x.steps_ ∧ chosen s0 x = true ∧ (stepIssues s0 x secs).1 = (stepRequests s0 x secs).length ∧
      (1 ∈ x.senders ∧ x.done 1 ≠ x.due 1) ∧ (ws.map fun _ => T.pa / 4 * 4).Nodup ∧
      (∀ w ∈ ws, translateDie s (dieOf (seqCore brief.seqr)) c.ctx (BitVec.ofInt 64 w.addr) 2 = .ok T ∧ T.tier < 2 ∧ w.tag ≠ 0xFF00#16) ∧
      takesTags s.mem 0x30200 ∧ mapGet 0 s.mem.poolUsed (stackOf 0x30200) + ws.length ≤ poolSize (stackOf 0x30200) ∧
      (∀ l ∈ s.launches, (l.node && l.replayable) = false) ∧ s.mem.staged = [] := by
  unfold takesTags
  decide +kernel
theorem witness_CollectivesAndMeetings_stalemate :
    let x : Split := { ex.x with st := .waiting, wm := 1, lset := 0x0F#64, amask := 0x0F#64 }
    let y : Split := { ex.x with st := .waiting, wm := 2, rank := 1, id := 1, lset := 0xF0#64, amask := 0xF0#64 }
    let g : Group := { joins := [[], [0, 1], [0, 1]] }
    let s : State := { onEx ex with groups := [g], splits := [x, y] }
    findGroup s 0 0 = some g ∧ splitsOf s 0 0 = [x, y] ∧ y.rank ∈ joinSet g x.wm ∧ x.rank ∈ joinSet g y.wm ∧ x.id.toNat < y.id.toNat ∧
      (exAt s 0 0 0).isSome = true ∧ traceOff s 0 = true ∧ g.hs = none := by decide
theorem witness_CollectivesAndMeetings_migration :
    let x : Split := { ex.x with st := .parked, park := .regroup, parkKey := (wordOf (.regroup 2#4 17#8 0xFFE#12)).toNat }
    let g : Group := { regroup := .migrating }
    let s : State := { onEx ex with groups := [g], splits := [x] }
    participants s 0 = x :: [] ∧ (exAt s 0 0 0).isSome = true ∧ ex.width ≤ 64 ∧ s.splits.filter (fun z => z.tid = 0 && z.gi = 0) = [x] ∧
      findGroup s 0 0 = some g ∧ x.parkKey / 2 ^ 20 % 16 = 2 := by decide

theorem witness_DecodeAndEncodeAgree : (Instr.scan 1#8 2#8 15#4 1#1).wellFormed = true ∧ (encode (.scan 1#8 2#8 15#4 1#1)).isSome = true ∧
    (decode 0x04000000#32).isSome = true := by decide
/-- A word at the split's PC: the machine of withFetchWord, with SADD. -/
def fetching : State := State.reset.withFetchWord 32 0x20C1C2F0
theorem witness_StepRunsDecoded :
    fetching.agenda = .split 0 0 0 :: State.reset.agenda ∧ (exAt fetching 0 0 0).isSome = true ∧
      ((exAt fetching 0 0 0).map fun e => mayIssue fetching e) = some true ∧ fetching.shadows = [] ∧
      fetchAt fetching 0 0 0x10000#64 = .word 0x20C1C2F0#32 ∧ decode 0x20C1C2F0#32 = some (.sadd 0xC1#8 0xC2#8 0xF0#8) ∧
      (match exec (.sadd 0xC1#8 0xC2#8 0xF0#8)
          { fetchTouch { fetching with clock := 1, agenda := State.reset.agenda } 0 0 0x10000#64 with cur := .split 0 0 0 } with
        | .next _ => true | _ => false) = true := by decide +kernel
theorem witness_StepRunsDecoded_fetch : canonical 0x10000#64 = true ∧ translate fetching 0 0 0x10000#64 3 = .ok ⟨0x20000, 0, 0, false, false, false⟩ ∧
    fetching.mem.l1 = [] ∧ fetching.mem.uncorr = [] := by decide
theorem witness_invariants : memWf State.reset.mem = true ∧ devOk State.reset.dev := by
  refine ⟨by decide, ?_⟩
  unfold devOk
  decide
theorem witness_next : ∃ t, step fetching = .next t := by
  have h : (match step fetching with | .next _ => true | _ => false) = true := by decide +kernel
  split at h
  · exact ⟨_, ‹_›⟩
  · cases h

end Witnesses

end Sys2Proof.Tests
end

section
/-! SUPPORT. The prefix words and NOP (R62, R65, R73): what a latched word and a word of both agents do, which encodings raise
ILL_FIELD, and what NOP accepts. -/

namespace Sys2Proof.Machine
open Sys2Proof.Laws Sys2Proof.Claims

/-! ## A word of both agents, by whose turn it is -/

theorem runWord_split {i : Instr} {body : Ex → State → Res} {sbody : Sx → State → SRes} {s : State} {tid gi rank : Nat}
    (hc : s.cur = .split tid gi rank) : runWord i (wordOf i) false body sbody s = groupWord i body s := by
  simp only [groupWord, runWord, hc]

theorem runWord_stream {i : Instr} {body : Ex → State → Res} {sbody : Sx → State → SRes} {s : State} {tid : Nat}
    (hc : s.cur = .stream tid) : runWord i (wordOf i) false body sbody s = streamWord i sbody s := by
  simp only [streamWord, runWord, hc]

/-! ## A latched word of a split -/

/-- A split that may issue is not PARKED (R322). -/
theorem not_parked_of_mayIssue {s : State} {e : Ex} (h : mayIssue s e = true) : e.x.st ≠ .parked := by
  intro hp
  simp [mayIssue, hp] at h

/-- Only a PARKED split keeps the word that a translation holds up (R401). -/
theorem keepWord_of_not_parked {s : State} {e : Ex} {x : Split} {w : Word}
    (hx : findSplit s e.x.tid e.x.gi e.x.rank = some x) (h : x.st ≠ .parked) : keepWord s e w = s := by
  simp [keepWord, hx, h]

/-- The split after a prefix word: f fills its slot of the latch, and the split moves on (R66). -/
def latchNext (e : Ex) (f : Split → Split) (x : Split) : Split := { f x with pc := e.x.pc + 4#64 }

/-- The machine after a prefix word of a split: the latched split, and its team one word on (R362). -/
def latchedState (s : State) (e : Ex) (f : Split → Split) : State :=
  updTeam (setSplit (tidy s) e (latchNext e f)) e.x.tid counted

/-- The body of a prefix word, on the tidied state that a word starts from. -/
theorem latched_tidy (s : State) (e : Ex) (f : Split → Split) : latched (tidy s) e f = .moved (latchedState s e f) := rfl

theorem lsSettled_of_runs {s : State} {e : Ex} {i : Instr} (h : runs s e i = true) : lsSettled s = true := by
  obtain ⟨-, -, -, -, -, -, -, -, -, -, hls⟩ := runs_iff.1 h
  exact hls

theorem lsSettled_latchedState {s : State} {e : Ex} {f : Split → Split} (h : lsSettled s = true) :
    lsSettled (latchedState s e f) = true :=
  lsSettled_updTeam ((lsSettled_congr (s := s) (t := setSplit (tidy s) e (latchNext e f)) rfl).trans h) fun _ => rfl

/-- A prefix word that runs changes its split, as `latchNext` says, counts for its team (R362), and leaves everything else. -/
theorem latched_word {s : State} {e : Ex} {i : Instr} {f : Split → Split} (he : exOf s = some e) (h : runs s e i = true)
    (hk : ∀ x, (f x).tid = x.tid ∧ (f x).gi = x.gi ∧ (f x).rank = x.rank) (hst : ∀ x, (f x).st = x.st) :
    ∃ t, groupWord i (fun e s => latched s e f) s = .next t ∧
      onlySplit s t e ⟨e.lch, counted e.tm, e.g, latchNext e f e.x⟩ := by
  obtain ⟨-, hat, -⟩ := exOf_cur he
  obtain ⟨-, -, -, hx⟩ := exAt_iff.1 hat
  have hfind : findSplit (latchedState s e f) e.x.tid e.x.gi e.x.rank = some (latchNext e f e.x) :=
    (findSplit_updSplit (s := tidy s) (f := latchNext e f) hk).trans
      (by rw [show findSplit (tidy s) _ _ _ = _ from hx]; rfl)
  have hkeep : keepWord (latchedState s e f) e (wordOf i) = latchedState s e f :=
    keepWord_of_not_parked hfind ((hst e.x).trans_ne (not_parked_of_mayIssue (runs_iff.1 h).1))
  have hword := groupWord_moved (body := fun e s => latched s e f) he h (latched_tidy s e f) hkeep rfl
    (fun _ _ => List.not_mem_nil) (lsSettled_latchedState (lsSettled_of_runs h))
  obtain ⟨hex, hframe⟩ := exOf_after (t := tidy (latchedState s e f)) (fg := id) (fx := latchNext e f) (ft := counted) he
    rfl rfl (updBy_id (fun _ _ => rfl) _).symm rfl rfl (fun _ => ⟨rfl, rfl⟩) hk (fun _ => ⟨rfl, rfl⟩)
  exact ⟨_, hword, hex, rfl, rfl, hframe⟩

/-- NOP in a split that runs it: the latch is consumed and nothing else changes (R73). -/
theorem nop_word {s : State} {e : Ex} (he : exOf s = some e) (h : runs s e .nop = true) :
    ∃ t, exec .nop s = .next t ∧ groupOnly s t e ⟨e.lch, counted e.tm, e.g, retired e.x (e.x.pc + 4#64)⟩ := by
  obtain ⟨hcur, -⟩ := exOf_cur he
  have hword := groupWord_done (body := fun _ s => .done s) (r := tidy s) he h rfl rfl rfl
    (fun _ _ => List.not_mem_nil) (lsSettled_of_runs h)
  have hframe := groupOnly_complete (r := tidy s) (fg := id) he (fun _ => ⟨rfl, rfl⟩) (updBy_id (fun _ _ => rfl) _).symm rfl
  exact ⟨_, (runWord_split hcur).trans hword, hframe⟩

/-! ## A word of a stream that only moves its sequencer -/

/-- The frame of a stream word that updates its own team alone: the sequencer sees the updated team, every other keeps its own. -/
theorem updTeam_streamFrame {s : State} {x : Sx} {f : Team → Team} (hx : sxOf s x.tm.tid = some x)
    (hf : ∀ u, (f u).tid = u.tid ∧ (f u).launch = u.launch) :
    let t := tidy (updTeam (tidy s) x.tm.tid f)
    sxOf t x.tm.tid = some ⟨x.lch, f x.tm⟩ ∧ t = { s with teams := t.teams, fx := [], devFail := none } ∧
      ∀ tid, tid ≠ x.tm.tid → findTeam t tid = findTeam s tid := by
  obtain ⟨htm, hl⟩ := sxOf_iff.1 hx
  refine ⟨sxOf_iff.2 ⟨?_, ?_⟩, rfl, fun tid hne => findTeam_updTeam_ne (s := tidy s) (fun u => (hf u).1) hne⟩
  · exact (findTeam_updTeam (s := tidy s) fun u => (hf u).1).trans
      (by rw [show findTeam (tidy s) x.tm.tid = _ from htm]; rfl)
  · rw [(hf x.tm).2]; exact hl

/-- A word of both agents that runs in a stream and ends as an update of its own team. -/
theorem stream_updTeam_word {s : State} {x : Sx} {i : Instr} {body : Ex → State → Res} {sbody : Sx → State → SRes}
    {f : Team → Team} (hc : s.cur = .stream x.tm.tid) (hx : sxOf s x.tm.tid = some x) (h : streamRuns s x i = true)
    (hs : streamSettle (tidy s) x (wordOf i) (sbody x (tidy s)) = updTeam (tidy s) x.tm.tid f)
    (hf : ∀ u, (f u).tid = u.tid ∧ (f u).launch = u.launch) :
    ∃ t x', runWord i (wordOf i) false body sbody s = .next t ∧ sxOf t x.tm.tid = some x' ∧ x'.lch = x.lch ∧
      x'.tm = f x.tm ∧ t = { s with teams := t.teams, fx := [], devFail := none } ∧
      ∀ tid, tid ≠ x.tm.tid → findTeam t tid = findTeam s tid := by
  obtain ⟨hsx, hrest, hother⟩ := updTeam_streamFrame hx hf
  exact ⟨_, _, (runWord_stream hc).trans ((streamWord_runs hc hx h).trans (by rw [hs])), hsx, rfl, rfl, hrest, hother⟩

/-! ## The words themselves -/

theorem wordOf_imm (v : BitVec 24) : wordOf (.imm v) = 0x01000000#32 ||| v.setWidth 32 := by
  have hop : 0x01000000#32 = 0x01#8 ++ 0#24 := by decide
  have hlow : v.setWidth 32 = 0#8 ++ v := by
    refine BitVec.eq_of_toNat_eq ?_
    rw [BitVec.toNat_append, BitVec.toNat_setWidth, Nat.mod_eq_of_lt (by omega)]
    simp
  calc wordOf (.imm v)
    _ = (0x01#8 ||| 0#8) ++ (0#24 ||| v) := by rw [BitVec.or_zero, BitVec.zero_or]; rfl
    _ = (0x01#8 ++ 0#24) ||| (0#8 ++ v) := BitVec.or_append.symm
    _ = 0x01000000#32 ||| v.setWidth 32 := by rw [hop, hlow]

/-- A word of opcode 0x04 is NOP only with every other bit 0 (R73). -/
theorem decode_nop_iff (n : BitVec 24) : decode (0x04#8 ++ n) = if n = 0#24 then some .nop else none := by
  obtain ⟨hop, hlow⟩ := Encoding.fields_8_24 0x04#8 n
  rw [Encoding.decode_eq hop (by decide)]
  have hrow : Encoding.rows 0x04#8 (0x04#8 ++ n) = fixedBits (0x04#8 ++ n) 0xFFFFFFFF#32 0x04000000#32 .nop := rfl
  have hones : (0x04#8 ++ n) &&& 0xFFFFFFFF#32 = 0x04#8 ++ n := BitVec.and_allOnes
  have hzero : 0x04#8 ++ n = 0x04000000#32 ↔ n = 0#24 :=
    ⟨fun h => by rw [← hlow, h]; decide, fun h => by rw [h]; decide⟩
  rw [hrow, fixedBits, hones]
  exact if_congr hzero rfl rfl

/-- The opcode alone is left when every other bit of a word is masked. -/
theorem append_and_opcodeMask (x : BitVec 8) (n : BitVec 24) : (x ++ n) &&& 0xFF000000#32 = x ++ 0#24 := by
  have hmask : 0xFF000000#32 = 0xFF#8 ++ 0#24 := by decide
  have hones : x &&& 0xFF#8 = x := BitVec.and_allOnes
  rw [hmask, Encoding.mask_8_24, hones, BitVec.and_zero]

/-- No bit beside NOP's opcode belongs to a field (R73). -/
theorem fieldBits_nop (n : BitVec 24) : fieldBits (0x04#8 ++ n) = 0xFF000000#32 := by
  unfold fieldBits
  rw [append_and_opcodeMask]
  decide

theorem nearestInstr_nop (n : BitVec 24) : nearestInstr (0x04#8 ++ n) = some .nop := by
  have hop : opcode (0x04#8 ++ n) = 4 := congrArg BitVec.toNat (Encoding.fields_8_24 0x04#8 n).1
  simp only [nearestInstr, hop, fieldBits_nop, append_and_opcodeMask, decode_nop_iff]
  simp

/-! ## Encoding faults (R72) -/

/-- An illegal prefix word, by its opcode and the bits it must leave alone. -/
theorem prefixReserved_of_prefixIllegal {w : Word} (h : prefixIllegal w) :
    (w.toNat / 2 ^ 24 = 2 ∨ w.toNat / 2 ^ 24 = 3) ∧ prefixReserved (w.toNat / 2 ^ 24) w = true := by
  have := w.isLt
  simp only [prefixIllegal, Nat.reducePow] at h this
  rcases h with ⟨hop, hbits⟩ | ⟨hop, hbits⟩
  · have hop : w.toNat / 2 ^ 24 = 2 := by omega
    refine ⟨.inl hop, ?_⟩
    simp only [prefixReserved, modReserved, bits, Nat.shiftRight_eq_div_pow, Nat.reducePow, Nat.reduceAdd,
      Nat.reduceSub, Bool.or_eq_true, Bool.and_eq_true, decide_eq_true_eq]
    omega
  · have hop : w.toNat / 2 ^ 24 = 3 := by omega
    refine ⟨.inr hop, ?_⟩
    simp only [prefixReserved, Nat.reducePow, Bool.or_eq_true, Bool.and_eq_true, decide_eq_true_eq]
    omega

/-- A prefix word of group code with nothing in the latch faults in one way alone (R60, R72). -/
theorem encodingCause_of_prefixReserved {h : Header} {b : Bool} {w : Word} {i : Instr}
    (hop : w.toNat / 2 ^ 24 = 2 ∨ w.toNat / 2 ^ 24 = 3) (hr : prefixReserved (w.toNat / 2 ^ 24) w = true) :
    encodingCause h false false b 0#32 0#32 0#32 w i = some (illField, w, 0#32) := by
  rcases hop with hop | hop <;>
  · rw [hop] at hr
    simp only [encodingCause, hop, hr]
    simp [reservedOp, streamOp]

/-- NOP has no operands, no fields and no prefix but HINT (R73). -/
theorem shape_nop (width : Nat) (mod : Word) (hs : Bool) : shape width mod hs .nop = {} := rfl

/-- A nonzero bit that NOP reserves raises ILL_FIELD (R73). -/
theorem encodingCause_nop_badField (h : Header) (n : BitVec 24) :
    encodingCause h false false true 0#32 0#32 0#32 (0x04#8 ++ n) .nop = some (illField, 0x04#8 ++ n, 0#32) := by
  have hop : (0x04#8 ++ n : Word).toNat / 2 ^ 24 = 4 := by
    rw [BitVec.toNat_append, ← Nat.shiftRight_eq_div_pow, Nat.shiftRight_or_distrib, Nat.shiftRight_eq_zero _ _ n.isLt]
    rfl
  simp only [encodingCause, hop, shape_nop]
  simp [reservedOp, streamOp, rejected]

/-- NOP accepts HINT alone (R73). -/
theorem legalWith_nop_iff (h : Header) (imm mod hint : Word) :
    legalWith h imm mod hint .nop ↔ imm = 0#32 ∧ mod = 0#32 := by
  have hop : (wordOf .nop).toNat / 2 ^ 24 = 4 := by decide
  simp only [legalWith, encodingCause, hop, shape_nop]
  by_cases hi : imm = 0#32 <;> by_cases hm : mod = 0#32 <;>
    simp [reservedOp, streamOp, rejected, prefixField, beyond, hi, hm]

end Sys2Proof.Machine

namespace Sys2Proof.Claims
open Sys2Proof.Machine

/-- Settles O7: each word by the lemma of its agent and its effect, and the encodings by the opcode's row. -/
theorem prefixAndNop : Obligations.PrefixAndNop := by
  unfold Obligations.PrefixAndNop
  refine ⟨?split, ?stream, decode_nop_iff, fun n h => ⟨nearestInstr_nop n, encodingCause_nop_badField h n⟩, ?illegal,
    legalWith_nop_iff⟩
  case split =>
    intro s e i he hruns
    obtain ⟨hcur, -⟩ := exOf_cur he
    refine ⟨?_, ?_, ?_, ?_⟩
    · rintro v rfl
      obtain ⟨t, ht, hframe⟩ := latched_word (f := fun x => { x with imm := wordOf (.imm v) }) he hruns
        (fun _ => ⟨rfl, rfl, rfl⟩) fun _ => rfl
      exact ⟨t, _, (runWord_split hcur).trans ht, hframe, rfl, rfl, by rw [← wordOf_imm]; rfl⟩
    · rintro sa c n m a b k r q g o rfl
      obtain ⟨t, ht, hframe⟩ := latched_word (f := fun x => { x with mod := wordOf (.mod sa c n m a b k r q g o) }) he hruns
        (fun _ => ⟨rfl, rfl, rfl⟩) fun _ => rfl
      exact ⟨t, _, ht, hframe, rfl, rfl, rfl⟩
    · rintro st y a b c rfl
      obtain ⟨t, ht, hframe⟩ := latched_word (f := fun x => { x with hint := wordOf (.hint st y a b c) }) he hruns
        (fun _ => ⟨rfl, rfl, rfl⟩) fun _ => rfl
      exact ⟨t, _, (runWord_split hcur).trans ht, hframe, rfl, rfl, rfl⟩
    · rintro rfl
      obtain ⟨t, ht, hframe, hx, htm⟩ := nop_word he hruns
      exact ⟨t, _, ht, hframe, rfl, htm, hx⟩
  case stream =>
    intro s x i hcur hx hruns
    refine ⟨?_, ?_, ?_⟩
    · rintro v rfl
      rw [← wordOf_imm]
      exact stream_updTeam_word
        (f := fun u => { counted u with seqImm := wordOf (.imm v), seqPc := x.tm.seqPc + 4#64 }) hcur hx hruns rfl
        fun _ => ⟨rfl, rfl⟩
    · rintro st y a b c rfl
      exact stream_updTeam_word
        (f := fun u => { counted u with seqHint := wordOf (.hint st y a b c), seqPc := x.tm.seqPc + 4#64 }) hcur hx hruns rfl
        fun _ => ⟨rfl, rfl⟩
    · rintro rfl
      exact stream_updTeam_word
        (f := fun u => { counted u with seqImm := 0#32, seqMod := 0#32, seqHint := 0#32, seqPc := x.tm.seqPc + 4#64 })
        hcur hx hruns rfl fun _ => ⟨rfl, rfl⟩
  case illegal =>
    intro h w b i hw
    obtain ⟨hop, hr⟩ := prefixReserved_of_prefixIllegal hw
    exact encodingCause_of_prefixReserved hop hr

end Sys2Proof.Claims
end

section
/-! SUPPORT. VSEL.Pk (R184): what committing one result per active lane leaves of the group, the tag of the selected
operand, the row of the opcode, and what the word accepts. -/

namespace Sys2Proof.Machine
open Sys2Proof.Laws Sys2Proof.Claims

/-! ## One result in each active lane

The lemmas of `commitGroup` for a word whose lanes each give one single result: lane j's result is `f j`. -/

section
variable {e : Ex} {f : Nat → LaneOut} (hlane : ∀ j, (f j).lane = j)
include hlane

/-- A lane that is not active has no result among those of the active lanes. -/
theorem lane_ne_of_not_active {j : Nat} (hj : j ∉ e.lanes) : ∀ o ∈ e.lanes.map f, o.lane ≠ j := by
  intro o ho
  obtain ⟨k, hk, rfl⟩ := List.mem_map.1 ho
  rw [hlane k]
  rintro rfl
  exact hj hk

theorem vreg_commitGroup_lane {d : Nat} {cls : TagClass} {g : Group} {j : Nat} (hhi : ∀ j, (f j).hi = none)
    (hj : j ∈ e.lanes) :
    vreg (commitGroup e d cls (e.lanes.map f) g) d j = ((f j).lo, plainTag e cls (f j)) := by
  have hsingle : ∀ o ∈ e.lanes.map f, o.hi = none := List.forall_mem_map.2 fun k _ => hhi k
  have hcell := vreg_commitGroup (e := e) (d := d) (cls := cls) (g := g) (lanes_map_nodup hlane) (lanes_map_lt hlane)
    hsingle (List.mem_map_of_mem hj)
  rwa [hlane j] at hcell

/-- Every other register, and the destination in a lane that is not active, keep their cells. -/
theorem vectorsBut_commitGroup {d : Nat} {cls : TagClass} {g : Group} (hhi : ∀ j, (f j).hi = none) :
    vectorsBut g (commitGroup e d cls (e.lanes.map f) g) [d] e.lanes := by
  intro r i hi hout
  refine vreg_commitGroup_out hi (lanes_map_lt hlane) (List.forall_mem_map.2 fun k hk hki => ⟨?_, by simp [hhi k]⟩)
  rintro rfl
  rw [hlane k] at hki
  exact hout ⟨List.mem_singleton_self r, hki ▸ hk⟩

/-- Results without events leave the status as it is. -/
theorem lstat_commitGroup_quiet {d : Nat} {cls : TagClass} {g : Group} (hq : ∀ j, plainStatus (f j) = 0#32) (j : Nat) :
    lstatOf (commitGroup e d cls (e.lanes.map f) g) j = lstatOf g j := by
  by_cases hj : j ∈ e.lanes
  · have hstat := lstat_commitGroup (e := e) (d := d) (cls := cls) (g := g) (lanes_map_nodup hlane) (List.mem_map_of_mem hj)
    rw [hlane j, hq j] at hstat
    simpa using hstat
  · exact lstat_commitGroup_out (lane_ne_of_not_active hlane hj)

/-- Where each lane's result holds the dice state x j after its draws, the active lanes take it and no other does. -/
theorem dice_commitGroup_drawn {d : Nat} {cls : TagClass} {x : Nat → Word} (hx : ∀ j, (f j).dice = drawn e j (x j))
    (j : Nat) :
    diceOf (commitGroup e d cls (e.lanes.map f) e.g) j = if j ∈ e.lanes then x j else diceOf e.g j := by
  split
  · next hj =>
    have hdice := dice_commitGroup (e := e) (d := d) (cls := cls) (g := e.g) (lanes_map_nodup hlane) (List.mem_map_of_mem hj)
    rw [hlane j, hx j, drawn_getD] at hdice
    exact hdice
  · next hj => exact dice_commitGroup_out (lane_ne_of_not_active hlane hj)

end

/-- The dice state after a lane's two operands are read: one draw for each %dice among them, a first (R19). -/
theorem lanePair_dice {e : Ex} {ta tb : OpType} {a b : BitVec 8} {j : Nat} :
    (lanePair e ta tb a.toNat b.toNat j).2.2 = Claims.diceAfter e j [a, b] := by
  have hcode : ∀ c : BitVec 8, c.toNat = 0xF7 ↔ c = 0xF7#8 := fun c => BitVec.toNat_inj (y := 0xF7#8)
  by_cases ha : a = 0xF7#8 <;> by_cases hb : b = 0xF7#8 <;> simp [lanePair, Claims.diceAfter, hcode, ha, hb]

/-! ## The tag of one source -/

/-- A source named twice is one source: no rule tells the two apart (R38). -/
theorem ruleTag_twice (rule : Nat) (cls : TagClass) (own t ta tb old : Tag) :
    ruleTag rule cls own [t, t] ta tb old = ruleTag rule cls own [t] ta tb old := by
  have hproduce : produce [t, t] own false = produce [t] own false := by
    cases hcap : t.getLsbD 15 <;> simp [produce, -BitVec.getLsbD_eq_getElem, hcap]
  simp only [ruleTag, applyRule, hproduce, List.contains_cons, List.contains_nil, Bool.or_false, Bool.or_self]

/-- POISON in the only source gives POISON under every rule (R38). -/
theorem ruleTag_poison (rule : Nat) (cls : TagClass) (own ta tb old : Tag) :
    ruleTag rule cls own [poison] ta tb old = poison := by
  simp [ruleTag, applyRule]

/-- The class default CARRY-A carries the tag of a (R39). -/
theorem ruleTag_carryA_default (own t tb old : Tag) : ruleTag 0 .carryA own [t] t tb old = t := by
  by_cases ht : t = poison
  · rw [ht, ruleTag_poison]
  · simp [ruleTag, applyRule, Ne.symm ht]

/-- A constant has the tag UNMARKED (R54). -/
theorem operand_constant_tag {e : Ex} {ty : OpType} {c i : Nat} {x : Word} (hc : 0xF0 ≤ c) :
    (operand e ty c i x).2 = 0#16 := by
  unfold operand
  rw [if_neg (by omega), if_neg (by omega)]

/-! ## The selected operand -/

/-- The operand that a lane's bit of Pk selects (R184). -/
def selectedCell (e : Ex) (p : BitVec 3) (a b : BitVec 8) (j : Nat) : Cell :=
  if predBit e.g p.toNat j then (lanePair e .int .int a.toNat b.toNat j).1 else (lanePair e .int .int a.toNat b.toNat j).2.1

/-- What a lane of VSEL.Pk gives. -/
def selectLane (p : BitVec 3) (d a b : BitVec 8) (e : Ex) (j : Nat) : LaneOut :=
  { lane := j, lo := (selectedCell e p a b j).1, result := (selectedCell e p a b j).1, a := some (selectedCell e p a b j)
    b := some (selectedCell e p a b j), old := (vreg e.g d.toNat j).2
    dice := drawn e j (lanePair e .int .int a.toNat b.toNat j).2.2 }

theorem exec_vselPk (p : BitVec 3) (d a b : BitVec 8) (s : State) :
    exec (.vselPk p d a b) s = plainWord (.vselPk p d a b)
      (fun e s => commitLanes s e d.toNat .carryA false (e.lanes.map (selectLane p d a b e))) s := rfl

/-- The tag rule over the selected operand alone (R184: Rule(own; t)). -/
theorem plainTag_selectLane (p : BitVec 3) (d a b : BitVec 8) (e : Ex) (j : Nat) :
    plainTag e .carryA (selectLane p d a b e j) = ruleTag (ruleOf e) .carryA (own e) [(selectedCell e p a b j).2]
      (selectedCell e p a b j).2 (selectedCell e p a b j).2 (vreg e.g d.toNat j).2 :=
  ruleTag_twice ..

/-- A lane of VSEL.Pk records nothing. -/
theorem plainStatus_selectLane (p : BitVec 3) (d a b : BitVec 8) (e : Ex) (j : Nat) :
    plainStatus (selectLane p d a b e j) = 0#32 := by
  have hev : evWord {} = 0#32 := by decide
  simp [plainStatus, selectLane, LaneOut.causes, hev]

theorem selectedCell_constant_tag {e : Ex} {p : BitVec 3} {a b : BitVec 8} {j : Nat}
    (hc : 0xF0 ≤ (if predBit e.g p.toNat j then a else b).toNat) : (selectedCell e p a b j).2 = 0#16 := by
  unfold selectedCell
  split at hc
  · next hbit => rw [if_pos hbit]; exact operand_constant_tag hc
  · next hbit => rw [if_neg hbit]; exact operand_constant_tag hc

/-- VSEL.Pk in a split that runs it: the group takes the lanes' results, and nothing else changes (R184). -/
theorem vselPk_word {s : State} {e : Ex} {p : BitVec 3} {d a b : BitVec 8} (he : exOf s = some e)
    (h : runs s e (.vselPk p d a b) = true) :
    ∃ t, exec (.vselPk p d a b) s = .next t ∧
      groupOnly s t e ⟨e.lch, counted e.tm, commitGroup e d.toNat .carryA (e.lanes.map (selectLane p d a b e)) e.g,
        retired e.x (e.x.pc + 4#64)⟩ := by
  rw [exec_vselPk]
  exact commitLanes_word (outs := fun e => e.lanes.map (selectLane p d a b e)) he h fun k =>
    List.forall_mem_map.2 fun j _ => not_capturable_of_born rfl

/-! ## The encoding -/

/-- The opcode of VSEL.Pk is 0x58 + k (R184). -/
theorem fld_opcode_vselPk (p : BitVec 3) (d a b : BitVec 8) : fld (0xB#5 ++ p ++ d ++ a ++ b) 24 8 = 0xB#5 ++ p := by
  have hsplit : 0xB#5 ++ p ++ d ++ a ++ b = (0xB#5 ++ p) ++ (d ++ a ++ b) := by
    simp only [BitVec.append_assoc, BitVec.cast_eq]
  rw [hsplit]
  simp (disch := decide) only [fld, BitVec.extractLsb'_append_eq_of_le]
  exact BitVec.extractLsb'_eq_self

/-- A word of a reserved opcode is the row RESERVED_OPCODE (R72). -/
theorem decode_of_reservedOp {w : BitVec 32} (h : reservedOp (opcode w) = true) : decode w = some (.reservedOpcode w) := by
  rw [decode, decodeWord, if_pos h]; rfl

/-- The opcode 0x58 is reserved, and the seven after it are VSEL's, each with its predicate (R184). -/
theorem decode_vselPk (p : BitVec 3) (d a b : BitVec 8) :
    decode (0xB#5 ++ p ++ d ++ a ++ b) =
      some (if p = 0#3 then .reservedOpcode (0x58#8 ++ d ++ a ++ b) else .vselPk p d a b) := by
  split
  · next hp =>
    subst hp
    have hop : opcode (0xB#5 ++ 0#3 ++ d ++ a ++ b) = 0x58 := congrArg BitVec.toNat (fld_opcode_vselPk 0#3 d a b)
    exact decode_of_reservedOp (by rw [hop]; rfl)
  · next hp => exact Encoding.vselPk p d a b _ rfl (decide_eq_true hp)

/-! ## What the word accepts -/

theorem div_eq_opcode (w : Word) : w.toNat / 2 ^ 24 = opcode w := by
  rw [opcode, fld, BitVec.extractLsb'_toNat, Nat.shiftRight_eq_div_pow, Nat.mod_eq_of_lt]
  have := w.isLt
  omega

/-- The checks of R72 for a word of group code that is no prefix: its prefixes, its operands, its fields, its privilege and
its registers. -/
theorem encodingCause_eq_none_iff {h : Header} {hs : Bool} {imm mod hint w : Word} {i : Instr}
    (hres : reservedOp (opcode w) = false) (hstr : streamOp (opcode w) = false) (hpre : 3 < opcode w) :
    encodingCause h false hs false imm mod hint w i = none ↔
      rejected (shape h.width mod hs i) imm mod = 0 ∧ (shape h.width mod hs i).opOk = true ∧
        (shape h.width mod hs i).fieldOk = true ∧ prefixField (shape h.width mod hs i) imm mod = false ∧
        (shape h.width mod hs i).priv = false ∧ beyond h (shape h.width mod hs i).regs = none := by
  have hnot : ∀ n, n ≤ 3 → opcode w ≠ n := by omega
  simp only [encodingCause, div_eq_opcode, hres, hstr]
  generalize shape h.width mod hs i = sh
  cases hb : beyond h sh.regs <;> simp [hnot, ite_eq_iff, and_assoc]

/-- The MOD bits beside TRULE are 0 just when the payload is a TRULE field alone (R62). -/
theorem land_compl_mTrule_eq_zero_iff {m : Nat} (hm : m < 2 ^ 24) :
    m.land (0xFFFFFF - mTrule) = 0 ↔ ∃ r, r < 8 ∧ m = 128 * r := by
  constructor
  · intro h
    have hand : m &&& 0xFFFC7F = 0 := h
    have hlow : m % 2 ^ 7 = 0 := by
      calc m % 2 ^ 7
        _ = m &&& (0xFFFC7F &&& (2 ^ 7 - 1)) := (Nat.and_two_pow_sub_one_eq_mod m 7).symm
        _ = 0 := by rw [← Nat.and_assoc, hand, Nat.zero_and]
    have hhigh : (m >>> 10) % 2 ^ 14 = 0 := by
      calc (m >>> 10) % 2 ^ 14
        _ = (m >>> 10) &&& (0xFFFC7F >>> 10) := (Nat.and_two_pow_sub_one_eq_mod (m >>> 10) 14).symm
        _ = 0 := by rw [← Nat.shiftRight_and_distrib, hand, Nat.zero_shiftRight]
    rw [Nat.shiftRight_eq_div_pow] at hhigh
    exact ⟨m / 128, by omega, by omega⟩
  · rintro ⟨r, hr, rfl⟩
    revert r
    decide

theorem shape_vselPk (width : Nat) (mod : Word) (hs : Bool) (p : BitVec 3) (d a b : BitVec 8) :
    shape width mod hs (.vselPk p d a b) = shapeVI d.toNat a.toNat b.toNat := rfl

/-- A word with the shape of a vector integer word takes IMM only where a source field holds 0xF8, and takes MOD (R60, R61). -/
theorem rejected_shapeVI_iff {d a b : Nat} {imm mod : Word} :
    rejected (shapeVI d a b) imm mod = 0 ↔ imm = 0#32 ∨ a = 0xF8 ∨ b = 0xF8 := by
  by_cases hi : imm = 0#32
  · simp [rejected, shapeVI, mTrule, hi]
  · simp [rejected, shapeVI, mTrule, hi, eq_comm (a := 0xF8), or_iff_not_imp_left]

/-- A word whose IMM stands for a source refuses, of the prefix fields, the MOD bits that it does not accept (R61 to R63). -/
theorem prefixField_src_iff {sh : Shape} {imm mod : Word} (himm : sh.imm = .src) (hok : sh.modOk = true) :
    prefixField sh imm mod = false ↔ mod = 0#32 ∨ (mod.toNat % 2 ^ 24).land (0xFFFFFF - sh.mods) = 0 := by
  by_cases hm : mod = 0#32 <;> simp [prefixField, himm, hok, hm]

/-- Of the MOD fields a vector integer word takes TRULE alone (R63). -/
theorem prefixField_shapeVI_iff {d a b : Nat} {imm mod : Word} :
    prefixField (shapeVI d a b) imm mod = false ↔ mod = 0#32 ∨ truleAlone mod :=
  (prefixField_src_iff rfl rfl).trans
    (or_congr_right (land_compl_mTrule_eq_zero_iff (Nat.mod_lt mod.toNat (Nat.two_pow_pos 24))))

/-- A source code of R54 is a 32-bit integer source, but for the constant 0xF3 (R55). -/
theorem srcI_of_sourceIn {h : Header} {c : Nat} (hc : sourceIn h c) (h3 : c ≠ 0xF3) : srcI c = true := by
  have hle : c ≤ 0xF8 := by unfold sourceIn at hc; omega
  simp [srcI, hle, h3]

theorem beyond_append_eq_none_iff {h : Header} {rs qs : List (Nat × Nat)} :
    beyond h (rs ++ qs) = none ↔ beyond h rs = none ∧ beyond h qs = none := by
  simp [beyond]

/-- The register that a source code names is one the group has (R57). -/
theorem beyond_regsAt_of_sourceIn {h : Header} {c : Nat} (hc : sourceIn h c) : beyond h (regsAt c 1) = none := by
  rcases hc with ⟨hv, hr⟩ | ⟨hs, hlt, hr⟩ | ⟨hconst, -⟩
  · have hreg : c < 0xF0 := by omega
    simp [beyond, regsAt, hreg, hv]; omega
  · have hnv : ¬c < 0xC0 := by omega
    simp [beyond, regsAt, hlt, hnv]; omega
  · have hno : ¬c < 0xF0 := by omega
    simp [beyond, regsAt, hno]

theorem beyond_shapeVI {h : Header} {d a b : Nat} (hd : d < 0xC0) (hdr : d < h.regs) (ha : sourceIn h a)
    (hb : sourceIn h b) : beyond h (shapeVI d a b).regs = none := by
  have hdest : beyond h (regsAt d 1) = none := beyond_regsAt_of_sourceIn (.inl ⟨hd, hdr⟩)
  have hregs : (shapeVI d a b).regs = regsAt d 1 ++ regsAt a 1 ++ regsAt b 1 := by
    have hreg : d < 0xF0 := by omega
    simp [shapeVI, regsAt, hreg]
  rw [hregs, beyond_append_eq_none_iff, beyond_append_eq_none_iff]
  exact ⟨⟨hdest, beyond_regsAt_of_sourceIn ha⟩, beyond_regsAt_of_sourceIn hb⟩

/-- With legal operands VSEL accepts IMM where a source is 0xF8, MOD TRULE and HINT (R184). -/
theorem legalWith_vselPk_iff {h : Header} {imm mod hint : Word} {p : BitVec 3} {d a b : BitVec 8} (hp : p ≠ 0#3)
    (hop : (shapeVI d.toNat a.toNat b.toNat).opOk = true) (hregs : beyond h (shapeVI d.toNat a.toNat b.toNat).regs = none) :
    legalWith h imm mod hint (.vselPk p d a b) ↔
      (imm = 0#32 ∨ a.toNat = 0xF8 ∨ b.toNat = 0xF8) ∧ (mod = 0#32 ∨ truleAlone mod) := by
  have hcode : opcode (wordOf (.vselPk p d a b)) = (0xB#5 ++ p).toNat := congrArg BitVec.toNat (fld_opcode_vselPk p d a b)
  have hgroup : ∀ p : BitVec 3, p ≠ 0#3 → reservedOp (0xB#5 ++ p).toNat = false ∧
      streamOp (0xB#5 ++ p).toNat = false ∧ 3 < (0xB#5 ++ p).toNat := by decide
  obtain ⟨hres, hstr, hpre⟩ := hcode ▸ hgroup p hp
  have hfield : (shapeVI d.toNat a.toNat b.toNat).fieldOk = true := rfl
  have hpriv : (shapeVI d.toNat a.toNat b.toNat).priv = false := rfl
  rw [legalWith, encodingCause_eq_none_iff hres hstr hpre, shape_vselPk]
  simp only [hop, hregs, hfield, hpriv, rejected_shapeVI_iff, prefixField_shapeVI_iff, true_and, and_true]

end Sys2Proof.Machine

namespace Sys2Proof.Claims
open Sys2Proof.Machine

/-- Settles O5: the word by the lane results it commits, the tag by the rule over the selected operand alone, and the
encoding by the opcode's rows and the checks of R72. -/
theorem selectWord : Obligations.SelectWord := by
  unfold Obligations.SelectWord
  refine ⟨?word, decode_vselPk, ?legal⟩
  case word =>
    intro s e p d a b he hruns
    obtain ⟨t, ht, hframe⟩ := vselPk_word he hruns
    have hcell : ∀ j ∈ e.lanes, vreg (commitGroup e d.toNat .carryA (e.lanes.map (selectLane p d a b e)) e.g) d.toNat j =
        ((selectedCell e p a b j).1, ruleTag (ruleOf e) .carryA (own e) [(selectedCell e p a b j).2] (selectedCell e p a b j).2
          (selectedCell e p a b j).2 (vreg e.g d.toNat j).2) := by
      intro j hj
      rw [vreg_commitGroup_lane (fun _ => rfl) (fun _ => rfl) hj, plainTag_selectLane]
      rfl
    refine ⟨t, _, ht, hframe, commitGroup_frame .., hcell, ?poison, ?constant,
      vectorsBut_commitGroup (fun _ => rfl) fun _ => rfl,
      lstat_commitGroup_quiet (f := selectLane p d a b e) (fun _ => rfl) (plainStatus_selectLane p d a b e), ?dice⟩
    case poison =>
      intro j hj hpoison
      have hsel : (selectedCell e p a b j).2 = poison := hpoison
      rw [hcell j hj, hsel, ruleTag_poison]
    case constant =>
      intro j hj hrule hconst
      rw [hcell j hj, hrule, ruleTag_carryA_default]
      exact selectedCell_constant_tag hconst
    case dice =>
      intro j
      rw [dice_commitGroup_drawn (fun _ => rfl) (fun _ => rfl) j, lanePair_dice]
  case legal =>
    intro h imm mod hint p d a b hp hd hdr ha hb ha3 hb3
    have hcode : ∀ c n : BitVec 8, c.toNat = n.toNat ↔ c = n := fun _ _ => BitVec.toNat_inj
    have hsrc : ∀ c, sourceIn h c.toNat → c ≠ 0xF3#8 → srcI c.toNat = true :=
      fun c hc hc3 => srcI_of_sourceIn hc (mt (hcode c 0xF3#8).1 hc3)
    have hop : (shapeVI d.toNat a.toNat b.toNat).opOk = true := by
      simp [shapeVI, isV, hd, hsrc a ha ha3, hsrc b hb hb3]
    have hregs := beyond_shapeVI hd hdr ha hb
    exact (legalWith_vselPk_iff hp hop hregs).trans
      (and_congr_left' (or_congr_right (or_congr (hcode a 0xF8#8) (hcode b 0xF8#8))))

end Sys2Proof.Claims
end

section
/-! SUPPORT. FCLASS and DICE (R197, R207): a word whose lanes give results and record nothing, the class of an FP32 code, the
draw of a lane, MFSR of %dice, and what the two words accept. -/

namespace Sys2Proof.Machine
open Sys2Proof.Laws Sys2Proof.Claims

/-! ## Lane results that record nothing -/

/-- Lane results, one single result for each lane, with no event and no birth. -/
structure QuietLanes (f : Nat → LaneOut) : Prop where
  lane : ∀ j, (f j).lane = j
  single : ∀ j, (f j).hi = none
  noEvent : ∀ j, (f j).ev = {}
  noBirth : ∀ j, (f j).born = {}

section
variable {e : Ex} {f : Nat → LaneOut} (hf : QuietLanes f)
include hf

theorem QuietLanes.causes (j : Nat) : (f j).causes = [] := by
  simp [LaneOut.causes, hf.noBirth j]

theorem QuietLanes.plainStatus (j : Nat) : plainStatus (f j) = 0#32 := by
  have hev : evWord {} = 0#32 := by decide
  simp [Machine.plainStatus, hf.noEvent j, hf.causes j, hev]

/-- Such results reach the vector registers and the dice states of the group alone. -/
theorem QuietLanes.commitGroup_frame (d : Nat) (cls : TagClass) (g : Group) :
    commitGroup e d cls (e.lanes.map f) g = { g with
      vregs := (commitGroup e d cls (e.lanes.map f) g).vregs, dice := (commitGroup e d cls (e.lanes.map f) g).dice } := by
  have hnone : ((e.lanes.map f).map fun o => (o.lane, Machine.plainStatus o)).filter (fun w => w.2 ≠ 0#32) = [] := by
    simp [List.filter_eq_nil_iff, hf.plainStatus]
  have hlstat : (commitGroup e d cls (e.lanes.map f) g).lstat = g.lstat := by
    simp only [commitGroup, hnone]
    rfl
  rw [Machine.commitGroup_frame, hlstat]

/-- An active lane keeps its draws, and no other lane draws. -/
theorem QuietLanes.dice_commitGroup (d : Nat) (cls : TagClass) (j : Nat) :
    diceOf (commitGroup e d cls (e.lanes.map f) e.g) j =
      if j ∈ e.lanes then (f j).dice.getD (diceOf e.g j) else diceOf e.g j := by
  split
  · next hj =>
    have hdice := Machine.dice_commitGroup (e := e) (d := d) (cls := cls) (g := e.g) (lanes_map_nodup hf.lane)
      (List.mem_map_of_mem hj)
    rwa [hf.lane j] at hdice
  · next hj => exact dice_commitGroup_out (lane_ne_of_not_active hf.lane hj)

end

/-- A word that runs and commits such results: each active lane takes its result with the rule's tag and keeps its draws, and
nothing else changes. -/
theorem quietLanes_word {s : State} {e : Ex} {i : Instr} {d : Nat} {cls : TagClass} {f : Ex → Nat → LaneOut}
    (he : exOf s = some e) (h : runs s e i = true) (hf : QuietLanes (f e)) :
    ∃ t e', plainWord i (fun e s => commitLanes s e d cls false (e.lanes.map (f e))) s = .next t ∧ groupOnly s t e e' ∧
      e'.g = { e.g with vregs := e'.g.vregs, dice := e'.g.dice } ∧ vectorsBut e.g e'.g [d] e.lanes ∧
      (∀ j ∈ e.lanes, vreg e'.g d j = ((f e j).lo, plainTag e cls (f e j))) ∧
      ∀ j, diceOf e'.g j = if j ∈ e.lanes then (f e j).dice.getD (diceOf e.g j) else diceOf e.g j := by
  obtain ⟨t, ht, hframe⟩ := commitLanes_word (d := d) (cls := cls) (f := false) (outs := fun e => e.lanes.map (f e)) he h
    fun _ => List.forall_mem_map.2 fun j _ => not_capturable_of_born (hf.causes j)
  exact ⟨t, _, ht, hframe, hf.commitGroup_frame d cls e.g, vectorsBut_commitGroup hf.lane hf.single,
    fun j hj => vreg_commitGroup_lane hf.lane hf.single hj, hf.dice_commitGroup d cls⟩

/-! ## FCLASS -/

/-- The dice state after a lane's one operand is read: a draw where it is %dice (R19). -/
theorem laneOne_dice {e : Ex} {ty : OpType} {a : BitVec 8} {j : Nat} :
    (laneOne e ty a.toNat j).2 = Claims.diceAfter e j [a] := by
  have hcode : a.toNat = 0xF7 ↔ a = 0xF7#8 := BitVec.toNat_inj (y := 0xF7#8)
  by_cases ha : a = 0xF7#8 <;> simp [laneOne, Claims.diceAfter, hcode, ha]

theorem laneOne_eq (e : Ex) (ty : OpType) (a : BitVec 8) (j : Nat) :
    laneOne e ty a.toNat j =
      (operand e ty a.toNat j (Claims.diceAfter e j [a]), Claims.diceAfter e j [a]) := by
  rw [← laneOne_dice (ty := ty)]
  rfl

/-- What a lane of FCLASS gives. -/
def fclassLane (d a : BitVec 8) (e : Ex) (j : Nat) : LaneOut :=
  { lane := j, lo := BitVec.ofNat 32 (2 ^ fclassBit (laneOne e .fp32 a.toNat j).1.1.toNat)
    result := BitVec.ofNat 32 (2 ^ fclassBit (laneOne e .fp32 a.toNat j).1.1.toNat)
    a := some (laneOne e .fp32 a.toNat j).1, old := (vreg e.g d.toNat j).2
    dice := drawn e j (laneOne e .fp32 a.toNat j).2 }

theorem exec_fclass (d a : BitVec 8) (s : State) :
    exec (.fclass d a) s = plainWord (.fclass d a)
      (fun e s => commitLanes s e d.toNat .produce false (e.lanes.map (fclassLane d a e))) s := rfl

theorem fclassLane_quiet (d a : BitVec 8) (e : Ex) : QuietLanes (fclassLane d a e) :=
  ⟨fun _ => rfl, fun _ => rfl, fun _ => rfl, fun _ => rfl⟩

/-- Produce over a alone (R197). -/
theorem plainTag_fclassLane (d a : BitVec 8) (e : Ex) (j : Nat) :
    plainTag e .produce (fclassLane d a e j) =
      ruleTag (ruleOf e) .produce (own e) [(laneOne e .fp32 a.toNat j).1.2] (laneOne e .fp32 a.toNat j).1.2 0#16
        (vreg e.g d.toNat j).2 := rfl

/-- The decoder's value of a 32-bit code falls into R197's class of that code: by the exponent's two special values, then
by the mantissa and the sign. -/
theorem fclassBit_eq_classBit {n : Nat} (hn : n < 2 ^ 32) : fclassBit n = classBit n := by
  have hsign : n / 2147483648 % 2 = 1 ↔ 2147483648 ≤ n := by omega
  have hquiet : n % 8388608 / 4194304 = 0 ↔ n % 8388608 < 4194304 := by omega
  by_cases htop : n / 8388608 % 256 = 255
  · by_cases hinf : n % 8388608 = 0
    · simp [fclassBit, classBit, decodeFp, Fmt.hasInf, Fmt.exp, Fmt.mant, htop, hinf, hsign]
    · simp [fclassBit, classBit, decodeFp, Fmt.hasInf, Fmt.exp, Fmt.mant, htop, hinf, hquiet]
  · by_cases hlow : n / 8388608 % 256 = 0
    · by_cases hzero : n % 8388608 = 0 <;>
        simp [fclassBit, classBit, decodeFp, isSubnormal, Fmt.exp, Fmt.mant, hlow, hzero, hsign]
    · simp [fclassBit, classBit, decodeFp, isSubnormal, Fmt.exp, Fmt.mant, htop, hlow, hsign]

/-! ## DICE -/

/-- What a lane of DICE gives. -/
def diceLane (d : BitVec 8) (e : Ex) (j : Nat) : LaneOut :=
  { lane := j, lo := diceStep (diceOf e.g j), result := diceStep (diceOf e.g j), old := (vreg e.g d.toNat j).2
    dice := some (diceStep (diceOf e.g j)) }

theorem exec_dice (d : BitVec 8) (s : State) :
    exec (.dice d) s = plainWord (.dice d)
      (fun e s => commitLanes s e d.toNat .produce false (e.lanes.map (diceLane d e))) s := rfl

theorem diceLane_quiet (d : BitVec 8) (e : Ex) : QuietLanes (diceLane d e) :=
  ⟨fun _ => rfl, fun _ => rfl, fun _ => rfl, fun _ => rfl⟩

/-- A draw has no source (R207). -/
theorem plainTag_diceLane (d : BitVec 8) (e : Ex) (j : Nat) :
    plainTag e .produce (diceLane d e j) =
      ruleTag (ruleOf e) .produce (own e) [] 0#16 0#16 (vreg e.g d.toNat j).2 := rfl

/-! ## MFSR of %dice -/

theorem exec_mfsr_dice (d : BitVec 8) (s : State) :
    exec (.mfsr d 0x0D#8) s = plainWord (.mfsr d 0x0D#8)
      (fun e s => putV s e (e.lanes.map fun j => (d.toNat * 64 + j, (diceOf e.g j, own e)))) s := rfl

/-- A word that runs and only writes vector cells. -/
theorem putV_word {s : State} {e : Ex} {i : Instr} {ws : Ex → List (Nat × Cell)} (he : exOf s = some e)
    (h : runs s e i = true) :
    ∃ t, plainWord i (fun e s => putV s e (ws e)) s = .next t ∧
      groupOnly s t e ⟨e.lch, counted e.tm, writeCells e.g (ws e), retired e.x (e.x.pc + 4#64)⟩ := by
  have hword := groupWord_done (body := fun e s => .done (putV s e (ws e))) (r := putV (tidy s) e (ws e)) he h rfl rfl rfl
    (by simp [putV, tidy]) ((lsSettled_congr (s := s) (t := putV (tidy s) e (ws e)) rfl).trans (lsSettled_of_runs h))
  exact ⟨_, hword, groupOnly_complete (fg := fun g => writeCells g (ws e)) he (fun _ => ⟨rfl, rfl⟩) rfl rfl⟩

/-! ## What the words accept -/

/-- A word whose IMM stands for a source, and which takes a MOD field, refuses only an IMM without a source 0xF8 (R61). -/
theorem rejected_src_iff {sh : Shape} {imm mod : Word} (himm : sh.imm = .src) (hmods : sh.mods ≠ 0) :
    rejected sh imm mod = 0 ↔ imm = 0#32 ∨ 0xF8 ∈ sh.srcs := by
  by_cases hi : imm = 0#32 <;> simp [rejected, himm, hmods, hi]

/-- A word that takes no IMM, and takes a MOD field, refuses only an IMM (R60). -/
theorem rejected_none_iff {sh : Shape} {imm mod : Word} (himm : sh.imm = .none) (hmods : sh.mods ≠ 0) :
    rejected sh imm mod = 0 ↔ imm = 0#32 := by
  by_cases hi : imm = 0#32 <;> simp [rejected, himm, hmods, hi]

theorem mTrule_ne_zero : mTrule ≠ 0 := by decide

/-- A MOD that holds a TRULE field alone names no rounding mode (R62). -/
theorem modRnd_of_truleAlone {mod : Word} (h : truleAlone mod) : modRnd mod = 0 := by
  obtain ⟨r, hr, hmod⟩ := h
  simp only [modRnd, bits, Nat.shiftRight_eq_div_pow]
  omega

/-- Of the MOD fields a word of TRULE alone takes no other, where its own check of RND lets TRULE alone pass (R63). -/
theorem prefixField_trule_iff {sh : Shape} {imm mod : Word} (himm : sh.imm = .src ∨ sh.imm = .none)
    (hmods : sh.mods = mTrule) (hok : truleAlone mod → sh.modOk = true) :
    prefixField sh imm mod = false ↔ mod = 0#32 ∨ truleAlone mod := by
  have htrule : (mod.toNat % 2 ^ 24).land (0xFFFFFF - mTrule) = 0 ↔ truleAlone mod :=
    land_compl_mTrule_eq_zero_iff (Nat.mod_lt mod.toNat (Nat.two_pow_pos 24))
  by_cases hm : mod = 0#32
  · rcases himm with himm | himm <;> simp [prefixField, himm, hm]
  · have hfield : prefixField sh imm mod = false ↔
        (mod.toNat % 2 ^ 24).land (0xFFFFFF - mTrule) = 0 ∧ sh.modOk = true := by
      rcases himm with himm | himm <;> simp [prefixField, himm, hm, hmods]
    rw [hfield, htrule, or_iff_right hm, and_iff_left_iff_imp]
    exact hok

theorem shape_fclass (width : Nat) (mod : Word) (hs : Bool) (d a : BitVec 8) :
    shape width mod hs (.fclass d a) = shapeFp mod mTrule d.toNat 1 [(a.toNat, srcF a.toNat)] 1 := rfl

/-- What the checks of R72 know of DICE: a vector destination, and TRULE of the MOD fields. -/
def shapeDice (d : Nat) : Shape := { mods := mTrule, opOk := isV d, regs := [(d, 1)] }

theorem shape_dice (width : Nat) (mod : Word) (hs : Bool) (d : BitVec 8) :
    shape width mod hs (.dice d) = shapeDice d.toNat := rfl

/-- Every source code of R54 is a floating-point source (R55). -/
theorem srcF_of_sourceIn {h : Header} {c : Nat} (hc : sourceIn h c) : srcF c = true := by
  unfold sourceIn at hc
  exact decide_eq_true (by omega)

theorem regsAt_of_vector {d n : Nat} (hd : d < 0xC0) : regsAt d n = [(d, n)] := if_pos (by omega)

section
variable {h : Header} {imm mod hint : Word} {d a : BitVec 8} (hd : d.toNat < 0xC0) (hdr : d.toNat < h.regs)
include hd hdr

/-- A vector destination that the group has is within its registers (R57). -/
theorem beyond_vector : beyond h [(d.toNat, 1)] = none := by
  rw [← regsAt_of_vector hd]
  exact beyond_regsAt_of_sourceIn (.inl ⟨hd, hdr⟩)

/-- With legal operands FCLASS accepts IMM where its source is 0xF8, MOD TRULE and HINT (R197). -/
theorem legalWith_fclass_iff (ha : sourceIn h a.toNat) :
    legalWith h imm mod hint (.fclass d a) ↔ (imm = 0#32 ∨ a = 0xF8#8) ∧ (mod = 0#32 ∨ truleAlone mod) := by
  have hcode : opcode (wordOf (.fclass d a)) = 0x67 := congrArg BitVec.toNat (Encoding.fields_8_8_8_8 0x67#8 d a 0#8).1
  let sh := shapeFp mod mTrule d.toNat 1 [(a.toNat, srcF a.toNat)] 1
  have hop : sh.opOk = true := by simp [sh, shapeFp, isV, hd, srcF_of_sourceIn ha]
  have hregs : beyond h sh.regs = none := by
    have hparts : sh.regs = [(d.toNat, 1)] ++ regsAt a.toNat 1 := by simp [sh, shapeFp]
    rw [hparts, beyond_append_eq_none_iff]
    exact ⟨beyond_vector hd hdr, beyond_regsAt_of_sourceIn ha⟩
  have himm : rejected sh imm mod = 0 ↔ imm = 0#32 ∨ a = 0xF8#8 :=
    (rejected_src_iff rfl mTrule_ne_zero).trans
      (or_congr_right (List.mem_singleton.trans (eq_comm.trans (BitVec.toNat_inj (y := 0xF8#8)))))
  have hmod : prefixField sh imm mod = false ↔ mod = 0#32 ∨ truleAlone mod :=
    prefixField_trule_iff (.inl rfl) rfl fun ht => by simp [sh, shapeFp, modRnd_of_truleAlone ht]
  rw [legalWith, encodingCause_eq_none_iff (by rw [hcode]; rfl) (by rw [hcode]; rfl) (by rw [hcode]; decide), shape_fclass,
    himm, hmod]
  exact ⟨fun ⟨hi, _, _, hm, _⟩ => ⟨hi, hm⟩, fun ⟨hi, hm⟩ => ⟨hi, hop, rfl, hm, rfl, hregs⟩⟩

/-- With a legal destination DICE accepts MOD TRULE and HINT alone (R207). -/
theorem legalWith_dice_iff :
    legalWith h imm mod hint (.dice d) ↔ imm = 0#32 ∧ (mod = 0#32 ∨ truleAlone mod) := by
  have hcode : opcode (wordOf (.dice d)) = 0x85 := congrArg BitVec.toNat (Encoding.fields_8_8_16 0x85#8 d 0#16).1
  have himm : rejected (shapeDice d.toNat) imm mod = 0 ↔ imm = 0#32 := rejected_none_iff rfl mTrule_ne_zero
  have hmod : prefixField (shapeDice d.toNat) imm mod = false ↔ mod = 0#32 ∨ truleAlone mod :=
    prefixField_trule_iff (.inr rfl) rfl fun _ => rfl
  rw [legalWith, encodingCause_eq_none_iff (by rw [hcode]; rfl) (by rw [hcode]; rfl) (by rw [hcode]; decide), shape_dice,
    himm, hmod]
  exact ⟨fun ⟨hi, _, _, hm, _⟩ => ⟨hi, hm⟩,
    fun ⟨hi, hm⟩ => ⟨hi, decide_eq_true hd, rfl, hm, rfl, beyond_vector hd hdr⟩⟩

end

end Sys2Proof.Machine

namespace Sys2Proof.Claims
open Sys2Proof.Machine

/-- Settles O18: FCLASS and DICE by the lane results they commit, which record nothing, MFSR by the vector cells it writes, and
the encodings by the opcodes' rows and the checks of R72. -/
theorem classAndDice : Obligations.ClassAndDice := by
  unfold Obligations.ClassAndDice
  refine ⟨?fclass, ?dice, ?mfsr, fun d a => ⟨Laws.Encoding.fclass d a _ rfl rfl, Laws.Encoding.dice d _ rfl rfl⟩,
    fun h imm mod hint d a hd hdr ha => ⟨legalWith_fclass_iff hd hdr ha, legalWith_dice_iff hd hdr⟩⟩
  case fclass =>
    intro s e d a he hruns x
    obtain ⟨t, e', ht, hframe, hg, hbut, hcell, hdice⟩ := quietLanes_word he hruns (fclassLane_quiet d a e)
    refine ⟨t, e', ht, hframe, hg, hbut, fun j hj => ?_, fun j => ?_⟩
    · rw [hcell j hj, plainTag_fclassLane, laneOne_eq, ← fclassBit_eq_classBit (x j).1.isLt]
      simp only [fclassLane, laneOne_eq, x]
    · rw [hdice j]
      simp only [fclassLane, drawn_getD, laneOne_dice]
  case dice =>
    intro s e d he hruns x
    obtain ⟨t, e', ht, hframe, hg, hbut, hcell, hdice⟩ := quietLanes_word he hruns (diceLane_quiet d e)
    have hdrawn : ∀ j ∈ e.lanes, vreg e'.g d.toNat j =
        (x j, ruleTag (ruleOf e) .produce (own e) [] 0#16 0#16 (vreg e.g d.toNat j).2) := hcell
    refine ⟨t, e', ht, hframe, hg, hbut, hdrawn, fun j hj => ⟨fun hrule => ?_, fun hrule => ?_⟩, hdice⟩
    · rw [hdrawn j hj, hrule]
      rfl
    · rw [hdrawn j hj]
      rcases hrule with hrule | hrule <;> rw [hrule] <;> rfl
  case mfsr =>
    intro s e d he hruns
    obtain ⟨t, ht, hframe⟩ := putV_word he hruns
    exact ⟨t, _, (exec_mfsr_dice d s).trans ht, hframe, fun _ => rfl⟩

end Sys2Proof.Claims
end
